-- ==== Sys2Proof/Word.lean ====
section
/-! DEFINITION. The words of the block: 32-bit register and seat words, bytes, and the sparse table that holds state by
number (R13, R163). -/

namespace Sys2Proof

/-- A 32-bit register word or seat word (R13, R163). -/
abbrev Word := BitVec 32

/-- One byte. -/
abbrev Byte := BitVec 8

/-- A table keyed by a number: strictly rising keys, and no entry equal to what an unlisted key reads as. -/
abbrev Tbl (α : Type) := List (Nat × α)

end Sys2Proof
end

