-- ==== Sys2Proof/Machine/Types.lean ====
section
/-! DEFINITION. The types of the commands' operands: what a frame, a measurement, a fault or a CCP parameter carries. -/

namespace Sys2Proof

/-- The two paths on which CCP packets travel (R432, R433). -/
inductive CcpPath where
  | inBand
  | mspi
deriving DecidableEq, Repr

/-- Where a CCP command came from, and its TAG (R428, R439). -/
structure CmdHdr where
  path : CcpPath
  tag : Nat
deriving DecidableEq, Repr

/-- A time tag: the slot and the symbol that bytes 4–6 of the EFF header name (R86). -/
structure TimeTag where
  frame : Nat
  subframe : Nat
  slot : Nat
  symbol : Nat
deriving DecidableEq, Repr

/-- Downlink or uplink (R92). -/
inductive Dir where
  | dl
  | ul
deriving DecidableEq, Repr

/-- A complex value of two real parts. -/
structure Cplx where
  re : Int
  im : Int
deriving DecidableEq, Repr, Inhabited

/-- What a memory shows at one read of a code word beside its stored content: flipped bits by stored symbol position, and
a difference in the word address that the access path applied (R344, R350). No flips and no difference: the word reads as
it was stored. -/
structure WordFault where
  word : Nat := 0
  flips : List (Nat × Byte) := []
  waXor : Nat := 0
deriving DecidableEq, Repr

/-- IPv4 and UDP attributes of a received datagram (R84). -/
structure UdpInfo where
  ihl : Nat
  fragment : Bool
  dstIp : Nat
  dstPort : Nat
  /-- `none`: checksum zero; `some b`: non-zero checksum, and whether it verifies. -/
  checksum : Option Bool
deriving DecidableEq, Repr

/-- One received Ethernet frame that carries EFF (R83 to R86): the attributes of the frame and the bytes from the EFF
header's first byte to the last byte before the FCS. -/
structure RxFrame where
  port : Nat
  lane : Nat
  fecOk : Bool
  fcsOk : Bool
  vlanTags : Nat
  etherType : Nat
  dstMac : Nat
  srcMac : Nat
  clientLen : Nat
  udp : Option UdpInfo
  eff : List Byte
deriving DecidableEq, Repr

/-- What the 12-bit converter and the fabric speed monitors deliver in one housekeeping round (R460, R127): a CODE and a
VALUE for each of 96 channels, of which the VALUEs of channels 24 and 25 come from 16 samples of VIN in mV and of IIN in mA, and per crew
the present and the predicted speed in Mop/s. -/
structure HkSample where
  codes : List Nat
  values : List Int
  vin : List Int
  iin : List Int
  speedNow : List Nat
  speedMax : List Nat
deriving DecidableEq, Repr

/-- A parameter marked (h): a number for half 0 and, when present, one for half 1 (R429). -/
structure Halves where
  h0 : Int
  h1 : Option Int
deriving DecidableEq, Repr

/-- The items of a mode command, without the fallback (R44, R442). -/
structure ModeItems where
  target : Nat
  dlBeams : Option Halves := none
  ulBeams : Option Halves := none
  rateKsps : Option Halves := none
  scsKhz : Option Halves := none
  mantW : Option Halves := none
  loKhz : Option (List Nat) := none
  role : Option Nat := none
  members : Option Nat := none
  base : Option Nat := none
  test : Option Nat := none
deriving DecidableEq, Repr

/-- A mode command: its items, then the chain of FALLBACK blocks, the outermost first (R44, R506). -/
structure ModeReq where
  items : ModeItems
  fallbacks : List ModeItems := []
deriving DecidableEq, Repr

/-- CARRIER_SET parameters (R442, R505). -/
structure CarrierReq where
  ncoHz : Option Halves := none
  nPrb : Option Halves := none
  shiftDl : Option Halves := none
  shiftUl : Option Halves := none
  fftAdv : Option Halves := none
  phaseComp : Option Nat := none
deriving DecidableEq, Repr

/-- FH_PORT_PARAM parameters (R442, R83 to R85, R111). -/
structure PortParamReq where
  port : Nat
  localMac : Option Nat := none
  hostMac : Option Nat := none
  etherType : Option Nat := none
  vlan : Option (Nat × Nat × Nat) := none
  udpEn : Option Nat := none
  localIp : Option Nat := none
  hostIp : Option Nat := none
  udpPort : Option Nat := none
  dscp : Option Nat := none
  pktLimit : Option Nat := none
deriving DecidableEq, Repr

/-- FH_WINDOWS parameters in µs (R107, R118). -/
structure WindowsReq where
  csOpen : Option Nat := none
  csClose : Option Nat := none
  udOpen : Option Nat := none
  udClose : Option Nat := none
  accWait : Option Nat := none
deriving DecidableEq, Repr

/-- IDLE_GAP parameters (R234). -/
structure IdleGapReq where
  op : Nat
  groups : Nat
  start : Option TimeTag := none
  slots : Option Nat := none
  period : Option Nat := none
  id : Option Nat := none
deriving DecidableEq, Repr

/-- One PA-bus transaction: the chip select and the bytes it shifts (R249). -/
structure PaXfer where
  cs : Nat
  bytes : List Byte
deriving DecidableEq, Repr

/-- PA_BUS parameters (R250, R251). `miso` is what the data input delivers during an immediate transaction. -/
structure PaBusReq where
  op : Nat
  cs : Option Nat := none
  bytes : Option (List Byte) := none
  tag : Option TimeTag := none
  offsetNs : Option Int := none
  sequence : Option (List PaXfer) := none
  miso : List Byte := []
deriving DecidableEq, Repr

/-- WS_CONFIG parameters (R219). -/
structure WsConfigReq where
  blendK : Option Nat := none
  estMinQ : Option Int := none
  ageMin : Option Nat := none
  regZf : Option Nat := none
  recip : Option (List Cplx) := none
deriving DecidableEq, Repr

/-- THERMAL_CONFIG parameters (R469). -/
structure ThermalConfigReq where
  pinLimit : Option Nat := none
  riseLimit : Option Nat := none
  warnT : Option Nat := none
  stepInt : Option Nat := none
deriving DecidableEq, Repr

/-- STARTUP_WRITE parameters (R66, R442). -/
structure StartupReq where
  portConfig : Nat
  portParam : PortParamReq
  pinLimit : Nat
  slackFloor : Nat
  loKhz : List Nat
deriving DecidableEq, Repr

/-- KERNEL_INSTALL: the words of the raw image of R189. -/
structure KernelImage where
  words : List Word
  /-- how often the read-back of each of its two stores in MRAM mismatches, which the device's environment supplies (R191, R314) -/
  mismatches : Nat × Nat := (0, 0)
deriving DecidableEq, Repr

/-- One model record of a DPD bank slot (R291). The LUT holds L[m][a] at index 32·m + a. -/
structure DpdRecord where
  valid : Bool := false
  prov : Bool := false
  trainIdx : Nat := 0
  freqKhz : Nat := 0
  nmse : Int := 0
  temp : Int := 0
  lastUse : Nat := 0
  trained : Nat := 0
  lut : List Cplx := []
  reservedZero : Bool := true
deriving DecidableEq, Repr

/-- A PTP message's fields that the servo uses, in 2⁻¹⁶ ns units where they are times (R404 to R407). -/
structure PtpMsg where
  port : Nat
  lane : Nat
  domain : Nat
  /-- the master's port identity -/
  source : Nat
  twoStep : Bool
  /-- the receive stamp at the MAC, before R406 corrects it -/
  rxStamp : Int
  /-- originTimestamp or receiveTimestamp the message carries -/
  stamp : Int
  correction : Int
  /-- logMessageInterval -/
  logInterval : Int
  /-- the dataset of an Announce, as one number that compares lower for the better master (IEEE 1588-2019) -/
  dataset : Nat
  /-- the destination address of its frame -/
  dst : Nat := 0x0180C200000E
  /-- the requestingPortIdentity of a Delay_Resp is the device's -/
  toDevice : Bool := true
deriving DecidableEq, Repr

/-- The measured levels of a capture against which R304 checks its preconditions. -/
structure CapMeasure where
  /-- the group was in the needed direction for every sample -/
  window : Bool
  /-- RMS level, in −dBFS -/
  levelDb : Nat
  /-- percentage of PRBs within 20 dB of the strongest -/
  occupancy : Nat
  /-- a sample at an extreme code -/
  clipped : Bool
deriving DecidableEq, Repr

/-- What the DPD estimate of R297 yields: the two residuals in 0.1 dB and the fitted LUT set P. -/
structure DpdEstimate where
  nmseNow : Int
  nmseFit : Int
  fit : List Cplx
deriving DecidableEq, Repr

/-- A seat that executes an instruction: its number in the fabric (R124), and what the read of its program word meets (R168). -/
structure SeatFetch where
  n : Nat
  fault : WordFault := {}
deriving DecidableEq, Repr

/-- The side action of a format M or R instruction (R171). -/
inductive Side where
  | none
  | ldi (d : Nat)
  | ldr (d : Nat)
  | ld (d p m : Nat)
  | st (d p m : Nat)
  | sti (p m : Nat)
  | out (d : Nat)
deriving DecidableEq, Repr

/-- The fields of format M (R170): accumulator, X register and half, Y register and half, side action, PUSH. -/
structure MForm where
  acc : Nat := 0
  xr : Nat := 0
  xh : Bool := false
  yr : Nat := 0
  yh : Bool := false
  side : Side := .none
  push : Bool := false
  /-- what the read of data memory meets, of a load or in a store (R168, R169) -/
  fault : WordFault := {}
deriving DecidableEq, Repr

/-- The fields of format R (R170). -/
structure RForm where
  dd : Nat
  da : Nat
  db : Nat
  hw : Bool := false
  side : Side := .none
  /-- as in `MForm` -/
  fault : WordFault := {}
deriving DecidableEq, Repr

/-- Kinds of unit, as KIND of UNIT_STATE_SET numbers them (R442). -/
inductive UnitKind where
  | txPath
  | rxPath
  | dlBeam
  | ulBeam
  | loGroup
  | crew
deriving DecidableEq, Repr

end Sys2Proof
end

