-- ==== Sys2Proof/Syntax.lean ====
section
/-! DEFINITION. The commands of the block: one constructor per row of opcode_table.json, with the operands the row's rule
gives it. -/

namespace Sys2Proof

/-- A command: an operation or event of the table of operations (95_what_each_step_holds.md). -/
inductive Instr where
  /-- VIN_START (R65): VIN rises past the 5.8 V start threshold and the cold start-up sequence begins. -/
  | vinStart
  /-- POWER_ON_RESET (R454): VIN falls below 2.5 V, which resets the always-on domain so that the next start is a power-on. -/
  | powerOnReset
  /-- BROWN_OUT (R457): VIN stays below 5.4 V for 2 µs, so all rails except VAON switch off and the cause and VIN extreme are latched. -/
  | brownOut (vin10mV : Nat)
  /-- OVERVOLTAGE (R454): VIN stays above 41.5 V for 2 µs and is handled as a brown-out with cause OVER. -/
  | overvoltage (vin10mV : Nat)
  /-- RAIL_FAULT (R456): a rail misses regulation within 5 ms of its start, or stays outside ±10 % for 50 µs, and is handled as a brown-out with cause RAIL. -/
  | railFault (rail : Nat) (vin10mV : Nat)
  /-- DRAM_TRAINING_DONE (R68): DRAM training ends; a failed rank is replaced by rank 2, or the device enters RECOVERY when two or more ranks fail. -/
  | dramTrainingDone (failed : List Nat)
  /-- MEMORY_FILL_DONE (R352): the fill of all Cave and SRAM words with zero data and valid check bits completes, and Cox is released from reset. -/
  | memoryFillDone
  /-- FIRMWARE_SELECT (R67): Cox chooses and verifies an MRAM firmware image and starts running it, or the device enters RECOVERY. -/
  | firmwareSelect
  /-- REFERENCE_VALID (R68): a valid reference clock appears while the device waits in BOOT with NO_REFERENCE, and start-up continues. -/
  | referenceValid (rateKhz : Nat)
  /-- STARTUP_COMPLETE (R65): Start-up reaches STANDBY, and BOOT_DONE is sent in band and on MSPI. -/
  | startupComplete
  /-- HOUSEKEEPING_ROUND (R426): Every 10 ms Cox evaluates its policies in a fixed order on the new housekeeping measurements. -/
  | housekeepingRound (hk : HkSample)
  /-- MODE_PREP_DONE (R58): the preparation of a mode change or step-down ends, and the change waits for its effective stroke. -/
  | modePrepDone
  /-- CREW_LOAD (R187): Cox clears a crew, broadcasts its kernels, checks their CRC and sets its kernel bases. -/
  | crewLoad (crew : Nat) (badSeats : List Nat)
  /-- STROKE (R398): a slot boundary of the stroke grid occurs, and every change due at a stroke is applied. -/
  | stroke (half : Nat)
  /-- UPTIME_TICK (R400): the uptime count advances at each 125 µs boundary of the grid. -/
  | uptimeTick
  /-- SYMBOL_START (R140): At S_j, the catch-buffer bank of the symbol is handed to the Eight, which may start its class 1 items. -/
  | symbolStart (dir : Dir) (half : Nat) (tag : TimeTag) (samples : List (Nat × List Cplx))
  /-- SYMBOL_CUT (R143): At H_j, unfinished class 1 items of the symbol are abandoned, and a symbol is repeated or dropped per affected path. -/
  | symbolCut (dir : Dir) (half : Nat) (tag : TimeTag)
  /-- SYMBOL_BOUNDARY (R241): a symbol boundary at the balls occurs, and each LO group takes its radio state and switches its chains. -/
  | symbolBoundary (half : Nat) (tag : TimeTag)
  /-- ITEM_DISPATCH (R182): the crew dispatcher starts the next ready item on the seats its kind uses. -/
  | itemDispatch (crew : Nat)
  /-- QUEUE_WAIT_END (R166): a seat that waits on IN, RIN, OUT or RED resumes when the queue or port becomes ready. -/
  | queueWaitEnd (seat : Nat)
  /-- REDUCTION_DELIVERY (R185): the reduction network delivers the narrowed sum of push i to a seat's RIN after the last of the 64 pushes. -/
  | reductionDelivery (crew : Nat)
  /-- HANDSHAKE_TIMEOUT (R180): a handshake stays pending for more than 2 µs, and the crew is muted as faulted. -/
  | handshakeTimeout (crew : Nat)
  /-- END (R172): the seat ends the item, clears the loop state and returns to the dispatcher. -/
  | seatEnd (seat : SeatFetch)
  /-- NOP (R172): the seat performs no main operation, only the side action and push of the instruction. -/
  | seatNop (seat : SeatFetch) (f : MForm)
  /-- MPY (R173): the seat multiplies two halves into an accumulator. -/
  | seatMpy (seat : SeatFetch) (f : MForm)
  /-- MAC (R173): the seat adds a product of two halves to an accumulator. -/
  | seatMac (seat : SeatFetch) (f : MForm)
  /-- MSU (R173): the seat subtracts a product of two halves from an accumulator. -/
  | seatMsu (seat : SeatFetch) (f : MForm)
  /-- NRW (R174): the seat narrows A0 and A1 into one data register. -/
  | seatNrw (seat : SeatFetch) (dd : Nat) (sat : Bool) (ks : Bool) (k : Nat)
  /-- NORM (R175): the seat writes the count of redundant sign bits of an accumulator. -/
  | seatNorm (seat : SeatFetch) (asel : Nat) (dd : Nat)
  /-- ACLR (R172): the seat clears one or both accumulators. -/
  | seatAclr (seat : SeatFetch) (asel : Nat)
  /-- ADD (R172): the seat adds two registers, as a whole word or per half. -/
  | seatAdd (seat : SeatFetch) (f : RForm)
  /-- SUB (R172): the seat subtracts two registers, as a whole word or per half. -/
  | seatSub (seat : SeatFetch) (f : RForm)
  /-- AND (R172): the seat forms the bitwise AND of two registers. -/
  | seatAnd (seat : SeatFetch) (f : RForm)
  /-- OR (R172): the seat forms the bitwise OR of two registers. -/
  | seatOr (seat : SeatFetch) (f : RForm)
  /-- XOR (R172): the seat forms the bitwise XOR of two registers. -/
  | seatXor (seat : SeatFetch) (f : RForm)
  /-- MAX (R172): the seat writes the signed maximum of two registers. -/
  | seatMax (seat : SeatFetch) (f : RForm)
  /-- MIN (R172): the seat writes the signed minimum of two registers. -/
  | seatMin (seat : SeatFetch) (f : RForm)
  /-- ASR (R172): the seat shifts a register right arithmetically. -/
  | seatAsr (seat : SeatFetch) (f : RForm)
  /-- SHL (R172): the seat shifts a register left, with zeros shifted in. -/
  | seatShl (seat : SeatFetch) (f : RForm)
  /-- EXPR (R176): the seat computes the bits needed by register values. -/
  | seatExpr (seat : SeatFetch) (f : RForm)
  /-- EXP (R176): the seat computes the bits needed over a run of memory words; `faults` is what each read meets (R168). -/
  | seatExp (seat : SeatFetch) (dd da ep em : Nat) (w : Bool) (cnt : Nat) (faults : List WordFault)
  /-- MOVI (R177): the seat writes an immediate value into a register. -/
  | seatMovi (seat : SeatFetch) (dd : Nat) (place : Nat) (imm : BitVec 16)
  /-- MOVS (R177): the seat reads a special register into a data register. -/
  | seatMovs (seat : SeatFetch) (dd : Nat) (sreg : Nat)
  /-- LDP (R177): the seat loads an immediate into a P or M register. -/
  | seatLdp (seat : SeatFetch) (kndM : Bool) (idx : Nat) (imm : BitVec 12)
  /-- MVP (R172): the seat copies a data register into a P or M register. -/
  | seatMvp (seat : SeatFetch) (kndM : Bool) (idx : Nat) (dr : Nat)
  /-- LOOP (R178): the seat starts a hardware loop. -/
  | seatLoop (seat : SeatFetch) (rs : Bool) (dr : Nat) (lend : Nat) (cnt : Nat)
  /-- JMP (R178): the seat jumps to a target offset. -/
  | seatJmp (seat : SeatFetch) (tgt : Nat)
  /-- BZ (R172): the seat branches when a register is zero. -/
  | seatBz (seat : SeatFetch) (dr : Nat) (tgt : Nat)
  /-- BNZ (R172): the seat branches when a register is not zero. -/
  | seatBnz (seat : SeatFetch) (dr : Nat) (tgt : Nat)
  /-- U_DATA_DOWNLINK (R99): a downlink U-data packet is received, checked and matched to accepted C-sections. -/
  | uDataDownlink (f : RxFrame)
  /-- C_SECTION (R96): a C-section packet is received, and each of its sections is judged and accepted or ignored. -/
  | cSection (f : RxFrame)
  /-- PARTIAL_SUM (R118): a partial-sum packet from downstream is received and held for accumulation. -/
  | partialSum (f : RxFrame)
  /-- CCP_PACKET (R432): an in-band CCP command packet is received and queued for Cox. -/
  | ccpPacket (f : RxFrame)
  /-- WEIGHT_UPDATE (R103): a weight-update packet is received, and its sections are queued for the next stroke. -/
  | weightUpdate (f : RxFrame)
  /-- CHAIN_STATUS_RECORD (R114): a CHAIN status record from a neighbour is received and consumed. -/
  | chainStatusRecord (f : RxFrame)
  /-- MAC_CONTROL_FRAME (R81): a received MAC control frame is discarded and counted in PAUSE_CNT. -/
  | macControlFrame (port : Nat)
  /-- UPLINK_SEND (R111): the combined beams of a symbol are compressed, packed and sent as U-data or partial sums. -/
  | uplinkSend (half : Nat) (tag : TimeTag)
  /-- ACCUMULATION_DEADLINE (R118): a symbol's accumulation deadline passes, and missing partial sums are added as zero. -/
  | accumulationDeadline (half : Nat) (tag : TimeTag)
  /-- HOST_SILENT (R110): the upstream-facing port receives no EFF packet for 100 ms. -/
  | hostSilent
  /-- HUB_SILENT (R121): a member receives no packet on port B for 30 ms. -/
  | hubSilent
  /-- MEMBER_SILENT (R121): a module receives nothing from its downstream member for 30 ms. -/
  | memberSilent
  /-- LINK_DOWN (R113): a lane's link goes down, and uplink packets due on it are discarded. -/
  | linkDown (lane : Nat)
  /-- LINK_UP (R113): a lane's link comes up after training. -/
  | linkUp (lane : Nat)
  /-- ESTIMATE_DONE (R204): an estimation item completes, and its estimate is discarded or becomes due for write-back or insertion. -/
  | estimateDone (item : Nat)
  /-- EST_ABANDON (R132): a class 2 item misses its deadline and is abandoned. -/
  | estAbandon (item : Nat)
  /-- LOOKUP_DONE (R198): a P0 lookup completes with HIT, MISS or POISON. -/
  | lookupDone (faults : List WordFault)
  /-- AGEING_WALK (R216): the hourly ageing walk marks as STALE the LIVE entries idle beyond AGE_TIME. -/
  | ageingWalk
  /-- REFRESH_DUE (R334): a rank's refresh falls due and is issued, postponed or forced with its owed refreshes. -/
  | refreshDue (rank : Nat)
  /-- TARGETED_REFRESH_URGENT (R337): a targeted refresh that has waited 8 µs is raised to item 2. -/
  | targetedRefreshUrgent (rank : Nat)
  /-- AGE_PROMOTE (R330): a request that has waited AGE_LIMIT is promoted to item 7. -/
  | agePromote (req : Nat)
  /-- METER_WINDOW (R324): a new 1 µs metering window starts for P1 to P3. -/
  | meterWindow
  /-- REFRESH_WINDOW_END (R335): a rank's refresh window ends, and its row-disturbance trackers are cleared. -/
  | refreshWindowEnd (rank : Nat)
  /-- SCRUB_READ (R357): the scrubber reads the next Cave word and writes it back or logs it according to the decode. -/
  | scrubRead (fault : WordFault)
  /-- SRAM_SCRUB (R356): the SRAM walk reads the next SRAM word and writes back corrections. -/
  | sramScrub (fault : WordFault)
  /-- MIGRATION_DONE (R366): the rank copy ends, the logical rank moves to the spare and the old rank enters self-refresh. -/
  | migrationDone
  /-- DMA_ELEMENT (R377): a DMA channel's element access completes, is retried after a bus error, or halts the channel. -/
  | dmaElement (ch : Nat) (faults : List WordFault) (verifyFails : Nat)
  /-- DMA_FINAL_HANDSHAKE (R382): the last element of a set is accepted, and SHADOW_VALID decides between a hand-over and idle. -/
  | dmaFinalHandshake (ch : Nat)
  /-- GO (R381): a DMA_CMD write with GO checks and starts the active set, or the shadow set when one is armed. -/
  | dmaGo (ch : Nat)
  /-- ARM (R381): a DMA_CMD write with ARM marks the shadow set valid. -/
  | dmaArm (ch : Nat)
  /-- DISARM (R381): a DMA_CMD write with DISARM clears the shadow set. -/
  | dmaDisarm (ch : Nat)
  /-- STOP (R385): a DMA_CMD write with STOP ends the channel at the end of its running set. -/
  | dmaStop (ch : Nat)
  /-- ABORT (R386): a DMA_CMD write with ABORT stops a bulk channel at once and discards its requests. -/
  | dmaAbort (ch : Nat)
  /-- DMA_SET_FIELD_WRITE (R384): a write to an active or shadow set field is performed, or ignored with SHADOW_BUSY. -/
  | dmaSetFieldWrite (ch : Nat) (field : Nat) (value : Word)
  /-- CAP_RD_CNT_WRITE (R278): a host write to CAP_RD_CNT consumes blocks when it lies within the unread range. -/
  | capRdCntWrite (ring : Nat) (value : Word)
  /-- TRAIN_EN_WRITE (R298): a write of TRAIN_EN in DPD_STATUS sets automatic training and clears HOLD on a change from 0 to 1. -/
  | trainEnWrite (path : Nat) (value : Word)
  /-- TIME_NS_READ (R397): a read of TIME_NS latches the seconds field into TIME_SEC_HI and TIME_SEC_LO. -/
  | timeNsRead
  /-- RC_READ (R17): a read of an RC field returns the value and clears the field. -/
  | rcRead (addr : Nat)
  /-- W1C_WRITE (R17): a write to a W1C field clears each bit written as 1. -/
  | w1cWrite (addr : Nat) (value : Word)
  /-- REGISTER_WRITE (R445): a write to a register without behaviour of its own sets its RW fields, or is ignored by the owner. -/
  | registerWrite (addr : Nat) (value : Word)
  /-- CAPTURE_BLOCK_STAGED (R280): a source completes a block's worth of samples, which enter capture staging or are discarded. -/
  | captureBlockStaged (ring : Nat) (tag : TimeTag) (sampleOff : Nat) (samples : List Word)
  /-- CAPTURE_BLOCK_WRITTEN (R278): a block is written to its ring, possibly overwriting the oldest block or stopping a full ring. -/
  | captureBlockWritten (ring : Nat)
  /-- CAPTURE_END (R281): a capture reaches LENGTH, and its ring moves to IDLE or ARMED. -/
  | captureEnd (ring : Nat)
  /-- IMMEDIATE_TRIGGER (R281): an IMMEDIATE trigger fires within 10 µs of the arm. -/
  | immediateTrigger (ring : Nat)
  /-- TIME_TRIGGER (R281): a TIME trigger fires at its tagged instant, or is missed. -/
  | timeTrigger (ring : Nat)
  /-- LEVEL_TRIGGER (R281): a LEVEL trigger fires on a 256-sample window at or above the threshold. -/
  | levelTrigger (ring : Nat) (powerDb : Nat)
  /-- CAL_CAPTURE_DONE (R304): a calibration or DPD capture completes, and its preconditions are checked. -/
  | calCaptureDone (m : CapMeasure)
  /-- DPD_RUN_END (R299): a DPD run's estimate completes and is judged under supervision, NMSE and gain. -/
  | dpdRunEnd (e : DpdEstimate)
  /-- CAL_RUN_END (R306): a blind-calibration run's estimate completes and is accepted or rejected. -/
  | calRunEnd (codes : List Int)
  /-- CAL_TIMEOUT (R309): a run without an outcome 500 ms after its start ends DEFERRED with TIMEOUT. -/
  | calTimeout
  /-- CAL_COMMAND_TIMEOUT (R310): 5 s after a calibration command's reply, its completion is sent with the outcomes so far. -/
  | calCommandTimeout (h : CmdHdr)
  /-- MRAM_STORE (R314): a queued cluster store writes the inactive A/B copy, verifies it and commits it. -/
  | mramStore (mismatches : Nat)
  /-- LOCK_DETECTED (R238): a group's synthesizer locks, and the group moves from SETTLE to LOCKED. -/
  | lockDetected (group : Nat)
  /-- SETTLE_TIMEOUT (R230): a group has not locked 1 ms after entering SETTLE, so it goes to OFF and becomes FAULTED. -/
  | settleTimeout (group : Nat)
  /-- SYNTH_CAL_END (R231): a synthesizer calibration completes or fails, and the group moves to SETTLE or to OFF. -/
  | synthCalEnd (group : Nat) (bandFound : Bool)
  /-- IDLE_GAP_START (R233): a declared idle gap begins, and a pending temperature calibration starts in it. -/
  | idleGapStart (group : Nat) (id : Nat)
  /-- LOSS_OF_LOCK (R28): an LO group loses lock, so its paths are muted and it goes to SETTLE as FAULTED. -/
  | lossOfLock (group : Nat)
  /-- PLL_UNLOCK (R28): the reference PLL or CPLL loses lock, so all TX is muted and uplink U-data is withheld. -/
  | pllUnlock (cpll : Bool)
  /-- PLL_RELOCK (R28): the PLLs relock, and the data plane is restored at the next stroke. -/
  | pllRelock
  /-- TX_PATH_FAULT (R158): a TX path fault is detected and the path is muted at the next converter sample. -/
  | txPathFault (path : Nat) (fault : Nat)
  /-- RX_PATH_FAULT (R158): an RX path fault is detected and the path is muted from the next symbol. -/
  | rxPathFault (path : Nat) (fault : Nat)
  /-- CREW_FAULT (R158): an uncorrectable program read or a reduction parity error mutes a crew at once. -/
  | crewFault (crew : Nat) (fault : Nat)
  /-- PA_TIMED_TRANSACTION (R250): a queued timed PA-bus transaction reaches its instant and runs. -/
  | paTimedTransaction
  /-- SYNC_MESSAGE (R407): a one-step PTP Sync is time-stamped and yields a servo measurement. -/
  | syncMessage (m : PtpMsg)
  /-- ANNOUNCE (R403): a PTP Announce message is received and used for master selection. -/
  | announce (m : PtpMsg)
  /-- DELAY_RESP (R404): a Delay_Resp supplies t4 and sets the Delay_Req interval. -/
  | delayResp (m : PtpMsg)
  /-- DELAY_REQ (R419): a chain timing master receives a Delay_Req and answers it. -/
  | delayReq (m : PtpMsg)
  /-- DELAY_REQ_SEND (R407): the slave sends a Delay_Req with its one-step transmit stamp. -/
  | delayReqSend (txStamp : Int)
  /-- CHAIN_SYNC_SEND (R419): a chain timing master sends a one-step Sync downstream. -/
  | chainSyncSend (txStamp : Int)
  /-- SYNC_TIMEOUT (R411): No valid measurement arrives for SYNC_TIMEOUT, so the device enters HOLDOVER. -/
  | syncTimeout
  /-- PPS_IN_EDGE (R416): a PPS_IN edge is time-stamped and, with SYNC_SRC = PPS, yields a measurement. -/
  | ppsInEdge
  /-- PPS_LOST (R416): No PPS_IN edge arrives within 1.1 s of the previous one, and the event is raised. -/
  | ppsLost
  /-- PPS_OUT_PULSE (R417): PPS_OUT goes high at a second boundary plus OUT_OFFSET, for WIDTH_MS. -/
  | ppsOutPulse
  /-- WAKE_PIN (R74): WAKE is high for 1 µs in DORMANT or during its entry, which starts the wake. -/
  | wakePin
  /-- WAKE_SEC_MATCH (R418): the counter's seconds reach WAKE_SEC in DORMANT, which starts the wake. -/
  | wakeSecMatch
  /-- WAKE_COMPLETE (R74): the wake sequence reaches STANDBY, and Cox restores the registers and sends the wake event. -/
  | wakeComplete
  /-- DORMANT_ENTRY (R71): Cox mutes, drains, records the scrubber, takes the links down and powers the device down into DORMANT. -/
  | dormantEntry
  /-- WATCHDOG_EXPIRY (R28): No Cox heartbeat for 500 ms, so the watchdog restarts Cox from the active image. -/
  | watchdogExpiry
  /-- COX_RESUME (R28): Cox reads back the data-plane state after a restart and resumes its policies. -/
  | coxResume
  /-- COMPARATOR_TRIP (R472): a sensor comparator trips at 130 °C and the hardware shutdown sequence runs. -/
  | comparatorTrip (sensor : Nat)
  /-- THERMAL_RESTART (R474): Every unmasked sensor has read below 110 °C for 100 rounds, so the device restarts to STANDBY. -/
  | thermalRestart
  /-- WRITE_PACKET (R434): an MSPI transaction delivers a CCP packet to Cox, or wakes the device from DORMANT. -/
  | writePacket (len : Nat) (bytes : List Byte) (crc : Nat)
  /-- READ_PACKET (R434): an MSPI transaction returns the oldest queued packet. -/
  | readPacket (complete : Bool)
  /-- READ_STATUS (R433): an MSPI transaction returns COX_READY, the state flags, CMD_SPACE and OUT_COUNT. -/
  | readStatus
  /-- IDENT (R442): the command returns the part and revision identities, the firmware slot and the serial. -/
  | ident (h : CmdHdr)
  /-- COX_STATUS (R442): the command returns the uptime and Cox's counters. -/
  | coxStatus (h : CmdHdr)
  /-- EVENT_MASK (R451): the command sets the event codes enabled on one delivery path. -/
  | eventMask (h : CmdHdr) (path : Nat) (mask : Nat)
  /-- STARTUP_WRITE (R66): the command stores the start-up record in MRAM. -/
  | startupWrite (h : CmdHdr) (q : StartupReq) (mismatches : Nat)
  /-- STARTUP_READ (R66): the command returns the start-up record. -/
  | startupRead (h : CmdHdr)
  /-- MODE_SET (R48): the command requests a mode change, which is admitted or refused and then prepared. -/
  | modeSet (h : CmdHdr) (q : ModeReq)
  /-- MODE_STATUS (R62): the command returns the mode state, the preparation flag, the counters and the configuration in force. -/
  | modeStatus (h : CmdHdr) (clear : Option Nat)
  /-- CARRIER_SET (R505): the command stores the NCO, PRB-count, shift and FFT-window items for the next mode entry. -/
  | carrierSet (h : CmdHdr) (q : CarrierReq)
  /-- UNIT_STATE_SET (R160): the command sets units IN_SERVICE, after testing faulted ones, or OUT_OF_SERVICE. -/
  | unitStateSet (h : CmdHdr) (kind : Nat) (units : Nat) (half : Option Nat) (state : Nat) (failing : Nat)
  /-- FABRIC_STATUS (R507): the command returns unit states and the per-path and per-crew fabric counters. -/
  | fabricStatus (h : CmdHdr) (clear : Option Nat)
  /-- SECTOR_BEAM_SET (R139): the command writes the sector-beam weights of one beam. -/
  | sectorBeamSet (h : CmdHdr) (dir : Nat) (half : Nat) (beam : Nat) (weights : List Cplx)
  /-- KERNEL_INSTALL (R190): the command checks a customer combiner image and stores it in MRAM. -/
  | kernelInstall (h : CmdHdr) (image : KernelImage)
  /-- KERNEL_REMOVE (R191): the command restores the vendor combiner from the next mode entry. -/
  | kernelRemove (h : CmdHdr)
  /-- KERNEL_STATUS (R191): the command returns the state of the installed combiner. -/
  | kernelStatus (h : CmdHdr)
  /-- FH_PORT_CONFIG (R78): the command sets the port configuration in STANDBY and retrains the links. -/
  | fhPortConfig (h : CmdHdr) (config : Nat) (fec : Option (Nat × Nat)) (iface : Option (Nat × Nat))
  /-- FH_PORT_PARAM (R83): the command sets a port's addressing, EtherType, VLAN, UDP and packet-limit settings. -/
  | fhPortParam (h : CmdHdr) (q : PortParamReq)
  /-- FH_EQ (R498): the command sets a lane's transmit FFE and receive CTLE. -/
  | fhEq (h : CmdHdr) (lane : Nat) (ffe : Option (List Int)) (ctle : Option Nat)
  /-- FH_WINDOWS (R107): the command sets the arrival windows and ACC_WAIT. -/
  | fhWindows (h : CmdHdr) (q : WindowsReq)
  /-- FH_STATS (R122): the command returns a port's fronthaul counters and optionally clears them. -/
  | fhStats (h : CmdHdr) (port : Nat) (clear : Option Nat)
  /-- LO_TUNE (R230): the command retunes a set of LO groups through CAL and SETTLE. -/
  | loTune (h : CmdHdr) (groups : Nat) (freqKhz : Nat)
  /-- LO_OFF (R238): the command turns LO groups OFF in STANDBY or SERVICE. -/
  | loOff (h : CmdHdr) (groups : Nat)
  /-- SYNTH_CAL (R235): the command starts a synthesizer calibration of a set of groups. -/
  | synthCal (h : CmdHdr) (groups : Nat)
  /-- IDLE_GAP (R234): the command adds or removes idle-gap declarations. -/
  | idleGap (h : CmdHdr) (q : IdleGapReq)
  /-- TDD_PATTERN (R239): the command loads a TDD pattern, which takes effect at pattern slot 0. -/
  | tddPattern (h : CmdHdr) (groups : Nat) (scsKhz : Nat) (period : Nat) (codes : List Nat)
  /-- RX_ATT_SET (R225): the command sets the RX attenuation of a set of paths. -/
  | rxAttSet (h : CmdHdr) (paths : Nat) (attDb : Nat)
  /-- POWER_TABLE_SET (R245): the command replaces a group's power table and BYPASS_BACKOFF. -/
  | powerTableSet (h : CmdHdr) (group : Nat) (entries : List Word) (backoff : Option Nat)
  /-- POWER_STEP_SET (R246): the command sets STEP and TRIM of a set of paths. -/
  | powerStepSet (h : CmdHdr) (paths : Nat) (step : Option Nat) (trim : Option Int)
  /-- RF_STATUS (R442): the command returns per-path RF values, counters, power tables and gap declarations. -/
  | rfStatus (h : CmdHdr) (clear : Option Nat)
  /-- RF_COEF_READ (R248): the command returns a group's factory compensation coefficients. -/
  | rfCoefRead (h : CmdHdr) (group : Nat)
  /-- PA_BUS (R250): the command sends an immediate or timed PA-bus transaction, or stores or sends the safe sequence. -/
  | paBus (h : CmdHdr) (q : PaBusReq)
  /-- ORX_SWITCH (R254): the command sets an ORX's switch lines, AUX lines or SW_SETTLE. -/
  | orxSwitch (h : CmdHdr) (orx : Nat) (lines : Option Nat) (aux : Option Nat) (settleNs : Option Nat)
  /-- LOOPBACK_SET (R272): the command sets a group's loopback diversion in SERVICE. -/
  | loopbackSet (h : CmdHdr) (groups : Nat) (code : Nat)
  /-- DPD_BYPASS_CMD (R295): the command forces or releases DPD bypass of a set of paths. -/
  | dpdBypassCmd (h : CmdHdr) (paths : Nat) (force : Nat)
  /-- DPD_TRAIN_EN (R300): the command sets TRAIN_EN of a set of paths. -/
  | dpdTrainEn (h : CmdHdr) (paths : Nat) (en : Nat)
  /-- DPD_SLOT_READ (R291): the command returns one model record of a path's bank. -/
  | dpdSlotRead (h : CmdHdr) (path : Nat) (slot : Nat) (poisonAt : Option Nat)
  /-- DPD_SLOT_WRITE (R295): the command writes one model record into a path's bank. -/
  | dpdSlotWrite (h : CmdHdr) (path : Nat) (slot : Nat) (record : DpdRecord)
  /-- DPD_SLOT_CLEAR (R295): the command clears one slot of a path's bank. -/
  | dpdSlotClear (h : CmdHdr) (path : Nat) (slot : Nat)
  /-- DPD_STATUS_CMD (R318): the command returns a path's DPD status, slot headers and saturation count. -/
  | dpdStatusCmd (h : CmdHdr) (path : Nat)
  /-- CAL_RUN (R310): the command requests calibration runs of named clusters. -/
  | calRun (h : CmdHdr) (clusters : List Nat)
  /-- CAL_STATUS (R308): the command returns a cluster's codes, state and run counts. -/
  | calStatus (h : CmdHdr) (cluster : Nat) (clear : Option Nat)
  /-- CAP_CONFIG (R276): the command configures a capture ring. -/
  | capConfig (h : CmdHdr) (ring : Nat) (cfg : Word) (area : Word) (len : Word) (trig : Word) (trig2 : Word)
  /-- CAP_ARM (R282): the command arms a ring after the bandwidth check. -/
  | capArm (h : CmdHdr) (ring : Nat)
  /-- CAP_TRIGGER (R283): the command fires a HOST trigger, or loses it when the ring or ORX is busy. -/
  | capTrigger (h : CmdHdr) (ring : Nat)
  /-- CAP_STOP (R282): the command stops an ARMED or RUNNING ring. -/
  | capStop (h : CmdHdr) (ring : Nat)
  /-- CAP_RELEASE (R282): the command releases an IDLE ring to FREE. -/
  | capRelease (h : CmdHdr) (ring : Nat)
  /-- CAP_READ (R279): the command returns data from a ring block through P3. -/
  | capRead (h : CmdHdr) (ring : Nat) (block : Nat) (offset : Nat) (length : Nat) (faults : List WordFault)
  /-- WS_CONFIG (R219): the command sets the weight-store settings. -/
  | wsConfig (h : CmdHdr) (q : WsConfigReq)
  /-- WS_STATUS (R220): the command returns the weight-store counters and entry counts. -/
  | wsStatus (h : CmdHdr) (clear : Option Nat)
  /-- WS_EXPORT (R448): the command exports buckets to the bulk outbound buffer on channel 14. -/
  | wsExport (h : CmdHdr) (first : Nat) (count : Nat)
  /-- WS_IMPORT (R448): the command imports buckets from the bulk inbound buffer on channel 14. -/
  | wsImport (h : CmdHdr) (first : Nat) (count : Nat) (uptime : Nat)
  /-- WS_TRANSFER_TIMEOUT (R448): an export or import makes no progress for 60 s and completes with BAD_STATE. -/
  | wsTransferTimeout
  /-- TIME_CONFIG (R401): the command sets TL_OFFSET in STANDBY and FREQ_SLEW. -/
  | timeConfig (h : CmdHdr) (tlOffset : Option Nat) (freqSlew : Option Nat)
  /-- TIME_SET (R413): the command sets the time counter at once, or at the next PPS edge. -/
  | timeSet (h : CmdHdr) (sec : Nat) (ns : Nat)
  /-- ACCEPT_STEP (R413): the command applies a refused time step from STEP_PENDING. -/
  | acceptStep (h : CmdHdr)
  /-- THERMAL_STATUS (R476): the command returns the temperatures, broken sensors, thermal state and shutdown count. -/
  | thermalStatus (h : CmdHdr)
  /-- THERMAL_CONFIG (R469): the command sets PIN_LIMIT, RISE_LIMIT, WARN_T and STEP_INT. -/
  | thermalConfig (h : CmdHdr) (q : ThermalConfigReq)
  /-- HK_READ (R460): the command returns housekeeping channel codes and values. -/
  | hkRead (h : CmdHdr) (first : Nat) (count : Nat)
  /-- MEM_INFO (R442): the command returns the region bases, map order and rank assignment. -/
  | memInfo (h : CmdHdr)
  /-- MEM_CONFIG (R322): the command writes the address-map order into the start-up record. -/
  | memConfig (h : CmdHdr) (mapOrder : Nat)
  /-- MEM_SPARE (R364): the command starts a rank migration, or clears the memory health record. -/
  | memSpare (h : CmdHdr) (op : Nat) (rank : Option Nat)
  /-- MEM_LOG (R365): the command returns the memory error log. -/
  | memLog (h : CmdHdr) (clear : Option Nat) (poisonAt : Option Nat)
  /-- BULK_PUT (R447): the command appends data to the bulk inbound buffer. -/
  | bulkPut (h : CmdHdr) (data : List Byte)
  /-- BULK_GET (R447): the command returns data from the bulk outbound buffer. -/
  | bulkGet (h : CmdHdr) (max : Nat)
  /-- REG_READ (R444): the command reads consecutive registers after checking the whole range. -/
  | regRead (h : CmdHdr) (addr : Nat) (count : Nat)
  /-- REG_WRITE (R445): the command checks all address-value pairs, then performs them in order. -/
  | regWrite (h : CmdHdr) (pairs : List (Nat × Word))
  /-- LOG_READ (R452): the command returns event-log entries. -/
  | logRead (h : CmdHdr) (first : Nat) (count : Nat) (poisonAt : Option Nat)
  /-- LOG_CLEAR (R452): the command empties both event logs. -/
  | logClear (h : CmdHdr)
  /-- FW_BEGIN (R449): the command opens a firmware-update session on the non-running slot. -/
  | fwBegin (h : CmdHdr) (len : Nat) (crc : Nat) (build : Nat) (slot : Option Nat)
  /-- FW_WRITE (R449): the command writes image data into the open session. -/
  | fwWrite (h : CmdHdr) (offset : Nat) (data : List Byte)
  /-- FW_COMMIT (R449): the command verifies the image and commits the slot. -/
  | fwCommit (h : CmdHdr)
  /-- FW_ACTIVATE (R450): the command restarts Cox into the newer valid image on trial. -/
  | fwActivate (h : CmdHdr)
  /-- FW_STATUS (R449): the command returns the state of both image slots and the session. -/
  | fwStatus (h : CmdHdr)
  /-- FRAME_DISCARD (R105): a received frame or packet is discarded and counted because it fails one of three kinds of check: FEC, FCS, size, address, EtherType or UDP; an accepted EFF TYPE for its port; or being a PTP message kind the device does not support. -/
  | frameDiscard (f : RxFrame)
  /-- CCP_REPLY_UPSTREAM (R115): a type 0x6 CCP reply or event packet from a downstream member arrives and is relayed upstream unchanged. -/
  | ccpReplyUpstream (f : RxFrame)
  /-- LEVEL_REARM (R281): After a LEVEL capture, a 256-sample window falls 3 dB below the threshold and the ring returns to ARMED. -/
  | levelRearm (ring : Nat) (powerDb : Nat)
  /-- FW_COMMIT_DONE (R449): the read-back and CRC check of a committed image ends, the slot is committed or left invalid, and the completion is sent. -/
  | fwCommitDone
  /-- PA_TRANSACTION_DONE (R250): a PA-bus transaction ends, so the bus is idle; PA_BUS_CFG takes effect and a waiting timed transaction starts. -/
  | paTransactionDone
  /-- SELECTED_MASTER_LOST (R411): the selected PTP master disappears from the dataset comparison, so the device enters HOLDOVER and any refused step lapses. -/
  | selectedMasterLost
  /-- CAVE_ITEM_ISSUE (R329): a rank becomes free and the controller issues its next ready item: a write drain, a P1 to P3 request, a refresh repayment, a targeted refresh or a migration copy. -/
  | caveItemIssue (rank : Nat) (faults : List WordFault)
deriving DecidableEq, Repr

end Sys2Proof
end

