-- ==== Sys2Proof/Config.lean ====
section
/-! DEFINITION. What the spec leaves open: constants without a body. No proof can see a value of one of them, so what is
proved holds for every value (log entries 10 to 19, 144 and 145). -/

namespace Sys2Proof.Config

/-- A free number below `2^64`, one for each count of the state's free-value counter (log entry 10). -/
opaque free : Nat → BitVec 64

/-- The pilot value of resource element `k` under PILOT_SEQ, COMB, COMB_OFF and CSHIFT: the table that Cox holds, whose
content the spec does not give (R201; log entry 11). -/
opaque pilot (seq comb combOff cshift k : Nat) : Cplx

/-- The constant magnitude A of the pilot values (R201; log entry 11). -/
opaque pilotAmp : Nat

/-- The error of zero-forcing weight formation in user `u`'s weight for path `p`, from the rows of H, the qualities and REG_ZF (R209
bounds it for a well-conditioned matrix; log entry 13). -/
opaque zfError (rows : List (List Cplx)) (quality : List Int) (regZf u p : Nat) : Cplx

/-- The frequency in kHz of point `k`, 0 to 7, of a group's factory compensation record (R248; log entry 14). -/
opaque compPoint (group k : Nat) : Nat

/-- A coefficient of that record at point `k` for a temperature band: 0 slope in µdB per 0.1 °C, 1 t_ref in 0.1 °C, 2 offset in µdB,
3 vin_coef in µdB per mV (R248; log entry 14). -/
opaque compCoef (group band which k : Nat) : Int

/-- The coefficient at a frequency outside the record's points, which R248 does not give (log entry 14). -/
opaque compBeyond (group band which freqKhz : Nat) : Int

/-- The bytes of a group's factory compensation record (R248; log entry 14). -/
opaque factoryCoef (group : Nat) : List Byte

/-- The factory selection codes of a calibration cluster (R316; log entry 15). -/
opaque factoryCodes (cluster : Nat) : List Int

/-- The block of the capture pool, and the number of blocks, that Cox gives its rings 14 and 15 (R276 does not place them; log
entry 18). -/
opaque coxArea : Nat → Nat × Nat

/-- The error of an OFDM engine's output in LSB, which R266 bounds by 2: of the downlink or the uplink engine, from its input, the
FFT size, the shift and the numerator of the phase term, for one output. Equal inputs give equal outputs (R266; log entry 19). -/
opaque ofdmErr (down : Bool) (input : List Cplx) (nfft shift : Nat) (phase : Int) (k : Nat) : Cplx

/-- What a decimation (`down`) or interpolation filter gives before its last stage saturates, by draw, ratio and input (R260, R261;
log entry 19). -/
opaque rateFilter (down : Bool) (draw ratio : Nat) (input : List Cplx) : List Cplx

/-- A word of a vendor kernel of a KIND, which the spec does not give (R151, R187; log entry 144). -/
opaque vendorWord (kind offset : Nat) : BitVec 32

/-- Where a datum of an on-chip buffer lies: its first SRAM code word and their number. R26 gives the buffers' sizes and no
addresses (log entry 145). The buffers are `bufUlIn` to `bufDpd` of Machine/Ops.lean; the key names the datum. -/
opaque sramHome (buffer : Nat) (key : List Nat) : Nat × Nat

/-- The module's serial number, 16 bytes, and firmware build identifiers (R442 IDENT; log entry 16). -/
opaque serial : Nat

/-- The error of the counter on the always-on oscillator, in ppt, by the rate that Cox last measured and the instant; within ±1 ppm (R396; log
entry 17). -/
opaque aonRate : Int → Nat → Int

end Sys2Proof.Config
end

