-- ==== Sys2Proof/Machine/RegMap.lean ====
section
/-! DEFINITION. The register maps of R162, R258, R287, R318, R342, R372, R394 and R423: every field with its register's
address, its bits, its access code (R17) and its Reset value (R19). A Reset of '—' stands as 0 here (log entry 4). -/

namespace Sys2Proof.Machine

/-- Access codes of register fields (R17). -/
inductive Access where
  | rw
  | ro
  | w1c
  | wo
  | rc
deriving DecidableEq, Repr

/-- One field of a register, or of each register of a row of registers `stride` apart. -/
structure Fld where
  base : Nat
  stride : Nat
  count : Nat
  lo : Nat
  width : Nat
  acc : Access
  reset : Nat
deriving DecidableEq, Repr

/-- One register of a map, or a row of `count` registers `stride` apart. -/
structure RegDef where
  name : String
  base : Nat
  stride : Nat
  count : Nat
  flds : List Fld
deriving DecidableEq, Repr

/-- FAB_STATUS.CREWS_BF[25:20] (R162), RO. -/
def F.fabStatusCrewsBf : Fld := ⟨0x400000, 0x0, 1, 20, 6, .ro, 0x0⟩

/-- FAB_STATUS.LOOP_STATE[19:16] (R162), RO. -/
def F.fabStatusLoopState : Fld := ⟨0x400000, 0x0, 1, 16, 4, .ro, 0x0⟩

/-- FAB_STATUS.VFAB_MV[9:0] (R162), RO. -/
def F.fabStatusVfabMv : Fld := ⟨0x400000, 0x0, 1, 0, 10, .ro, 0x2BC⟩

/-- FAB_SLACK_CFG.SLACK_CEIL[25:16] (R162), RW. -/
def F.fabSlackCfgSlackCeil : Fld := ⟨0x400004, 0x0, 1, 16, 10, .rw, 0xFA⟩

/-- FAB_SLACK_CFG.SLACK_FLOOR[9:0] (R162), RW. -/
def F.fabSlackCfgSlackFloor : Fld := ⟨0x400004, 0x0, 1, 0, 10, .rw, 0x50⟩

/-- FAB_VFAB_CFG.LOOP_EN[31] (R162), RW. -/
def F.fabVfabCfgLoopEn : Fld := ⟨0x400008, 0x0, 1, 31, 1, .rw, 0x1⟩

/-- FAB_VFAB_CFG.VFAB_SET_MV[9:0] (R162), RW. -/
def F.fabVfabCfgVfabSetMv : Fld := ⟨0x400008, 0x0, 1, 0, 10, .rw, 0x2BC⟩

/-- FAB_SHIFT.SHIFT_UL1[28:24] (R162), RW. -/
def F.fabShiftShiftUl1 : Fld := ⟨0x40000C, 0x0, 1, 24, 5, .rw, 0x12⟩

/-- FAB_SHIFT.SHIFT_DL1[20:16] (R162), RW. -/
def F.fabShiftShiftDl1 : Fld := ⟨0x40000C, 0x0, 1, 16, 5, .rw, 0xF⟩

/-- FAB_SHIFT.SHIFT_UL0[12:8] (R162), RW. -/
def F.fabShiftShiftUl0 : Fld := ⟨0x40000C, 0x0, 1, 8, 5, .rw, 0x12⟩

/-- FAB_SHIFT.SHIFT_DL0[4:0] (R162), RW. -/
def F.fabShiftShiftDl0 : Fld := ⟨0x40000C, 0x0, 1, 0, 5, .rw, 0xF⟩

/-- FAB_SLACK_MIN_DL0.PCT[31:16] (R162), RO. -/
def F.fabSlackMinDl0Pct : Fld := ⟨0x400010, 0x0, 1, 16, 16, .ro, 0xFFFF⟩

/-- FAB_SLACK_MIN_DL0.TICKS[15:0] (R162), RO. -/
def F.fabSlackMinDl0Ticks : Fld := ⟨0x400010, 0x0, 1, 0, 16, .ro, 0xFFFF⟩

/-- FAB_SLACK_MIN_UL0.PCT[31:16] (R162), RO. -/
def F.fabSlackMinUl0Pct : Fld := ⟨0x400014, 0x0, 1, 16, 16, .ro, 0xFFFF⟩

/-- FAB_SLACK_MIN_UL0.TICKS[15:0] (R162), RO. -/
def F.fabSlackMinUl0Ticks : Fld := ⟨0x400014, 0x0, 1, 0, 16, .ro, 0xFFFF⟩

/-- FAB_SLACK_MIN_DL1.PCT[31:16] (R162), RO. -/
def F.fabSlackMinDl1Pct : Fld := ⟨0x400018, 0x0, 1, 16, 16, .ro, 0xFFFF⟩

/-- FAB_SLACK_MIN_DL1.TICKS[15:0] (R162), RO. -/
def F.fabSlackMinDl1Ticks : Fld := ⟨0x400018, 0x0, 1, 0, 16, .ro, 0xFFFF⟩

/-- FAB_SLACK_MIN_UL1.PCT[31:16] (R162), RO. -/
def F.fabSlackMinUl1Pct : Fld := ⟨0x40001C, 0x0, 1, 16, 16, .ro, 0xFFFF⟩

/-- FAB_SLACK_MIN_UL1.TICKS[15:0] (R162), RO. -/
def F.fabSlackMinUl1Ticks : Fld := ⟨0x40001C, 0x0, 1, 0, 16, .ro, 0xFFFF⟩

/-- FAB_SPEED.SPEED_MAX[31:16] (R162), RO. -/
def F.fabSpeedSpeedMax : Fld := ⟨0x400020, 0x0, 1, 16, 16, .ro, 0x0⟩

/-- FAB_SPEED.SPEED_NOW[15:0] (R162), RO. -/
def F.fabSpeedSpeedNow : Fld := ⟨0x400020, 0x0, 1, 0, 16, .ro, 0x0⟩

/-- FAB_CREW_MUTE.CREW_MUTE[31:0] (R162), RO. -/
def F.fabCrewMute : Fld := ⟨0x400024, 0x0, 1, 0, 32, .ro, 0x0⟩

/-- FAB_CREW_RSV.CREW_RSV[31:0] (R162), RO. -/
def F.fabCrewRsv : Fld := ⟨0x400028, 0x0, 1, 0, 32, .ro, 0x0⟩

/-- FAB_EVENT.LIMIT[3] (R162), W1C. -/
def F.fabEventLimit : Fld := ⟨0x40002C, 0x0, 1, 3, 1, .w1c, 0x0⟩

/-- FAB_EVENT.FAULT[2] (R162), W1C. -/
def F.fabEventFault : Fld := ⟨0x40002C, 0x0, 1, 2, 1, .w1c, 0x0⟩

/-- FAB_EVENT.MISMATCH[1] (R162), W1C. -/
def F.fabEventMismatch : Fld := ⟨0x40002C, 0x0, 1, 1, 1, .w1c, 0x0⟩

/-- FAB_EVENT.SLIP[0] (R162), W1C. -/
def F.fabEventSlip : Fld := ⟨0x40002C, 0x0, 1, 0, 1, .w1c, 0x0⟩

/-- DL_REPEAT_CNT.COUNT[31:0] (R162), RC. -/
def F.dlRepeatCnt : Fld := ⟨0x400030, 0x0, 1, 0, 32, .rc, 0x0⟩

/-- UL_DROP_CNT.COUNT[31:0] (R162), RC. -/
def F.ulDropCnt : Fld := ⟨0x400034, 0x0, 1, 0, 32, .rc, 0x0⟩

/-- MISMATCH_CNT.COUNT[31:0] (R162), RC. -/
def F.mismatchCnt : Fld := ⟨0x400038, 0x0, 1, 0, 32, .rc, 0x0⟩

/-- FALLBACK_CNT.COUNT[31:0] (R162), RC. -/
def F.fallbackCnt : Fld := ⟨0x40003C, 0x0, 1, 0, 32, .rc, 0x0⟩

/-- FAB_SAT_CNT.COUNT[31:0] (R162), RC. -/
def F.fabSatCnt : Fld := ⟨0x400040, 0x0, 1, 0, 32, .rc, 0x0⟩

/-- EST_ABANDON_CNT.COUNT[31:0] (R162), RC. -/
def F.estAbandonCnt : Fld := ⟨0x400044, 0x0, 1, 0, 32, .rc, 0x0⟩

/-- CREW_ZERO_CNT.COUNT[31:0] (R162), RC. -/
def F.crewZeroCnt : Fld := ⟨0x400048, 0x0, 1, 0, 32, .rc, 0x0⟩

/-- RSM_STATUS.DT_SINCE_CAL[31:24] (R258), RO. -/
def F.rsmStatusDtSinceCal : Fld := ⟨0x500000, 0x20, 4, 24, 8, .ro, 0x0⟩

/-- RSM_STATUS.CAL_PEND[18] (R258), RO. -/
def F.rsmStatusCalPend : Fld := ⟨0x500000, 0x20, 4, 18, 1, .ro, 0x0⟩

/-- RSM_STATUS.FAULT[17] (R258), RO. -/
def F.rsmStatusFault : Fld := ⟨0x500000, 0x20, 4, 17, 1, .ro, 0x0⟩

/-- RSM_STATUS.LOCK[16] (R258), RO. -/
def F.rsmStatusLock : Fld := ⟨0x500000, 0x20, 4, 16, 1, .ro, 0x0⟩

/-- RSM_STATUS.STATE[2:0] (R258), RO. -/
def F.rsmStatusState : Fld := ⟨0x500000, 0x20, 4, 0, 3, .ro, 0x0⟩

/-- RSM_CFG.SYNTH_DT[13:8] (R258), RW. -/
def F.rsmCfgSynthDt : Fld := ⟨0x500004, 0x20, 4, 8, 6, .rw, 0xA⟩

/-- RSM_CFG.COMP_EN[0] (R258), RW. -/
def F.rsmCfgCompEn : Fld := ⟨0x500004, 0x20, 4, 0, 1, .rw, 0x1⟩

/-- LO_FREQ.FREQ_KHZ[22:0] (R258), RO. -/
def F.loFreq : Fld := ⟨0x500008, 0x20, 4, 0, 23, .ro, 0x0⟩

/-- COMP_STATUS.BAND[11:9] (R258), RO. -/
def F.compStatusBand : Fld := ⟨0x50000C, 0x20, 4, 9, 3, .ro, 0x0⟩

/-- COMP_STATUS.COMP_SAT[8] (R258), RO. -/
def F.compStatusCompSat : Fld := ⟨0x50000C, 0x20, 4, 8, 1, .ro, 0x0⟩

/-- COMP_STATUS.GAIN[7:0] (R258), RO. -/
def F.compStatusGain : Fld := ⟨0x50000C, 0x20, 4, 0, 8, .ro, 0x0⟩

/-- RF_WITHHELD_CNT.COUNT[31:0] (R258), RC. -/
def F.rfWithheldCnt : Fld := ⟨0x500010, 0x20, 4, 0, 32, .rc, 0x0⟩

/-- TDD_DL_CONFLICT_CNT.COUNT[31:0] (R258), RC. -/
def F.tddDlConflictCnt : Fld := ⟨0x500014, 0x20, 4, 0, 32, .rc, 0x0⟩

/-- TDD_UL_CONFLICT_CNT.COUNT[31:0] (R258), RC. -/
def F.tddUlConflictCnt : Fld := ⟨0x500018, 0x20, 4, 0, 32, .rc, 0x0⟩

/-- SYNTH_CAL_CNT.COUNT[31:0] (R258), RC. -/
def F.synthCalCnt : Fld := ⟨0x50001C, 0x20, 4, 0, 32, .rc, 0x0⟩

/-- TDD_STB_CFG.EN[31] (R258), RW. -/
def F.tddStbCfgEn : Fld := ⟨0x500080, 0x4, 8, 31, 1, .rw, 0x0⟩

/-- TDD_STB_CFG.POL[30] (R258), RW. -/
def F.tddStbCfgPol : Fld := ⟨0x500080, 0x4, 8, 30, 1, .rw, 0x0⟩

/-- TDD_STB_CFG.DIR[29] (R258), RW. -/
def F.tddStbCfgDir : Fld := ⟨0x500080, 0x4, 8, 29, 1, .rw, 0x0⟩

/-- TDD_STB_CFG.GROUP[27:26] (R258), RW. -/
def F.tddStbCfgGroup : Fld := ⟨0x500080, 0x4, 8, 26, 2, .rw, 0x0⟩

/-- TDD_STB_CFG.LEAD_NS[23:12] (R258), RW. -/
def F.tddStbCfgLeadNs : Fld := ⟨0x500080, 0x4, 8, 12, 12, .rw, 0x0⟩

/-- TDD_STB_CFG.LAG_NS[11:0] (R258), RW. -/
def F.tddStbCfgLagNs : Fld := ⟨0x500080, 0x4, 8, 0, 12, .rw, 0x0⟩

/-- ORX_SW_STATE.LINES[7:0] (R258), RO. -/
def F.orxSwState : Fld := ⟨0x5000A0, 0x4, 4, 0, 8, .ro, 0x0⟩

/-- PA_BUS_CFG.MODE3[8] (R258), RW. -/
def F.paBusCfgMode3 : Fld := ⟨0x5000B0, 0x0, 1, 8, 1, .rw, 0x0⟩

/-- PA_BUS_CFG.SCK_MHZ[4:0] (R258), RW. -/
def F.paBusCfgSckMhz : Fld := ⟨0x5000B0, 0x0, 1, 0, 5, .rw, 0xA⟩

/-- PA_BUS_STATUS.SAFE_SENT[9] (R258), W1C. -/
def F.paBusStatusSafeSent : Fld := ⟨0x5000B4, 0x0, 1, 9, 1, .w1c, 0x0⟩

/-- PA_BUS_STATUS.BUSY[8] (R258), RO. -/
def F.paBusStatusBusy : Fld := ⟨0x5000B4, 0x0, 1, 8, 1, .ro, 0x0⟩

/-- PA_BUS_STATUS.QUEUE_LEVEL[5:0] (R258), RO. -/
def F.paBusStatusQueueLevel : Fld := ⟨0x5000B4, 0x0, 1, 0, 6, .ro, 0x0⟩

/-- PA_LATE_CNT.COUNT[31:0] (R258), RC. -/
def F.paLateCnt : Fld := ⟨0x5000B8, 0x0, 1, 0, 32, .rc, 0x0⟩

/-- PWR_CLAMP_CNT.COUNT[31:0] (R258), RC. -/
def F.pwrClampCnt : Fld := ⟨0x5000BC, 0x0, 1, 0, 32, .rc, 0x0⟩

/-- CAP_CFG.STOP_FULL[31] (R287), RW. -/
def F.capCfgStopFull : Fld := ⟨0x600000, 0x40, 16, 31, 1, .rw, 0x0⟩

/-- CAP_CFG.LINK_EN[30] (R287), RW. -/
def F.capCfgLinkEn : Fld := ⟨0x600000, 0x40, 16, 30, 1, .rw, 0x0⟩

/-- CAP_CFG.LEADER[29:26] (R287), RW. -/
def F.capCfgLeader : Fld := ⟨0x600000, 0x40, 16, 26, 4, .rw, 0x0⟩

/-- CAP_CFG.ORX_DEC[25:24] (R287), RW. -/
def F.capCfgOrxDec : Fld := ⟨0x600000, 0x40, 16, 24, 2, .rw, 0x0⟩

/-- CAP_CFG.TRIG[18:16] (R287), RW. -/
def F.capCfgTrig : Fld := ⟨0x600000, 0x40, 16, 16, 3, .rw, 0x0⟩

/-- CAP_CFG.PATH[13:8] (R287), RW. -/
def F.capCfgPath : Fld := ⟨0x600000, 0x40, 16, 8, 6, .rw, 0x0⟩

/-- CAP_CFG.SOURCE[2:0] (R287), RW. -/
def F.capCfgSource : Fld := ⟨0x600000, 0x40, 16, 0, 3, .rw, 0x0⟩

/-- CAP_AREA.BASE_BLK[31:16] (R287), RW. -/
def F.capAreaBaseBlk : Fld := ⟨0x600004, 0x40, 16, 16, 16, .rw, 0x0⟩

/-- CAP_AREA.NBLK[15:0] (R287), RW. -/
def F.capAreaNblk : Fld := ⟨0x600004, 0x40, 16, 0, 16, .rw, 0x0⟩

/-- CAP_LEN.LENGTH[31:0] (R287), RW. -/
def F.capLen : Fld := ⟨0x600008, 0x40, 16, 0, 32, .rw, 0x0⟩

/-- CAP_TRIG.LEVEL[31:24] (R287), RW. -/
def F.capTrigLevel : Fld := ⟨0x60000C, 0x40, 16, 24, 8, .rw, 0x0⟩

/-- CAP_TRIG.TAG[23:0] (R287), RW. -/
def F.capTrigTag : Fld := ⟨0x60000C, 0x40, 16, 0, 24, .rw, 0x0⟩

/-- CAP_TRIG2.PERIOD[26:16] (R287), RW. -/
def F.capTrig2Period : Fld := ⟨0x600010, 0x40, 16, 16, 11, .rw, 0x0⟩

/-- CAP_TRIG2.OFFSET[15:0] (R287), RW. -/
def F.capTrig2Offset : Fld := ⟨0x600010, 0x40, 16, 0, 16, .rw, 0x0⟩

/-- CAP_STATUS.STOP_REASON[27:24] (R287), RO. -/
def F.capStatusStopReason : Fld := ⟨0x600014, 0x40, 16, 24, 4, .ro, 0x0⟩

/-- CAP_STATUS.STATE[17:16] (R287), RO. -/
def F.capStatusState : Fld := ⟨0x600014, 0x40, 16, 16, 2, .ro, 0x0⟩

/-- CAP_STATUS.CAPTURE_SEQ[15:0] (R287), RO. -/
def F.capStatusCaptureSeq : Fld := ⟨0x600014, 0x40, 16, 0, 16, .ro, 0x0⟩

/-- CAP_WR_CNT.WR[31:0] (R287), RO. -/
def F.capWrCnt : Fld := ⟨0x600018, 0x40, 16, 0, 32, .ro, 0x0⟩

/-- CAP_RD_CNT.RD[31:0] (R287), RW. -/
def F.capRdCnt : Fld := ⟨0x60001C, 0x40, 16, 0, 32, .rw, 0x0⟩

/-- CAP_OVR_CNT.COUNT[31:0] (R287), RC. -/
def F.capOvrCnt : Fld := ⟨0x600020, 0x40, 16, 0, 32, .rc, 0x0⟩

/-- CAP_GAP_CNT.COUNT[31:0] (R287), RC. -/
def F.capGapCnt : Fld := ⟨0x600024, 0x40, 16, 0, 32, .rc, 0x0⟩

/-- CAP_LOST_CNT.COUNT[31:0] (R287), RC. -/
def F.capLostCnt : Fld := ⟨0x600028, 0x40, 16, 0, 32, .rc, 0x0⟩

/-- URGENT_DROP_CNT.COUNT[31:0] (R287), RC. -/
def F.urgentDropCnt : Fld := ⟨0x600400, 0x4, 4, 0, 32, .rc, 0x0⟩

/-- CAP_RATE.RATE_MBPS[15:0] (R287), RO. -/
def F.capRate : Fld := ⟨0x600410, 0x0, 1, 0, 16, .ro, 0x0⟩

/-- CAL_CFG.KIND_EN[22:16] (R318), RW. -/
def F.calCfgKindEn : Fld := ⟨0x700000, 0x0, 1, 16, 7, .rw, 0x7F⟩

/-- CAL_CFG.CAL_DT[5:0] (R318), RW. -/
def F.calCfgCalDt : Fld := ⟨0x700000, 0x0, 1, 0, 6, .rw, 0x4⟩

/-- CAL_PRECOND.CAL_PMIN[31:24] (R318), RW. -/
def F.calPrecondCalPmin : Fld := ⟨0x700004, 0x0, 1, 24, 8, .rw, 0x24⟩

/-- CAL_PRECOND.CAL_PMAX[23:16] (R318), RW. -/
def F.calPrecondCalPmax : Fld := ⟨0x700004, 0x0, 1, 16, 8, .rw, 0x6⟩

/-- CAL_PRECOND.CAL_OCC[6:0] (R318), RW. -/
def F.calPrecondCalOcc : Fld := ⟨0x700004, 0x0, 1, 0, 7, .rw, 0x19⟩

/-- CAL_SEL.CLUSTER[8:0] (R318), RW. -/
def F.calSel : Fld := ⟨0x700008, 0x0, 1, 0, 9, .rw, 0x0⟩

/-- CAL_STATE.UNCAL[31] (R318), RO. -/
def F.calStateUncal : Fld := ⟨0x70000C, 0x0, 1, 31, 1, .ro, 0x0⟩

/-- CAL_STATE.DUE[30] (R318), RO. -/
def F.calStateDue : Fld := ⟨0x70000C, 0x0, 1, 30, 1, .ro, 0x0⟩

/-- CAL_STATE.RUNNING[29] (R318), RO. -/
def F.calStateRunning : Fld := ⟨0x70000C, 0x0, 1, 29, 1, .ro, 0x0⟩

/-- CAL_STATE.CMD_PEND[28] (R318), RO. -/
def F.calStateCmdPend : Fld := ⟨0x70000C, 0x0, 1, 28, 1, .ro, 0x0⟩

/-- CAL_STATE.OUTCOME[27:26] (R318), RO. -/
def F.calStateOutcome : Fld := ⟨0x70000C, 0x0, 1, 26, 2, .ro, 0x0⟩

/-- CAL_STATE.REASON[23:20] (R318), RO. -/
def F.calStateReason : Fld := ⟨0x70000C, 0x0, 1, 20, 4, .ro, 0x0⟩

/-- CAL_STATE.TEMP_MOVE[15:8] (R318), RO. -/
def F.calStateTempMove : Fld := ⟨0x70000C, 0x0, 1, 8, 8, .ro, 0x0⟩

/-- CAL_RUN_CNT.COUNT[31:0] (R318), RO. -/
def F.calRunCnt : Fld := ⟨0x700010, 0x0, 1, 0, 32, .ro, 0x0⟩

/-- CAL_ACC_CNT.COUNT[31:0] (R318), RO. -/
def F.calAccCnt : Fld := ⟨0x700014, 0x0, 1, 0, 32, .ro, 0x0⟩

/-- CAL_DEF_CNT.COUNT[31:0] (R318), RO. -/
def F.calDefCnt : Fld := ⟨0x700018, 0x0, 1, 0, 32, .ro, 0x0⟩

/-- CAL_REJ_CNT.COUNT[31:0] (R318), RO. -/
def F.calRejCnt : Fld := ⟨0x70001C, 0x0, 1, 0, 32, .ro, 0x0⟩

/-- CAL_LAST_TAG.TAG[23:0] (R318), RO. -/
def F.calLastTag : Fld := ⟨0x700020, 0x0, 1, 0, 24, .ro, 0x0⟩

/-- CAL_LAST_UPT_HI.UPT_HI[15:0] (R318), RO. -/
def F.calLastUptHi : Fld := ⟨0x700024, 0x0, 1, 0, 16, .ro, 0x0⟩

/-- CAL_LAST_UPT_LO.UPT_LO[31:0] (R318), RO. -/
def F.calLastUptLo : Fld := ⟨0x700028, 0x0, 1, 0, 32, .ro, 0x0⟩

/-- DPD_STATUS.BYPASS[31] (R318), RO. -/
def F.dpdStatusBypass : Fld := ⟨0x700100, 0x4, 64, 31, 1, .ro, 0x1⟩

/-- DPD_STATUS.BYP_REASON[27:24] (R318), RO. -/
def F.dpdStatusBypReason : Fld := ⟨0x700100, 0x4, 64, 24, 4, .ro, 0x1⟩

/-- DPD_STATUS.PROV[23] (R318), RO. -/
def F.dpdStatusProv : Fld := ⟨0x700100, 0x4, 64, 23, 1, .ro, 0x0⟩

/-- DPD_STATUS.TRAIN_EN[22] (R318), RW. -/
def F.dpdStatusTrainEn : Fld := ⟨0x700100, 0x4, 64, 22, 1, .rw, 0x1⟩

/-- DPD_STATUS.DUE[21] (R318), RO. -/
def F.dpdStatusDue : Fld := ⟨0x700100, 0x4, 64, 21, 1, .ro, 0x0⟩

/-- DPD_STATUS.POOR_RUN[20:19] (R318), RO. -/
def F.dpdStatusPoorRun : Fld := ⟨0x700100, 0x4, 64, 19, 2, .ro, 0x0⟩

/-- DPD_STATUS.SLOT[18:16] (R318), RO. -/
def F.dpdStatusSlot : Fld := ⟨0x700100, 0x4, 64, 16, 3, .ro, 0x0⟩

/-- DPD_STATUS.TRAIN_IDX[15:8] (R318), RO. -/
def F.dpdStatusTrainIdx : Fld := ⟨0x700100, 0x4, 64, 8, 8, .ro, 0x0⟩

/-- DPD_STATUS.DRIVE_IDX[7:0] (R318), RO. -/
def F.dpdStatusDriveIdx : Fld := ⟨0x700100, 0x4, 64, 0, 8, .ro, 0x0⟩

/-- DPD_CFG.NMSE_MAX[23:16] (R318), RW. -/
def F.dpdCfgNmseMax : Fld := ⟨0x700200, 0x0, 1, 16, 8, .rw, 0x19⟩

/-- DPD_CFG.MU[10:8] (R318), RW. -/
def F.dpdCfgMu : Fld := ⟨0x700200, 0x0, 1, 8, 3, .rw, 0x1⟩

/-- DPD_CFG.IDX_TOL[5:0] (R318), RW. -/
def F.dpdCfgIdxTol : Fld := ⟨0x700200, 0x0, 1, 0, 6, .rw, 0x8⟩

/-- DPD_SAT_CNT.COUNT[31:0] (R318), RC. -/
def F.dpdSatCnt : Fld := ⟨0x700204, 0x0, 1, 0, 32, .rc, 0x0⟩

/-- DPD_POISON_CNT.COUNT[31:0] (R318), RC. -/
def F.dpdPoisonCnt : Fld := ⟨0x700208, 0x0, 1, 0, 32, .rc, 0x0⟩

/-- CAL_STORE_STATUS.STORE_FAIL[31] (R318), W1C. -/
def F.calStoreStatusStoreFail : Fld := ⟨0x70020C, 0x0, 1, 31, 1, .w1c, 0x0⟩

/-- CAL_STORE_STATUS.QUEUED[8:0] (R318), RO. -/
def F.calStoreStatusQueued : Fld := ⟨0x70020C, 0x0, 1, 0, 9, .ro, 0x0⟩

/-- CAVE_STATUS.MIGRATING[29] (R342), RO. -/
def F.caveStatusMigrating : Fld := ⟨0x800000, 0x0, 1, 29, 1, .ro, 0x0⟩

/-- CAVE_STATUS.SPARE_USED[28] (R342), RO. -/
def F.caveStatusSpareUsed : Fld := ⟨0x800000, 0x0, 1, 28, 1, .ro, 0x0⟩

/-- CAVE_STATUS.PHYS_L1[27:26] (R342), RO. -/
def F.caveStatusPhysL1 : Fld := ⟨0x800000, 0x0, 1, 26, 2, .ro, 0x1⟩

/-- CAVE_STATUS.PHYS_L0[25:24] (R342), RO. -/
def F.caveStatusPhysL0 : Fld := ⟨0x800000, 0x0, 1, 24, 2, .ro, 0x0⟩

/-- CAVE_STATUS.REFX_D2[21:20] (R342), RO. -/
def F.caveStatusRefxD2 : Fld := ⟨0x800000, 0x0, 1, 20, 2, .ro, 0x0⟩

/-- CAVE_STATUS.REFX_D1[19:18] (R342), RO. -/
def F.caveStatusRefxD1 : Fld := ⟨0x800000, 0x0, 1, 18, 2, .ro, 0x0⟩

/-- CAVE_STATUS.REFX_D0[17:16] (R342), RO. -/
def F.caveStatusRefxD0 : Fld := ⟨0x800000, 0x0, 1, 16, 2, .ro, 0x0⟩

/-- CAVE_STATUS.SELF_REFRESH[9] (R342), RO. -/
def F.caveStatusSelfRefresh : Fld := ⟨0x800000, 0x0, 1, 9, 1, .ro, 0x0⟩

/-- CAVE_STATUS.PANIC[8] (R342), RO. -/
def F.caveStatusPanic : Fld := ⟨0x800000, 0x0, 1, 8, 1, .ro, 0x0⟩

/-- CAVE_STATUS.MAP_ORDER[1:0] (R342), RO. -/
def F.caveStatusMapOrder : Fld := ⟨0x800000, 0x0, 1, 0, 2, .ro, 0x0⟩

/-- P0_CFG.PANIC_HI[31:24] (R342), RW. -/
def F.p0CfgPanicHi : Fld := ⟨0x800004, 0x0, 1, 24, 8, .rw, 0x32⟩

/-- P0_CFG.PANIC_LO[23:16] (R342), RW. -/
def F.p0CfgPanicLo : Fld := ⟨0x800004, 0x0, 1, 16, 8, .rw, 0x19⟩

/-- P0_CFG.WQ_HI[14:8] (R342), RW. -/
def F.p0CfgWqHi : Fld := ⟨0x800004, 0x0, 1, 8, 7, .rw, 0x30⟩

/-- P0_CFG.WQ_LO[6:0] (R342), RW. -/
def F.p0CfgWqLo : Fld := ⟨0x800004, 0x0, 1, 0, 7, .rw, 0x10⟩

/-- PORT_CFG.AGE_LIMIT[31:16] (R342), RW. -/
def F.portCfgAgeLimit : Fld := ⟨0x800008, 0x0, 1, 16, 16, .rw, 0x7D0⟩

/-- PORT_CFG.PRIO_P3[13:12] (R342), RW. -/
def F.portCfgPrioP3 : Fld := ⟨0x800008, 0x0, 1, 12, 2, .rw, 0x2⟩

/-- PORT_CFG.PRIO_P2[9:8] (R342), RW. -/
def F.portCfgPrioP2 : Fld := ⟨0x800008, 0x0, 1, 8, 2, .rw, 0x0⟩

/-- PORT_CFG.PRIO_P1[5:4] (R342), RW. -/
def F.portCfgPrioP1 : Fld := ⟨0x800008, 0x0, 1, 4, 2, .rw, 0x1⟩

/-- REF_CFG.REF_POSTPONE[3:0] (R342), RW. -/
def F.refCfg : Fld := ⟨0x80000C, 0x0, 1, 0, 4, .rw, 0x8⟩

/-- RH_CFG.RH_DIST2[16] (R342), RW. -/
def F.rhCfgRhDist2 : Fld := ⟨0x800010, 0x0, 1, 16, 1, .rw, 0x0⟩

/-- RH_CFG.RH_THRESH[15:0] (R342), RW. -/
def F.rhCfgRhThresh : Fld := ⟨0x800010, 0x0, 1, 0, 16, .rw, 0x2000⟩

/-- P0_STATUS.PF_LEVEL[26:16] (R342), RO. -/
def F.p0StatusPfLevel : Fld := ⟨0x800014, 0x0, 1, 16, 11, .ro, 0x0⟩

/-- P0_STATUS.WQ_LEVEL[6:0] (R342), RO. -/
def F.p0StatusWqLevel : Fld := ⟨0x800014, 0x0, 1, 0, 7, .ro, 0x0⟩

/-- REF_STATUS.OWED_D2[11:8] (R342), RO. -/
def F.refStatusOwedD2 : Fld := ⟨0x800018, 0x0, 1, 8, 4, .ro, 0x0⟩

/-- REF_STATUS.OWED_D1[7:4] (R342), RO. -/
def F.refStatusOwedD1 : Fld := ⟨0x800018, 0x0, 1, 4, 4, .ro, 0x0⟩

/-- REF_STATUS.OWED_D0[3:0] (R342), RO. -/
def F.refStatusOwedD0 : Fld := ⟨0x800018, 0x0, 1, 0, 4, .ro, 0x0⟩

/-- CAVE_EVENT.RH_TRR[4] (R342), W1C. -/
def F.caveEventRhTrr : Fld := ⟨0x80001C, 0x0, 1, 4, 1, .w1c, 0x0⟩

/-- CAVE_EVENT.DRAM_HOT[3] (R342), W1C. -/
def F.caveEventDramHot : Fld := ⟨0x80001C, 0x0, 1, 3, 1, .w1c, 0x0⟩

/-- CAVE_EVENT.REF_FORCED[2] (R342), W1C. -/
def F.caveEventRefForced : Fld := ⟨0x80001C, 0x0, 1, 2, 1, .w1c, 0x0⟩

/-- CAVE_EVENT.LATE_WEIGHT[1] (R342), W1C. -/
def F.caveEventLateWeight : Fld := ⟨0x80001C, 0x0, 1, 1, 1, .w1c, 0x0⟩

/-- CAVE_EVENT.PANIC[0] (R342), W1C. -/
def F.caveEventPanic : Fld := ⟨0x80001C, 0x0, 1, 0, 1, .w1c, 0x0⟩

/-- P0_PANIC_CNT.COUNT[31:0] (R342), RC. -/
def F.p0PanicCnt : Fld := ⟨0x800020, 0x0, 1, 0, 32, .rc, 0x0⟩

/-- LATE_WEIGHT_CNT.COUNT[31:0] (R342), RC. -/
def F.lateWeightCnt : Fld := ⟨0x800024, 0x0, 1, 0, 32, .rc, 0x0⟩

/-- REF_FORCED_CNT.COUNT[31:0] (R342), RC. -/
def F.refForcedCnt : Fld := ⟨0x800028, 0x0, 1, 0, 32, .rc, 0x0⟩

/-- REF_POSTPONE_CNT.COUNT[31:0] (R342), RC. -/
def F.refPostponeCnt : Fld := ⟨0x80002C, 0x0, 1, 0, 32, .rc, 0x0⟩

/-- RH_TRR_CNT.COUNT[31:0] (R342), RC. -/
def F.rhTrrCnt : Fld := ⟨0x800030, 0x0, 1, 0, 32, .rc, 0x0⟩

/-- RAW_WAIT_CNT.COUNT[31:0] (R342), RC. -/
def F.rawWaitCnt : Fld := ⟨0x800034, 0x0, 1, 0, 32, .rc, 0x0⟩

/-- AGE_PROMOTE_CNT.COUNT[31:0] (R342), RC. -/
def F.agePromoteCnt : Fld := ⟨0x800038, 0x0, 1, 0, 32, .rc, 0x0⟩

/-- P0_FORCED_DRAIN_CNT.COUNT[31:0] (R342), RC. -/
def F.p0ForcedDrainCnt : Fld := ⟨0x80003C, 0x0, 1, 0, 32, .rc, 0x0⟩

/-- PORT_BW.MBPS[15:0] (R342), RO. -/
def F.portBw : Fld := ⟨0x800040, 0x4, 4, 0, 16, .ro, 0x0⟩

/-- MI_STATUS.RETIRED[27:26] (R372), RO. -/
def F.miStatusRetired : Fld := ⟨0x900000, 0x0, 1, 26, 2, .ro, 0x3⟩

/-- MI_STATUS.MIG_SRC[25:24] (R372), RO. -/
def F.miStatusMigSrc : Fld := ⟨0x900000, 0x0, 1, 24, 2, .ro, 0x0⟩

/-- MI_STATUS.NO_SPARE[23] (R372), RO. -/
def F.miStatusNoSpare : Fld := ⟨0x900000, 0x0, 1, 23, 1, .ro, 0x0⟩

/-- MI_STATUS.PAUSED[22] (R372), RO. -/
def F.miStatusPaused : Fld := ⟨0x900000, 0x0, 1, 22, 1, .ro, 0x0⟩

/-- MI_STATUS.SCRUB_RUN[21] (R372), RO. -/
def F.miStatusScrubRun : Fld := ⟨0x900000, 0x0, 1, 21, 1, .ro, 0x0⟩

/-- MI_STATUS.TRACK_LEVEL[5:0] (R372), RO. -/
def F.miStatusTrackLevel : Fld := ⟨0x900000, 0x0, 1, 0, 6, .ro, 0x0⟩

/-- SCRUB_CFG.UE_THRESH[31:16] (R372), RW. -/
def F.scrubCfgUeThresh : Fld := ⟨0x900004, 0x0, 1, 16, 16, .rw, 0x10⟩

/-- SCRUB_CFG.SCRUB_PERIOD[13:0] (R372), RW. -/
def F.scrubCfgScrubPeriod : Fld := ⟨0x900004, 0x0, 1, 0, 14, .rw, 0x5A0⟩

/-- SPARE_CFG.AUTO_SPARE[16] (R372), RW. -/
def F.spareCfgAutoSpare : Fld := ⟨0x900008, 0x0, 1, 16, 1, .rw, 0x1⟩

/-- SPARE_CFG.HARD_LIMIT[9:0] (R372), RW. -/
def F.spareCfgHardLimit : Fld := ⟨0x900008, 0x0, 1, 0, 10, .rw, 0x40⟩

/-- SCRUB_POS.ADDR[31:5] (R372), RO. -/
def F.scrubPos : Fld := ⟨0x90000C, 0x0, 1, 5, 27, .ro, 0x0⟩

/-- MIG_POS.ADDR[31:5] (R372), RO. -/
def F.migPos : Fld := ⟨0x900010, 0x0, 1, 5, 27, .ro, 0x0⟩

/-- MI_EVENT.LATE[6] (R372), W1C. -/
def F.miEventLate : Fld := ⟨0x900014, 0x0, 1, 6, 1, .w1c, 0x0⟩

/-- MI_EVENT.NO_SPARE[5] (R372), W1C. -/
def F.miEventNoSpare : Fld := ⟨0x900014, 0x0, 1, 5, 1, .w1c, 0x0⟩

/-- MI_EVENT.SPARE_DONE[4] (R372), W1C. -/
def F.miEventSpareDone : Fld := ⟨0x900014, 0x0, 1, 4, 1, .w1c, 0x0⟩

/-- MI_EVENT.ADDR_FAULT[3] (R372), W1C. -/
def F.miEventAddrFault : Fld := ⟨0x900014, 0x0, 1, 3, 1, .w1c, 0x0⟩

/-- MI_EVENT.HARD[2] (R372), W1C. -/
def F.miEventHard : Fld := ⟨0x900014, 0x0, 1, 2, 1, .w1c, 0x0⟩

/-- MI_EVENT.UE_THRESH[1] (R372), W1C. -/
def F.miEventUeThresh : Fld := ⟨0x900014, 0x0, 1, 1, 1, .w1c, 0x0⟩

/-- MI_EVENT.UE_FOUND[0] (R372), W1C. -/
def F.miEventUeFound : Fld := ⟨0x900014, 0x0, 1, 0, 1, .w1c, 0x0⟩

/-- CE_CNT_D.COUNT[31:0] (R372), RC. -/
def F.ceCntD : Fld := ⟨0x900018, 0x4, 3, 0, 32, .rc, 0x0⟩

/-- UE_CNT_D.COUNT[31:0] (R372), RC. -/
def F.ueCntD : Fld := ⟨0x900024, 0x4, 3, 0, 32, .rc, 0x0⟩

/-- HARD_CNT_D.COUNT[9:0] (R372), RO. -/
def F.hardCntD : Fld := ⟨0x900030, 0x4, 3, 0, 10, .ro, 0x0⟩

/-- SRAM_CE_CNT.COUNT[31:0] (R372), RC. -/
def F.sramCeCnt : Fld := ⟨0x90003C, 0x0, 1, 0, 32, .rc, 0x0⟩

/-- SRAM_UE_CNT.COUNT[31:0] (R372), RC. -/
def F.sramUeCnt : Fld := ⟨0x900040, 0x0, 1, 0, 32, .rc, 0x0⟩

/-- POISON_READ_CNT.COUNT[31:0] (R372), RC. -/
def F.poisonReadCnt : Fld := ⟨0x900044, 0x0, 1, 0, 32, .rc, 0x0⟩

/-- SCRUB_PASS_CNT.COUNT[31:0] (R372), RC. -/
def F.scrubPassCnt : Fld := ⟨0x900048, 0x0, 1, 0, 32, .rc, 0x0⟩

/-- UE_LOG_CNT.COUNT[31:0] (R372), RC. -/
def F.ueLogCnt : Fld := ⟨0x90004C, 0x0, 1, 0, 32, .rc, 0x0⟩

/-- DMA_SRC.ADDR[31:0] (R394), RW. -/
def F.dmaSrc : Fld := ⟨0xA00000, 0x40, 16, 0, 32, .rw, 0x0⟩

/-- DMA_DST.ADDR[31:0] (R394), RW. -/
def F.dmaDst : Fld := ⟨0xA00004, 0x40, 16, 0, 32, .rw, 0x0⟩

/-- DMA_LEN.LEN[31:0] (R394), RW. -/
def F.dmaLen : Fld := ⟨0xA00008, 0x40, 16, 0, 32, .rw, 0x0⟩

/-- DMA_CTRL.EV_DONE[14] (R394), RW. -/
def F.dmaCtrlEvDone : Fld := ⟨0xA0000C, 0x40, 16, 14, 1, .rw, 0x0⟩

/-- DMA_CTRL.ESIZE[11] (R394), RW. -/
def F.dmaCtrlEsize : Fld := ⟨0xA0000C, 0x40, 16, 11, 1, .rw, 0x0⟩

/-- DMA_CTRL.DST_FIX[10] (R394), RW. -/
def F.dmaCtrlDstFix : Fld := ⟨0xA0000C, 0x40, 16, 10, 1, .rw, 0x0⟩

/-- DMA_CTRL.SRC_FIX[9] (R394), RW. -/
def F.dmaCtrlSrcFix : Fld := ⟨0xA0000C, 0x40, 16, 9, 1, .rw, 0x0⟩

/-- DMA_CTRL.DST_SPACE[7:4] (R394), RW. -/
def F.dmaCtrlDstSpace : Fld := ⟨0xA0000C, 0x40, 16, 4, 4, .rw, 0x0⟩

/-- DMA_CTRL.SRC_SPACE[3:0] (R394), RW. -/
def F.dmaCtrlSrcSpace : Fld := ⟨0xA0000C, 0x40, 16, 0, 4, .rw, 0x0⟩

/-- DMA_SH_SRC.ADDR[31:0] (R394), RW. -/
def F.dmaShSrc : Fld := ⟨0xA00010, 0x40, 16, 0, 32, .rw, 0x0⟩

/-- DMA_SH_DST.ADDR[31:0] (R394), RW. -/
def F.dmaShDst : Fld := ⟨0xA00014, 0x40, 16, 0, 32, .rw, 0x0⟩

/-- DMA_SH_LEN.LEN[31:0] (R394), RW. -/
def F.dmaShLen : Fld := ⟨0xA00018, 0x40, 16, 0, 32, .rw, 0x0⟩

/-- DMA_SH_CTRL.EV_DONE[14] (R394), RW. -/
def F.dmaShCtrlEvDone : Fld := ⟨0xA0001C, 0x40, 16, 14, 1, .rw, 0x0⟩

/-- DMA_SH_CTRL.ESIZE[11] (R394), RW. -/
def F.dmaShCtrlEsize : Fld := ⟨0xA0001C, 0x40, 16, 11, 1, .rw, 0x0⟩

/-- DMA_SH_CTRL.DST_FIX[10] (R394), RW. -/
def F.dmaShCtrlDstFix : Fld := ⟨0xA0001C, 0x40, 16, 10, 1, .rw, 0x0⟩

/-- DMA_SH_CTRL.SRC_FIX[9] (R394), RW. -/
def F.dmaShCtrlSrcFix : Fld := ⟨0xA0001C, 0x40, 16, 9, 1, .rw, 0x0⟩

/-- DMA_SH_CTRL.DST_SPACE[7:4] (R394), RW. -/
def F.dmaShCtrlDstSpace : Fld := ⟨0xA0001C, 0x40, 16, 4, 4, .rw, 0x0⟩

/-- DMA_SH_CTRL.SRC_SPACE[3:0] (R394), RW. -/
def F.dmaShCtrlSrcSpace : Fld := ⟨0xA0001C, 0x40, 16, 0, 4, .rw, 0x0⟩

/-- DMA_CMD.ABORT[4] (R394), WO. -/
def F.dmaCmdAbort : Fld := ⟨0xA00020, 0x40, 16, 4, 1, .wo, 0x0⟩

/-- DMA_CMD.STOP[3] (R394), WO. -/
def F.dmaCmdStop : Fld := ⟨0xA00020, 0x40, 16, 3, 1, .wo, 0x0⟩

/-- DMA_CMD.DISARM[2] (R394), WO. -/
def F.dmaCmdDisarm : Fld := ⟨0xA00020, 0x40, 16, 2, 1, .wo, 0x0⟩

/-- DMA_CMD.ARM[1] (R394), WO. -/
def F.dmaCmdArm : Fld := ⟨0xA00020, 0x40, 16, 1, 1, .wo, 0x0⟩

/-- DMA_CMD.GO[0] (R394), WO. -/
def F.dmaCmdGo : Fld := ⟨0xA00020, 0x40, 16, 0, 1, .wo, 0x0⟩

/-- DMA_STATUS.HALT_CODE[27:24] (R394), RO. -/
def F.dmaStatusHaltCode : Fld := ⟨0xA00024, 0x40, 16, 24, 4, .ro, 0x0⟩

/-- DMA_STATUS.OWNED[19] (R394), RO. -/
def F.dmaStatusOwned : Fld := ⟨0xA00024, 0x40, 16, 19, 1, .ro, 0x0⟩

/-- DMA_STATUS.PEND_SHADOW[18] (R394), RO. -/
def F.dmaStatusPendShadow : Fld := ⟨0xA00024, 0x40, 16, 18, 1, .ro, 0x0⟩

/-- DMA_STATUS.SHADOW_VALID[17] (R394), RO. -/
def F.dmaStatusShadowValid : Fld := ⟨0xA00024, 0x40, 16, 17, 1, .ro, 0x0⟩

/-- DMA_STATUS.STATE[15:14] (R394), RO. -/
def F.dmaStatusState : Fld := ⟨0xA00024, 0x40, 16, 14, 2, .ro, 0x0⟩

/-- DMA_STATUS.CMD_IGNORED[7] (R394), W1C. -/
def F.dmaStatusCmdIgnored : Fld := ⟨0xA00024, 0x40, 16, 7, 1, .w1c, 0x0⟩

/-- DMA_STATUS.POISONED[6] (R394), W1C. -/
def F.dmaStatusPoisoned : Fld := ⟨0xA00024, 0x40, 16, 6, 1, .w1c, 0x0⟩

/-- DMA_STATUS.ABORTED[5] (R394), W1C. -/
def F.dmaStatusAborted : Fld := ⟨0xA00024, 0x40, 16, 5, 1, .w1c, 0x0⟩

/-- DMA_STATUS.STOPPED[4] (R394), W1C. -/
def F.dmaStatusStopped : Fld := ⟨0xA00024, 0x40, 16, 4, 1, .w1c, 0x0⟩

/-- DMA_STATUS.SHADOW_BUSY[3] (R394), W1C. -/
def F.dmaStatusShadowBusy : Fld := ⟨0xA00024, 0x40, 16, 3, 1, .w1c, 0x0⟩

/-- DMA_STATUS.SET_DONE[2] (R394), W1C. -/
def F.dmaStatusSetDone : Fld := ⟨0xA00024, 0x40, 16, 2, 1, .w1c, 0x0⟩

/-- DMA_STATUS.DONE[0] (R394), W1C. -/
def F.dmaStatusDone : Fld := ⟨0xA00024, 0x40, 16, 0, 1, .w1c, 0x0⟩

/-- DMA_REMAIN.BYTES[31:0] (R394), RO. -/
def F.dmaRemain : Fld := ⟨0xA00028, 0x40, 16, 0, 32, .ro, 0x0⟩

/-- DMA_SET_CNT.COUNT[31:0] (R394), RC. -/
def F.dmaSetCnt : Fld := ⟨0xA0002C, 0x40, 16, 0, 32, .rc, 0x0⟩

/-- DMA_RETRY_CNT.COUNT[31:0] (R394), RC. -/
def F.dmaRetryCnt : Fld := ⟨0xA00030, 0x40, 16, 0, 32, .rc, 0x0⟩

/-- DMA_CFG.RETRY_MAX[2:0] (R394), RW. -/
def F.dmaCfg : Fld := ⟨0xA00400, 0x0, 1, 0, 3, .rw, 0x3⟩

/-- DMA_OWNER.OWNED[15:0] (R394), RO. -/
def F.dmaOwner : Fld := ⟨0xA00404, 0x0, 1, 0, 16, .ro, 0x4F00⟩

/-- TIME_STATUS.CHAIN_ALIGNED[19] (R423), RO. -/
def F.timeStatusChainAligned : Fld := ⟨0xB00000, 0x0, 1, 19, 1, .ro, 0x0⟩

/-- TIME_STATUS.REF_LOST[18] (R423), RO. -/
def F.timeStatusRefLost : Fld := ⟨0xB00000, 0x0, 1, 18, 1, .ro, 0x0⟩

/-- TIME_STATUS.PPS_PRESENT[17] (R423), RO. -/
def F.timeStatusPpsPresent : Fld := ⟨0xB00000, 0x0, 1, 17, 1, .ro, 0x0⟩

/-- TIME_STATUS.MASTER_OK[16] (R423), RO. -/
def F.timeStatusMasterOk : Fld := ⟨0xB00000, 0x0, 1, 16, 1, .ro, 0x0⟩

/-- TIME_STATUS.STATE[2:0] (R423), RO. -/
def F.timeStatusState : Fld := ⟨0xB00000, 0x0, 1, 0, 3, .ro, 0x0⟩

/-- TIME_CFG.DOMAIN[31:24] (R423), RW. -/
def F.timeCfgDomain : Fld := ⟨0xB00004, 0x0, 1, 24, 8, .rw, 0x18⟩

/-- TIME_CFG.MCAST[23] (R423), RW. -/
def F.timeCfgMcast : Fld := ⟨0xB00004, 0x0, 1, 23, 1, .rw, 0x1⟩

/-- TIME_CFG.SYNC_TIMEOUT[22:16] (R423), RW. -/
def F.timeCfgSyncTimeout : Fld := ⟨0xB00004, 0x0, 1, 16, 7, .rw, 0xA⟩

/-- TIME_CFG.CHAIN_SERVE[4] (R423), RW. -/
def F.timeCfgChainServe : Fld := ⟨0xB00004, 0x0, 1, 4, 1, .rw, 0x0⟩

/-- TIME_CFG.SYNC_SRC[1:0] (R423), RW. -/
def F.timeCfgSyncSrc : Fld := ⟨0xB00004, 0x0, 1, 0, 2, .rw, 0x0⟩

/-- STEP_CFG.STEP_THRESH[31:16] (R423), RW. -/
def F.stepCfgStepThresh : Fld := ⟨0xB00008, 0x0, 1, 16, 16, .rw, 0x3E8⟩

/-- STEP_CFG.STEP_PERSIST[15:12] (R423), RW. -/
def F.stepCfgStepPersist : Fld := ⟨0xB00008, 0x0, 1, 12, 4, .rw, 0x4⟩

/-- STEP_CFG.LOCK_TOL[11:0] (R423), RW. -/
def F.stepCfgLockTol : Fld := ⟨0xB00008, 0x0, 1, 0, 12, .rw, 0x64⟩

/-- TIME_NS.NS[29:0] (R423), RO. -/
def F.timeNs : Fld := ⟨0xB0000C, 0x0, 1, 0, 30, .ro, 0x0⟩

/-- TIME_SEC_HI.SEC_HI[15:0] (R423), RO. -/
def F.timeSecHi : Fld := ⟨0xB00010, 0x0, 1, 0, 16, .ro, 0x0⟩

/-- TIME_SEC_LO.SEC_LO[31:0] (R423), RO. -/
def F.timeSecLo : Fld := ⟨0xB00014, 0x0, 1, 0, 32, .ro, 0x0⟩

/-- TIME_OFFSET.OFFSET[31:0] (R423), RO. -/
def F.timeOffset : Fld := ⟨0xB00018, 0x0, 1, 0, 32, .ro, 0x0⟩

/-- PATH_DELAY.DELAY[31:0] (R423), RO. -/
def F.pathDelay : Fld := ⟨0xB0001C, 0x0, 1, 0, 32, .ro, 0x0⟩

/-- FREQ_ADJ.Y[31:0] (R423), RO. -/
def F.freqAdj : Fld := ⟨0xB00020, 0x0, 1, 0, 32, .ro, 0x0⟩

/-- TL_OFFSET_HI.OFS_HI[1:0] (R423), RO. -/
def F.tlOffsetHi : Fld := ⟨0xB00024, 0x0, 1, 0, 2, .ro, 0x0⟩

/-- TL_OFFSET_LO.OFS_LO[31:0] (R423), RO. -/
def F.tlOffsetLo : Fld := ⟨0xB00028, 0x0, 1, 0, 32, .ro, 0x0⟩

/-- PPS_CFG.OUT_EN[31] (R423), RW. -/
def F.ppsCfgOutEn : Fld := ⟨0xB0002C, 0x0, 1, 31, 1, .rw, 0x1⟩

/-- PPS_CFG.OUT_HOLD[30] (R423), RW. -/
def F.ppsCfgOutHold : Fld := ⟨0xB0002C, 0x0, 1, 30, 1, .rw, 0x1⟩

/-- PPS_CFG.WIDTH_MS[29:20] (R423), RW. -/
def F.ppsCfgWidthMs : Fld := ⟨0xB0002C, 0x0, 1, 20, 10, .rw, 0x64⟩

/-- PPS_CFG.OUT_OFFSET[19:0] (R423), RW. -/
def F.ppsCfgOutOffset : Fld := ⟨0xB0002C, 0x0, 1, 0, 20, .rw, 0x0⟩

/-- PPS_IN_NS.NS[29:0] (R423), RO. -/
def F.ppsInNs : Fld := ⟨0xB00030, 0x0, 1, 0, 30, .ro, 0x0⟩

/-- WAKE_SEC.SEC[31:0] (R423), RW. -/
def F.wakeSec : Fld := ⟨0xB00034, 0x0, 1, 0, 32, .rw, 0x0⟩

/-- TIME_EVENT.CHAIN_UNALIGNED[5] (R423), W1C. -/
def F.timeEventChainUnaligned : Fld := ⟨0xB00038, 0x0, 1, 5, 1, .w1c, 0x0⟩

/-- TIME_EVENT.PPS_LOST[4] (R423), W1C. -/
def F.timeEventPpsLost : Fld := ⟨0xB00038, 0x0, 1, 4, 1, .w1c, 0x0⟩

/-- TIME_EVENT.LOCKED[3] (R423), W1C. -/
def F.timeEventLocked : Fld := ⟨0xB00038, 0x0, 1, 3, 1, .w1c, 0x0⟩

/-- TIME_EVENT.HOLDOVER[2] (R423), W1C. -/
def F.timeEventHoldover : Fld := ⟨0xB00038, 0x0, 1, 2, 1, .w1c, 0x0⟩

/-- TIME_EVENT.STEP_APPLIED[1] (R423), W1C. -/
def F.timeEventStepApplied : Fld := ⟨0xB00038, 0x0, 1, 1, 1, .w1c, 0x0⟩

/-- TIME_EVENT.STEP_REFUSED[0] (R423), W1C. -/
def F.timeEventStepRefused : Fld := ⟨0xB00038, 0x0, 1, 0, 1, .w1c, 0x0⟩

/-- STEP_REFUSE_CNT.COUNT[31:0] (R423), RC. -/
def F.stepRefuseCnt : Fld := ⟨0xB0003C, 0x0, 1, 0, 32, .rc, 0x0⟩

/-- PTP_DROP_CNT.COUNT[31:0] (R423), RC. -/
def F.ptpDropCnt : Fld := ⟨0xB00040, 0x0, 1, 0, 32, .rc, 0x0⟩

/-- HOLDOVER_CNT.COUNT[31:0] (R423), RC. -/
def F.holdoverCnt : Fld := ⟨0xB00044, 0x0, 1, 0, 32, .rc, 0x0⟩

/-- PTP_ASYM.ASYM_B[31:16] (R423), RW. -/
def F.ptpAsymAsymB : Fld := ⟨0xB00048, 0x0, 1, 16, 16, .rw, 0x0⟩

/-- PTP_ASYM.ASYM_A[15:0] (R423), RW. -/
def F.ptpAsymAsymA : Fld := ⟨0xB00048, 0x0, 1, 0, 16, .rw, 0x0⟩

/-- AUX_TIME_CFG.PPS_IN_DELAY[31:16] (R423), RW. -/
def F.auxTimeCfgPpsInDelay : Fld := ⟨0xB0004C, 0x0, 1, 16, 16, .rw, 0x0⟩

/-- AUX_TIME_CFG.ALIGN_TOL[8:0] (R423), RW. -/
def F.auxTimeCfgAlignTol : Fld := ⟨0xB0004C, 0x0, 1, 0, 9, .rw, 0x14⟩

/-- The registers of block 0x00400000. -/
def regsOfFabric : List RegDef := [
  ⟨"FAB_STATUS", 0x400000, 0x0, 1, [F.fabStatusCrewsBf, F.fabStatusLoopState, F.fabStatusVfabMv]⟩,
  ⟨"FAB_SLACK_CFG", 0x400004, 0x0, 1, [F.fabSlackCfgSlackCeil, F.fabSlackCfgSlackFloor]⟩,
  ⟨"FAB_VFAB_CFG", 0x400008, 0x0, 1, [F.fabVfabCfgLoopEn, F.fabVfabCfgVfabSetMv]⟩,
  ⟨"FAB_SHIFT", 0x40000C, 0x0, 1, [F.fabShiftShiftUl1, F.fabShiftShiftDl1, F.fabShiftShiftUl0, F.fabShiftShiftDl0]⟩,
  ⟨"FAB_SLACK_MIN_DL0", 0x400010, 0x0, 1, [F.fabSlackMinDl0Pct, F.fabSlackMinDl0Ticks]⟩,
  ⟨"FAB_SLACK_MIN_UL0", 0x400014, 0x0, 1, [F.fabSlackMinUl0Pct, F.fabSlackMinUl0Ticks]⟩,
  ⟨"FAB_SLACK_MIN_DL1", 0x400018, 0x0, 1, [F.fabSlackMinDl1Pct, F.fabSlackMinDl1Ticks]⟩,
  ⟨"FAB_SLACK_MIN_UL1", 0x40001C, 0x0, 1, [F.fabSlackMinUl1Pct, F.fabSlackMinUl1Ticks]⟩,
  ⟨"FAB_SPEED", 0x400020, 0x0, 1, [F.fabSpeedSpeedMax, F.fabSpeedSpeedNow]⟩,
  ⟨"FAB_CREW_MUTE", 0x400024, 0x0, 1, [F.fabCrewMute]⟩,
  ⟨"FAB_CREW_RSV", 0x400028, 0x0, 1, [F.fabCrewRsv]⟩,
  ⟨"FAB_EVENT", 0x40002C, 0x0, 1, [F.fabEventLimit, F.fabEventFault, F.fabEventMismatch, F.fabEventSlip]⟩,
  ⟨"DL_REPEAT_CNT", 0x400030, 0x0, 1, [F.dlRepeatCnt]⟩,
  ⟨"UL_DROP_CNT", 0x400034, 0x0, 1, [F.ulDropCnt]⟩,
  ⟨"MISMATCH_CNT", 0x400038, 0x0, 1, [F.mismatchCnt]⟩,
  ⟨"FALLBACK_CNT", 0x40003C, 0x0, 1, [F.fallbackCnt]⟩,
  ⟨"FAB_SAT_CNT", 0x400040, 0x0, 1, [F.fabSatCnt]⟩,
  ⟨"EST_ABANDON_CNT", 0x400044, 0x0, 1, [F.estAbandonCnt]⟩,
  ⟨"CREW_ZERO_CNT", 0x400048, 0x0, 1, [F.crewZeroCnt]⟩]

/-- The registers of block 0x00500000. -/
def regsOfRf : List RegDef := [
  ⟨"RSM_STATUS", 0x500000, 0x20, 4, [F.rsmStatusDtSinceCal, F.rsmStatusCalPend, F.rsmStatusFault, F.rsmStatusLock, F.rsmStatusState]⟩,
  ⟨"RSM_CFG", 0x500004, 0x20, 4, [F.rsmCfgSynthDt, F.rsmCfgCompEn]⟩,
  ⟨"LO_FREQ", 0x500008, 0x20, 4, [F.loFreq]⟩,
  ⟨"COMP_STATUS", 0x50000C, 0x20, 4, [F.compStatusBand, F.compStatusCompSat, F.compStatusGain]⟩,
  ⟨"RF_WITHHELD_CNT", 0x500010, 0x20, 4, [F.rfWithheldCnt]⟩,
  ⟨"TDD_DL_CONFLICT_CNT", 0x500014, 0x20, 4, [F.tddDlConflictCnt]⟩,
  ⟨"TDD_UL_CONFLICT_CNT", 0x500018, 0x20, 4, [F.tddUlConflictCnt]⟩,
  ⟨"SYNTH_CAL_CNT", 0x50001C, 0x20, 4, [F.synthCalCnt]⟩,
  ⟨"TDD_STB_CFG", 0x500080, 0x4, 8, [F.tddStbCfgEn, F.tddStbCfgPol, F.tddStbCfgDir, F.tddStbCfgGroup, F.tddStbCfgLeadNs, F.tddStbCfgLagNs]⟩,
  ⟨"ORX_SW_STATE", 0x5000A0, 0x4, 4, [F.orxSwState]⟩,
  ⟨"PA_BUS_CFG", 0x5000B0, 0x0, 1, [F.paBusCfgMode3, F.paBusCfgSckMhz]⟩,
  ⟨"PA_BUS_STATUS", 0x5000B4, 0x0, 1, [F.paBusStatusSafeSent, F.paBusStatusBusy, F.paBusStatusQueueLevel]⟩,
  ⟨"PA_LATE_CNT", 0x5000B8, 0x0, 1, [F.paLateCnt]⟩,
  ⟨"PWR_CLAMP_CNT", 0x5000BC, 0x0, 1, [F.pwrClampCnt]⟩]

/-- The registers of block 0x00600000. -/
def regsOfCapture : List RegDef := [
  ⟨"CAP_CFG", 0x600000, 0x40, 16, [F.capCfgStopFull, F.capCfgLinkEn, F.capCfgLeader, F.capCfgOrxDec, F.capCfgTrig, F.capCfgPath, F.capCfgSource]⟩,
  ⟨"CAP_AREA", 0x600004, 0x40, 16, [F.capAreaBaseBlk, F.capAreaNblk]⟩,
  ⟨"CAP_LEN", 0x600008, 0x40, 16, [F.capLen]⟩,
  ⟨"CAP_TRIG", 0x60000C, 0x40, 16, [F.capTrigLevel, F.capTrigTag]⟩,
  ⟨"CAP_TRIG2", 0x600010, 0x40, 16, [F.capTrig2Period, F.capTrig2Offset]⟩,
  ⟨"CAP_STATUS", 0x600014, 0x40, 16, [F.capStatusStopReason, F.capStatusState, F.capStatusCaptureSeq]⟩,
  ⟨"CAP_WR_CNT", 0x600018, 0x40, 16, [F.capWrCnt]⟩,
  ⟨"CAP_RD_CNT", 0x60001C, 0x40, 16, [F.capRdCnt]⟩,
  ⟨"CAP_OVR_CNT", 0x600020, 0x40, 16, [F.capOvrCnt]⟩,
  ⟨"CAP_GAP_CNT", 0x600024, 0x40, 16, [F.capGapCnt]⟩,
  ⟨"CAP_LOST_CNT", 0x600028, 0x40, 16, [F.capLostCnt]⟩,
  ⟨"URGENT_DROP_CNT", 0x600400, 0x4, 4, [F.urgentDropCnt]⟩,
  ⟨"CAP_RATE", 0x600410, 0x0, 1, [F.capRate]⟩]

/-- The registers of block 0x00700000. -/
def regsOfCal : List RegDef := [
  ⟨"CAL_CFG", 0x700000, 0x0, 1, [F.calCfgKindEn, F.calCfgCalDt]⟩,
  ⟨"CAL_PRECOND", 0x700004, 0x0, 1, [F.calPrecondCalPmin, F.calPrecondCalPmax, F.calPrecondCalOcc]⟩,
  ⟨"CAL_SEL", 0x700008, 0x0, 1, [F.calSel]⟩,
  ⟨"CAL_STATE", 0x70000C, 0x0, 1, [F.calStateUncal, F.calStateDue, F.calStateRunning, F.calStateCmdPend, F.calStateOutcome, F.calStateReason, F.calStateTempMove]⟩,
  ⟨"CAL_RUN_CNT", 0x700010, 0x0, 1, [F.calRunCnt]⟩,
  ⟨"CAL_ACC_CNT", 0x700014, 0x0, 1, [F.calAccCnt]⟩,
  ⟨"CAL_DEF_CNT", 0x700018, 0x0, 1, [F.calDefCnt]⟩,
  ⟨"CAL_REJ_CNT", 0x70001C, 0x0, 1, [F.calRejCnt]⟩,
  ⟨"CAL_LAST_TAG", 0x700020, 0x0, 1, [F.calLastTag]⟩,
  ⟨"CAL_LAST_UPT_HI", 0x700024, 0x0, 1, [F.calLastUptHi]⟩,
  ⟨"CAL_LAST_UPT_LO", 0x700028, 0x0, 1, [F.calLastUptLo]⟩,
  ⟨"DPD_STATUS", 0x700100, 0x4, 64, [F.dpdStatusBypass, F.dpdStatusBypReason, F.dpdStatusProv, F.dpdStatusTrainEn, F.dpdStatusDue, F.dpdStatusPoorRun, F.dpdStatusSlot, F.dpdStatusTrainIdx, F.dpdStatusDriveIdx]⟩,
  ⟨"DPD_CFG", 0x700200, 0x0, 1, [F.dpdCfgNmseMax, F.dpdCfgMu, F.dpdCfgIdxTol]⟩,
  ⟨"DPD_SAT_CNT", 0x700204, 0x0, 1, [F.dpdSatCnt]⟩,
  ⟨"DPD_POISON_CNT", 0x700208, 0x0, 1, [F.dpdPoisonCnt]⟩,
  ⟨"CAL_STORE_STATUS", 0x70020C, 0x0, 1, [F.calStoreStatusStoreFail, F.calStoreStatusQueued]⟩]

/-- The registers of block 0x00800000. -/
def regsOfCave : List RegDef := [
  ⟨"CAVE_STATUS", 0x800000, 0x0, 1, [F.caveStatusMigrating, F.caveStatusSpareUsed, F.caveStatusPhysL1, F.caveStatusPhysL0, F.caveStatusRefxD2, F.caveStatusRefxD1, F.caveStatusRefxD0, F.caveStatusSelfRefresh, F.caveStatusPanic, F.caveStatusMapOrder]⟩,
  ⟨"P0_CFG", 0x800004, 0x0, 1, [F.p0CfgPanicHi, F.p0CfgPanicLo, F.p0CfgWqHi, F.p0CfgWqLo]⟩,
  ⟨"PORT_CFG", 0x800008, 0x0, 1, [F.portCfgAgeLimit, F.portCfgPrioP3, F.portCfgPrioP2, F.portCfgPrioP1]⟩,
  ⟨"REF_CFG", 0x80000C, 0x0, 1, [F.refCfg]⟩,
  ⟨"RH_CFG", 0x800010, 0x0, 1, [F.rhCfgRhDist2, F.rhCfgRhThresh]⟩,
  ⟨"P0_STATUS", 0x800014, 0x0, 1, [F.p0StatusPfLevel, F.p0StatusWqLevel]⟩,
  ⟨"REF_STATUS", 0x800018, 0x0, 1, [F.refStatusOwedD2, F.refStatusOwedD1, F.refStatusOwedD0]⟩,
  ⟨"CAVE_EVENT", 0x80001C, 0x0, 1, [F.caveEventRhTrr, F.caveEventDramHot, F.caveEventRefForced, F.caveEventLateWeight, F.caveEventPanic]⟩,
  ⟨"P0_PANIC_CNT", 0x800020, 0x0, 1, [F.p0PanicCnt]⟩,
  ⟨"LATE_WEIGHT_CNT", 0x800024, 0x0, 1, [F.lateWeightCnt]⟩,
  ⟨"REF_FORCED_CNT", 0x800028, 0x0, 1, [F.refForcedCnt]⟩,
  ⟨"REF_POSTPONE_CNT", 0x80002C, 0x0, 1, [F.refPostponeCnt]⟩,
  ⟨"RH_TRR_CNT", 0x800030, 0x0, 1, [F.rhTrrCnt]⟩,
  ⟨"RAW_WAIT_CNT", 0x800034, 0x0, 1, [F.rawWaitCnt]⟩,
  ⟨"AGE_PROMOTE_CNT", 0x800038, 0x0, 1, [F.agePromoteCnt]⟩,
  ⟨"P0_FORCED_DRAIN_CNT", 0x80003C, 0x0, 1, [F.p0ForcedDrainCnt]⟩,
  ⟨"PORT_BW", 0x800040, 0x4, 4, [F.portBw]⟩]

/-- The registers of block 0x00900000. -/
def regsOfIntegrity : List RegDef := [
  ⟨"MI_STATUS", 0x900000, 0x0, 1, [F.miStatusRetired, F.miStatusMigSrc, F.miStatusNoSpare, F.miStatusPaused, F.miStatusScrubRun, F.miStatusTrackLevel]⟩,
  ⟨"SCRUB_CFG", 0x900004, 0x0, 1, [F.scrubCfgUeThresh, F.scrubCfgScrubPeriod]⟩,
  ⟨"SPARE_CFG", 0x900008, 0x0, 1, [F.spareCfgAutoSpare, F.spareCfgHardLimit]⟩,
  ⟨"SCRUB_POS", 0x90000C, 0x0, 1, [F.scrubPos]⟩,
  ⟨"MIG_POS", 0x900010, 0x0, 1, [F.migPos]⟩,
  ⟨"MI_EVENT", 0x900014, 0x0, 1, [F.miEventLate, F.miEventNoSpare, F.miEventSpareDone, F.miEventAddrFault, F.miEventHard, F.miEventUeThresh, F.miEventUeFound]⟩,
  ⟨"CE_CNT_D", 0x900018, 0x4, 3, [F.ceCntD]⟩,
  ⟨"UE_CNT_D", 0x900024, 0x4, 3, [F.ueCntD]⟩,
  ⟨"HARD_CNT_D", 0x900030, 0x4, 3, [F.hardCntD]⟩,
  ⟨"SRAM_CE_CNT", 0x90003C, 0x0, 1, [F.sramCeCnt]⟩,
  ⟨"SRAM_UE_CNT", 0x900040, 0x0, 1, [F.sramUeCnt]⟩,
  ⟨"POISON_READ_CNT", 0x900044, 0x0, 1, [F.poisonReadCnt]⟩,
  ⟨"SCRUB_PASS_CNT", 0x900048, 0x0, 1, [F.scrubPassCnt]⟩,
  ⟨"UE_LOG_CNT", 0x90004C, 0x0, 1, [F.ueLogCnt]⟩]

/-- The registers of block 0x00A00000. -/
def regsOfDma : List RegDef := [
  ⟨"DMA_SRC", 0xA00000, 0x40, 16, [F.dmaSrc]⟩,
  ⟨"DMA_DST", 0xA00004, 0x40, 16, [F.dmaDst]⟩,
  ⟨"DMA_LEN", 0xA00008, 0x40, 16, [F.dmaLen]⟩,
  ⟨"DMA_CTRL", 0xA0000C, 0x40, 16, [F.dmaCtrlEvDone, F.dmaCtrlEsize, F.dmaCtrlDstFix, F.dmaCtrlSrcFix, F.dmaCtrlDstSpace, F.dmaCtrlSrcSpace]⟩,
  ⟨"DMA_SH_SRC", 0xA00010, 0x40, 16, [F.dmaShSrc]⟩,
  ⟨"DMA_SH_DST", 0xA00014, 0x40, 16, [F.dmaShDst]⟩,
  ⟨"DMA_SH_LEN", 0xA00018, 0x40, 16, [F.dmaShLen]⟩,
  ⟨"DMA_SH_CTRL", 0xA0001C, 0x40, 16, [F.dmaShCtrlEvDone, F.dmaShCtrlEsize, F.dmaShCtrlDstFix, F.dmaShCtrlSrcFix, F.dmaShCtrlDstSpace, F.dmaShCtrlSrcSpace]⟩,
  ⟨"DMA_CMD", 0xA00020, 0x40, 16, [F.dmaCmdAbort, F.dmaCmdStop, F.dmaCmdDisarm, F.dmaCmdArm, F.dmaCmdGo]⟩,
  ⟨"DMA_STATUS", 0xA00024, 0x40, 16, [F.dmaStatusHaltCode, F.dmaStatusOwned, F.dmaStatusPendShadow, F.dmaStatusShadowValid, F.dmaStatusState, F.dmaStatusCmdIgnored, F.dmaStatusPoisoned, F.dmaStatusAborted, F.dmaStatusStopped, F.dmaStatusShadowBusy, F.dmaStatusSetDone, F.dmaStatusDone]⟩,
  ⟨"DMA_REMAIN", 0xA00028, 0x40, 16, [F.dmaRemain]⟩,
  ⟨"DMA_SET_CNT", 0xA0002C, 0x40, 16, [F.dmaSetCnt]⟩,
  ⟨"DMA_RETRY_CNT", 0xA00030, 0x40, 16, [F.dmaRetryCnt]⟩,
  ⟨"DMA_CFG", 0xA00400, 0x0, 1, [F.dmaCfg]⟩,
  ⟨"DMA_OWNER", 0xA00404, 0x0, 1, [F.dmaOwner]⟩]

/-- The registers of block 0x00B00000. -/
def regsOfTime : List RegDef := [
  ⟨"TIME_STATUS", 0xB00000, 0x0, 1, [F.timeStatusChainAligned, F.timeStatusRefLost, F.timeStatusPpsPresent, F.timeStatusMasterOk, F.timeStatusState]⟩,
  ⟨"TIME_CFG", 0xB00004, 0x0, 1, [F.timeCfgDomain, F.timeCfgMcast, F.timeCfgSyncTimeout, F.timeCfgChainServe, F.timeCfgSyncSrc]⟩,
  ⟨"STEP_CFG", 0xB00008, 0x0, 1, [F.stepCfgStepThresh, F.stepCfgStepPersist, F.stepCfgLockTol]⟩,
  ⟨"TIME_NS", 0xB0000C, 0x0, 1, [F.timeNs]⟩,
  ⟨"TIME_SEC_HI", 0xB00010, 0x0, 1, [F.timeSecHi]⟩,
  ⟨"TIME_SEC_LO", 0xB00014, 0x0, 1, [F.timeSecLo]⟩,
  ⟨"TIME_OFFSET", 0xB00018, 0x0, 1, [F.timeOffset]⟩,
  ⟨"PATH_DELAY", 0xB0001C, 0x0, 1, [F.pathDelay]⟩,
  ⟨"FREQ_ADJ", 0xB00020, 0x0, 1, [F.freqAdj]⟩,
  ⟨"TL_OFFSET_HI", 0xB00024, 0x0, 1, [F.tlOffsetHi]⟩,
  ⟨"TL_OFFSET_LO", 0xB00028, 0x0, 1, [F.tlOffsetLo]⟩,
  ⟨"PPS_CFG", 0xB0002C, 0x0, 1, [F.ppsCfgOutEn, F.ppsCfgOutHold, F.ppsCfgWidthMs, F.ppsCfgOutOffset]⟩,
  ⟨"PPS_IN_NS", 0xB00030, 0x0, 1, [F.ppsInNs]⟩,
  ⟨"WAKE_SEC", 0xB00034, 0x0, 1, [F.wakeSec]⟩,
  ⟨"TIME_EVENT", 0xB00038, 0x0, 1, [F.timeEventChainUnaligned, F.timeEventPpsLost, F.timeEventLocked, F.timeEventHoldover, F.timeEventStepApplied, F.timeEventStepRefused]⟩,
  ⟨"STEP_REFUSE_CNT", 0xB0003C, 0x0, 1, [F.stepRefuseCnt]⟩,
  ⟨"PTP_DROP_CNT", 0xB00040, 0x0, 1, [F.ptpDropCnt]⟩,
  ⟨"HOLDOVER_CNT", 0xB00044, 0x0, 1, [F.holdoverCnt]⟩,
  ⟨"PTP_ASYM", 0xB00048, 0x0, 1, [F.ptpAsymAsymB, F.ptpAsymAsymA]⟩,
  ⟨"AUX_TIME_CFG", 0xB0004C, 0x0, 1, [F.auxTimeCfgPpsInDelay, F.auxTimeCfgAlignTol]⟩]

/-- The registers of the block that an address lies in, by its bits 31:20 (R443). -/
def regsOfBlock (b : Nat) : List RegDef :=
  match b with
  | 4 => regsOfFabric
  | 5 => regsOfRf
  | 6 => regsOfCapture
  | 7 => regsOfCal
  | 8 => regsOfCave
  | 9 => regsOfIntegrity
  | 10 => regsOfDma
  | 11 => regsOfTime
  | _ => []

end Sys2Proof.Machine
end

