-- ==== Sys2Proof/Machine/State.lean ====
section
/-! DEFINITION. The state of the block: everything the spec names, as plain data, and the state right after a power-on
reset. Register words live in `regs`, by address (RegMap.lean gives the fields and Reset values); everything that no
register shows lives in the structures below. -/

namespace Sys2Proof.Machine

/-- Nothing in this model stops a run with a fault: every command the spec describes has an effect, and a command whose
preconditions do not hold has none (log entry 2). The type has no constructor. -/
inductive Fault where
deriving DecidableEq, Repr

/-- Reasons for a refusal. -/
inductive Refusal where
  /-- A command whose meaning has not been written; no arm raises it. Safe: it stops where the hardware goes on. -/
  | notModelled (mnemonic : String)
deriving DecidableEq, Repr

/-- The two parts of the family (R1). -/
inductive Part where
  | vk6464
  | vk6432
deriving DecidableEq, Repr

/-- The states that MODE_STATE reports (R62). -/
inductive Mode where
  | boot
  | dormant
  | standby
  | listen
  | dense
  | wide
  | split
  | chain
  | service
  | recovery
  | shutdown
deriving DecidableEq, Repr

/-- The device's power state (R65, R72, R455 to R457, R472). -/
inductive Power where
  /-- VIN below the start threshold, or rails off after a brown-out -/
  | off
  /-- the cold start-up sequence runs -/
  | starting
  /-- rails on -/
  | on
  /-- DORMANT rails -/
  | dormant
  /-- hardware shutdown rails -/
  | shutdown
  /-- the wake sequence of R74, or the restart of R474, runs -/
  | waking
  /-- rails held off after three rail-fault restarts (R456) -/
  | held
deriving DecidableEq, Repr

/-- The wake sources of R74, as R504 numbers them. -/
inductive WakeSource where
  | pin
  | mspi
  | counter
deriving DecidableEq, Repr

/-- Power input, start-up and shutdown (R65 to R76, R454 to R458, R471 to R475). -/
structure PowerSt where
  power : Power := .off
  /-- the next start is a power-on (R454), not a brown-out restart (R457) -/
  powerOn : Bool := true
  /-- stream tick at which VIN passed the start threshold (R456) -/
  startTick : Nat := 0
  /-- cause, rail index and VIN extreme in 10 mV of the last brown-out, latched by the always-on domain (R457) -/
  brownout : Option (Nat × Nat × Nat) := none
  /-- consecutive rail-fault restarts without STANDBY (R456) -/
  railRestarts : Nat := 0
  /-- start-up faults of BOOT_DONE: bits 1 to 4 (R504) -/
  bootFaults : Nat := 0
  /-- physical rank whose place rank 2 took before the fill; 3 none (R504, R320) -/
  rankReplaced : Nat := 3
  /-- DRAM training has ended (R65) -/
  trained : Bool := false
  /-- the memory fill is complete and Cox is released (R65, R352) -/
  filled : Bool := false
  /-- a valid reference clock is present (R68, R227), and its rate in kHz -/
  refValid : Bool := false
  refRateKhz : Nat := 0
  /-- NO_REFERENCE has been reported in this start-up (R68) -/
  noReference : Bool := false
  /-- the RECOVERY fault CAVE_FAIL (R68) -/
  caveFail : Bool := false
  /-- Reference PLL and CPLL locked (R28) -/
  refPll : Bool := false
  cpll : Bool := false
  /-- instant on `u` in 2⁻¹⁶ ns at which lock was lost, while it is; the last span out of lock; and TX of each half held muted
  until the first stroke of the half after relock (R28, R399) -/
  pllFrom : Option Int := none
  pllSpan : Option (Int × Int) := none
  txHeld : Bool × Bool := (false, false)
  /-- the wake source of the wake in progress (R74) -/
  wake : Option WakeSource := none
  /-- a wake source met during the entry to DORMANT (R75), or held under R475 -/
  wakeHeld : Option WakeSource := none
  short : Bool := false
  /-- entry to DORMANT is in progress since step 1 of R71, with the header of its command -/
  entering : Option CmdHdr := none
  /-- the DORMANT command whose completion waits for the wake (R71) -/
  dormantCmd : Option CmdHdr := none
  /-- SHUTDOWN_CNT (R471), the sensor of the trip, and a THERMAL_SHUTDOWN still to send (R474, R475) -/
  shutdownCnt : Nat := 0
  tripSensor : Nat := 0
  tripPending : Bool := false
  /-- consecutive rounds with every unmasked sensor below 110.0 °C (R474) -/
  coolRounds : Nat := 0
  /-- words of P0_CFG, PORT_CFG, REF_CFG and RH_CFG at the entry to DORMANT, until Cox writes them back (R341) -/
  caveCfg : List Word := []
  /-- the management clock at the trip that latched, which orders trips of the same instant (R474) -/
  tripNow : Nat := 0
  /-- the state that the shutdown left, and the mode command that it abandoned (R61, R474) -/
  before : Mode := .standby
  abandoned : Option CmdHdr := none
deriving DecidableEq, Repr

/-- A TLV item (R429). -/
structure Tlv where
  type : Nat
  value : List Byte
deriving DecidableEq, Repr

/-- A reply of Cox (R430). -/
structure Reply where
  opcode : Nat
  tag : Nat
  status : Nat
  detail : Nat := 0
  results : List Tlv := []
  poison : Bool := false
deriving DecidableEq, Repr

/-- An event (R431): the number carried by each of its TLVs, or, for a completion layout, the reply it completes. -/
structure Event where
  code : Nat
  tag : Nat := 0
  uptime : Nat := 0
  heldBack : Nat := 0
  evtSeq : Nat := 0
  vals : List Int := []
  completion : Option Reply := none
deriving DecidableEq, Repr

/-- What Cox sends on a path: a reply, an event, or the answer to a management keep-alive (R91). -/
inductive CcpOut where
  | reply (r : Reply)
  | event (e : Event)
  | keepalive (seq : Nat)
deriving DecidableEq, Repr

/-- An entry of the event log (R452). -/
structure LogEntry where
  code : Nat
  heldBack : Nat
  uptime : Nat
  tag : Nat
  /-- the first 52 bytes of the event's parameters, after the prefix of R431 -/
  params : List Byte
deriving DecidableEq, Repr

/-- Events of one kind and unit on one delivery path, for the rate limits of R123: path 0 in band, 1 MSPI, 2 log. -/
structure EvtTrack where
  path : Nat
  code : Nat
  unit : Nat
  held : Nat := 0
  /-- instants at which events were sent, in stream ticks of the management clock, newest first -/
  sent : List Nat := []
deriving DecidableEq, Repr

/-- A command executed on a path, for R440: the command, or the raw packet where none could be read. -/
structure DoneCmd where
  tag : Nat
  slot : Nat
  instr : Option Instr
  raw : List Byte
  reply : Option Reply
deriving DecidableEq, Repr

/-- A reply in the order of execution on its path (R439); `none` while it waits for its stroke. -/
structure ReplySlot where
  id : Nat
  hdr : CmdHdr
  opcode : Nat
  reply : Option Reply
deriving DecidableEq, Repr

/-- A long operation in progress (R439). -/
structure LongOp where
  hdr : CmdHdr
  opcode : Nat
deriving DecidableEq, Repr

/-- A change of data-plane state that waits for a stroke (R31). -/
inductive Change where
  | unitState (kind : UnitKind) (units : Nat) (half : Nat) (inService : Bool) (failing : Nat)
  | sectorBeam (dir : Dir) (half beam : Nat) (weights : List Cplx)
  | windows (q : WindowsReq)
  | loOff (groups : Nat)
  | loTune (groups freqKhz : Nat)
  | synthCal (groups : Nat)
  | rxAtt (paths att : Nat)
  | powerTable (group : Nat) (entries : List Word) (backoff : Option Nat)
  | powerStep (paths : Nat) (step : Option Nat) (trim : Option Int)
  | loopback (groups code : Nat)
  | dpdBypass (paths : Nat) (force : Bool)
  | dpdSlot (path slot : Nat) (record : DpdRecord)
  | wsConfig (q : WsConfigReq)
  | phaseComp (v : Nat)
deriving DecidableEq, Repr

/-- A due change: the half whose grid it waits for (R399), the change, and the command to answer. -/
structure Due where
  grid : Nat
  change : Change
  slot : Nat
  hdr : CmdHdr
  opcode : Nat
deriving DecidableEq, Repr

/-- The Cox Command Protocol (R425 to R453). -/
structure CcpSt where
  /-- Cox runs: COX_READY of R433 -/
  ready : Bool := false
  /-- Cox restarts, and whether the watchdog is the cause (R28, R427, R450) -/
  restarting : Bool := false
  watchdog : Bool := false
  /-- packets that wait for Cox, with the instant of the management clock at which each arrived (R437) -/
  inBand : List (Nat × List Byte) := []
  /-- packets that wait for Cox from MSPI, with the instant of arrival (R437) -/
  mspi : List (Nat × List Byte) := []
  /-- bytes that the last MSPI transaction sends on MSPI_MISO (R433) -/
  miso : List Byte := []
  /-- packets to send in band and on MSPI, oldest first (R431, R435) -/
  outBand : List CcpOut := []
  outMspi : List CcpOut := []
  /-- replies in the order of execution, in band and on MSPI (R439) -/
  replyBand : List ReplySlot := []
  replyMspi : List ReplySlot := []
  /-- number of the next reply kept (R438) -/
  nextSlot : Nat := 0
  /-- commands executed last, in band and on MSPI (R440) -/
  doneBand : List DoneCmd := []
  doneMspi : List DoneCmd := []
  /-- accepted changes that wait for their stroke (R31, R439) -/
  due : List Due := []
  /-- per half, the reply slot from which on a change is too late for the next stroke, whose slot's first symbol is under way in
  the Eight, and the shifts that this slot has (R31) -/
  dueLimit : List (Option (Nat × List Nat)) := [none, none]
  /-- long operations whose completion is still to be sent (R439) -/
  longOps : List LongOp := []
  /-- event masks of the two routes (R451) -/
  maskBand : BitVec 128 := BitVec.allOnes 128
  maskMspi : BitVec 128 := BitVec.allOnes 128
  /-- what the rate limits of events follow (R123) -/
  tracks : List EvtTrack := []
  /-- sequence numbers of the packets sent on each route (R431) -/
  seqBand : Nat := 0
  seqMspi : Nat := 0
  /-- episodes under way, by event code and unit (R123) -/
  episodes : List (Nat × Nat) := []
  /-- events, each with its unit, of a hardware shutdown, in which Cox is halted; they wait for its end (R473; log entry 178) -/
  heldEvents : List (Nat × Event) := []
  /-- counters of Cox and CCP (R427, R437, R440) -/
  restartCnt : Nat := 0
  dropCnt : Nat := 0
  dupCnt : Nat := 0
  evtLostCnt : Nat := 0
  mspiCrcCnt : Nat := 0
  /-- entries of the log not yet copied to the ring of the Cox area, oldest first, and the ring (R452) -/
  logNew : List LogEntry := []
  logRing : List LogEntry := []
  /-- a command has arrived in band since power-on, and its port (R451) -/
  bandPort : Option Nat := none
  /-- bulk data port buffers: byte and poison mark, oldest first (R447) -/
  bulkIn : List (Byte × Bool) := []
  bulkOut : List (Byte × Bool) := []
deriving DecidableEq, Repr

/-- A completed mode configuration (R44). Pairs hold half 0 and half 1; a mode outside SPLIT uses the first. -/
structure ModeCfg where
  dlBeams : Nat × Nat := (0, 0)
  ulBeams : Nat × Nat := (0, 0)
  rateKsps : Nat × Nat := (122880, 122880)
  scsKhz : Nat × Nat := (30, 30)
  mantW : Nat × Nat := (9, 9)
  /-- centre frequencies per group as the command gives them; empty: each group keeps its own -/
  loKhz : List Nat := []
  role : Nat := 1
  members : Nat := 3
  base : Mode := .dense
  test : Nat := 0
deriving DecidableEq, Repr

/-- A mode configuration with its chain of completed fallbacks, outermost first (R44, R506). -/
structure ModeFull where
  cfg : ModeCfg := {}
  fallbacks : List ModeCfg := []
deriving DecidableEq, Repr

/-- A mode change in preparation: a command's, or a step-down (R58, R63). -/
structure Prep where
  target : Mode
  full : ModeFull
  cmd : Option CmdHdr
  /-- cause number of a step-down (R468) -/
  cause : Nat := 0
  /-- reason number of a step-down (R468) -/
  reason : Nat := 0
  /-- preparation has ended (R58) -/
  ready : Bool := false
  /-- the last recheck of R54 failed, with its reason code -/
  recheck : Option Nat := none
  /-- the source mode's data plane has stopped (R58, R59) -/
  stopped : Bool := false
deriving DecidableEq, Repr

/-- Operating modes (R39 to R64). -/
structure ModeSt where
  mode : Mode := .boot
  full : ModeFull := {}
  /-- configuration of each mode when it was last entered, by MODE_STATE code (R44, R47) -/
  stored : Tbl ModeFull := []
  prep : Option Prep := none
  dropCnt : Nat := 0
  stepdownCnt : Nat := 0
  /-- consecutive rounds of R55 -/
  powerRounds : Nat := 0
  /-- the instant, in uptime counts, of the effective stroke of the last step-down -/
  lastStepdown : Nat := 0
  /-- the instant of the effective stroke in stream ticks (R110, R121) -/
  effectiveNow : Nat := 0
  /-- the data plane is stopped for a time step (R414), until the counter reaches this value in ns -/
  stepStop : Option Nat := none
deriving DecidableEq, Repr

/-- The state of a stream: the next expected number, the history of the 64 numbers before it, newest first (some true:
received; some false: not received; none: never expected), and the run of stale packets (R106). -/
structure Stream where
  port : Nat
  type : Nat
  half : Nat
  module : Nat
  expected : Nat
  history : List (Option Bool)
  staleRun : Nat := 0
deriving DecidableEq, Repr

/-- A numbering of sent packets: the next SEQ of a stream (R111). -/
structure TxSeq where
  port : Nat
  type : Nat
  half : Nat
  module : Nat
  next : Nat
deriving DecidableEq, Repr

/-- A pilot descriptor of an accepted section (R92, R95). -/
structure Pilot where
  sym : Nat
  nsym : Nat
  comb : Nat
  combOff : Nat
  cshift : Nat
  seq : Nat
deriving DecidableEq, Repr

/-- The result of a weight-store lookup (R198). -/
inductive Lookup where
  | hit (way : Nat)
  | miss
  | poison
deriving DecidableEq, Repr

/-- An accepted C-section of a slot (R92 to R96). -/
structure Section where
  dir : Dir
  half : Nat
  /-- the slot, as the number of slots since frame 0 of the 1,024-frame cycle -/
  slot : TimeTag
  id : Nat
  wmode : Nat
  beam : Nat
  user : Nat
  prbStart : Nat
  prbCnt : Nat
  symStart : Nat
  symCnt : Nat
  group : Nat
  pilot : Option Pilot
  /-- number of the accepted section in arrival order (R111) -/
  order : Nat
  /-- deadline of its weights, set when its lookup is late (R326) -/
  late : Bool := false
  /-- status bits of R100 -/
  miss : Bool := false
  poison : Bool := false
  /-- weights have been formed (R137) -/
  formed : Bool := false
deriving DecidableEq, Repr

/-- Data of one PRB of one symbol: the beam or path it belongs to and its 12 values (R97, R98, R135). -/
structure PrbData where
  half : Nat
  tag : TimeTag
  unit : Nat
  prb : Nat
  vals : List Cplx
  /-- the section it came with -/
  id : Nat := 0
  /-- derived from a poisoned word (R112, R355) -/
  poison : Bool := false
  /-- Cave address of the packet that brought it, where that has spilled (R109) -/
  ext : Option Nat := none
deriving DecidableEq, Repr

/-- A weight update or other packet section held for a stroke (R103). -/
structure WsUpdate where
  tag : Nat
  write : Bool
  quality : Int
  coef : List Cplx
  /-- strokes still to pass before it is applied -/
  wait : Nat
deriving DecidableEq, Repr

/-- A partial sum received from downstream: section, PRB and values, per symbol (R117 to R119). -/
structure PartialData where
  half : Nat
  tag : TimeTag
  id : Nat
  beam : Nat
  prb : Nat
  vals : List Cplx
  miss : Bool
  poison : Bool
  lateWeight : Bool
  mismatch : Bool
  /-- the packet carried POISON = 1, or came back poisoned from the extension region: added as zero -/
  bad : Bool
  /-- its packet carried LATE = 1 (R86) -/
  lateBit : Bool := false
  /-- Cave address of its packet, where that has spilled (R118) -/
  ext : Option Nat := none
deriving DecidableEq, Repr

/-- A downlink U-data packet (type 1) or partial sum (type 4) that waits for its symbol, or a C-section packet (type 3) that waits
for its slot: its size, and its Cave address when it has spilled into the extension region (R26, R27, R109, R118). -/
structure PktWait where
  half : Nat
  tag : TimeTag
  typ : Nat
  bytes : Nat
  ext : Option Nat
deriving DecidableEq, Repr

/-- The UDP and IPv4 header of a frame that the device sends; its checksum is 0 and its TTL 64 (R84). -/
structure TxUdp where
  srcIp : Nat
  dstIp : Nat
  port : Nat
  dscp : Nat
  ttl : Nat := 64
  checksum : Nat := 0
deriving DecidableEq, Repr

/-- A frame that waits for transmission: port, lane, its addressing and framing, and its EFF bytes; whether it is forwarded data of
CHAIN, which the port B buffer holds (R26, R82 to R85). -/
structure Egress where
  port : Nat
  lane : Nat
  dst : Nat
  src : Nat
  /-- VID and PCP of its one tag -/
  vlan : Option (Nat × Nat)
  /-- EtherType of the frame (R83) -/
  etherType : Nat
  /-- the UDP/IPv4 header where the frame has one (R84) -/
  udp : Option TxUdp
  /-- the bytes that follow the headers -/
  bytes : List Byte
  /-- a packet forwarded from port B in CHAIN (R26, R116) -/
  forwarded : Bool := false
deriving DecidableEq, Repr

/-- Addressing and framing of one port (R83 to R85, R111). -/
structure PortParam where
  localMac : Nat := 0
  hostMac : Nat := 0
  etherType : Nat := 0x88B5
  vlan : Nat × Nat × Nat := (0, 0, 0)
  udpEn : Bool := false
  localIp : Nat := 0
  hostIp : Nat := 0
  udpPort : Nat := 47820
  dscp : Nat := 0
  pktLimit : Nat := 9216
deriving DecidableEq, Repr

/-- What a CHAIN status record of a neighbour said (R114). -/
structure ChainRec where
  position : Nat
  mode : Nat
  aligned : Bool
deriving DecidableEq, Repr

/-- A symbol whose partial sums are awaited (R118). -/
structure AccWait where
  half : Nat
  tag : TimeTag
  /-- the deadline has passed: later packets for it are discarded -/
  closed : Bool
  late : Bool
  /-- t + ACC_WAIT × (M − k) on `u` in 2⁻¹⁶ ns (R118) -/
  deadline : Int
deriving DecidableEq, Repr

/-- The fronthaul (R77 to R123). -/
structure FhSt where
  portConfig : Nat := 0
  fec : Nat × Nat := (1, 1)
  iface : Nat × Nat := (0, 0)
  /-- a port-configuration change is retraining the lanes (R78) -/
  retrain : Option CmdHdr := none
  /-- link state per port and lane (R78) -/
  linkUp : List Bool := [false, false, false, false]
  /-- equaliser settings of each lane that FH_EQ set (R79) -/
  ffe : Tbl (List Int) := []
  ctle : Tbl Nat := []
  /-- parameters of ports A and B (R83 to R85, R111) -/
  paramA : PortParam := {}
  paramB : PortParam := {}
  /-- counters of R122, keyed 64 × port + position in the table -/
  counters : Tbl Nat := []
  /-- window bounds in force, in µs, and ACC_WAIT (R107, R118) -/
  csOpen : Nat := 1000
  csClose : Nat := 100
  udOpen : Nat := 500
  udClose : Nat := 100
  accWait : Nat := 6
  /-- sequence state of received and of sent streams (R106, R111) -/
  streams : List Stream := []
  txSeq : List TxSeq := []
  /-- source address last received per port, for chain-facing links (R85); none: broadcast -/
  lastSrc : Tbl (Option Nat) := []
  /-- last EFF packet per port, in stream ticks (R110, R121) -/
  lastRx : Tbl Nat := []
  sections : List Section := []
  nextOrder : Nat := 0
  /-- packets that wait for the Eight (R26, R109) -/
  waits : List PktWait := []
  /-- downlink U-data that waits for its symbol (R99, R109) -/
  dlData : List PrbData := []
  /-- U-data packets that S_j has taken ahead of the stroke of their slot (R59, R140) -/
  taken : List PktWait := []
  /-- weight updates accepted for later slots and the count of the present one (R102) -/
  updates : List WsUpdate := []
  updatesNow : Nat := 0
  /-- partial sums received from the upstream neighbour (R117, R118) -/
  partials : List PartialData := []
  /-- symbols whose partial sums are awaited (R118) -/
  accs : List AccWait := []
  /-- frames that wait to leave, oldest first (R26, R82) -/
  egress : List Egress := []
  /-- the frame that left last on each lane, as it went out (R82, R112) -/
  sent : Tbl (Option Egress) := []
  /-- the module's CHAIN position, and the members' and the upstream neighbour's records (R114) -/
  position : Nat := 1
  records : Tbl (Option ChainRec) := []
deriving DecidableEq, Repr

/-- One of the two loop levels of a seat: remaining passes, first and last offset (R163, R178). -/
structure SeatLoop where
  count : Nat
  first : Nat
  last : Nat
deriving DecidableEq, Repr

/-- What a seat waits for (R166). -/
inductive WaitOn where
  | inQ
  | rin
  | out
  | red
deriving DecidableEq, Repr

/-- An accumulator with its poison mark (R163, R169). -/
structure Acc where
  val : BitVec 40 := 0
  mark : Bool := false
deriving DecidableEq, Repr

/-- A data register, or a word of data memory, with its poison mark (R163, R169). -/
structure DReg where
  val : Word := 0
  mark : Bool := false
deriving DecidableEq, Repr

/-- A push in the network's input stage (R166, R185): the accumulators, their mark, its number in the item, NB and SHIFT. -/
structure RedPush where
  re : BitVec 40
  im : BitVec 40
  mark : Bool
  index : Nat
  nb : Nat
  shf : Nat
deriving DecidableEq, Repr

/-- One seat (R163, R166, R167). -/
structure Seat where
  d : List DReg := List.replicate 8 {}
  a0 : Acc := {}
  a1 : Acc := {}
  p : List (BitVec 12) := List.replicate 4 0
  m : List (BitVec 12) := List.replicate 4 0
  /-- poison marks of P0–P3 and M0–M3 (R169) -/
  pMark : List Bool := List.replicate 4 false
  mMark : List Bool := List.replicate 4 false
  /-- program counter (R163) -/
  pc : BitVec 8 := 0
  /-- the loops under way, innermost first (R163, R178) -/
  loops : List SeatLoop := []
  /-- data memory words by word index 0–1,023, value and poison mark; unlisted words read zero (R152, R187) -/
  mem : Tbl DReg := []
  /-- words at the IN port (R166, R183) -/
  inq : List DReg := []
  /-- words the crew feeder still holds for the item (R183) -/
  feed : List DReg := []
  /-- words at the RIN port (R166, R185) -/
  rin : List DReg := []
  /-- words written to OUT in this item (R166, R183) -/
  out : List DReg := []
  /-- the network's input stage for the seat (R166): the pushed pair, when occupied -/
  red : Option RedPush := none
  /-- a marked value has left through OUT or RED in this item (R169) -/
  leaked : Bool := false
  /-- words pushed to RED and written to OUT in this item (R184) -/
  pushes : Nat := 0
  outs : Nat := 0
  /-- special registers NB, SHF, ITEM, KIND and HCNT (R167) -/
  nb : Nat := 0
  shf : Nat := 0
  item : Nat := 0
  kind : Nat := 0
  hcnt : BitVec 32 := 0
  /-- the item runs on the seat -/
  running : Bool := false
  /-- the instruction that waits at a queue or for a result (R166) -/
  wait : Option (WaitOn × Instr) := none
  /-- P or M register that the last LDP or MVP wrote: (1 for M, index) (R181) -/
  lastSet : Option (Bool × Nat) := none
deriving DecidableEq, Repr

/-- A work item of a crew (R129, R130, R182). -/
structure Item where
  id : Nat
  crew : Nat
  kind : Nat
  half : Nat
  dir : Dir
  tag : TimeTag
  /-- PRB of the item; of a formation or estimation item, the first PRB of its section -/
  index : Nat
  /-- SECTION_ID of a formation item; number of the estimation item of an ESTIMATE item -/
  ref : Nat := 0
  /-- deadline on `u` in 2⁻¹⁶ ns -/
  deadline : Int
  /-- a crew has begun the item (R131) -/
  running : Bool := false
  /-- seats that have not ended the item (R182) -/
  seatsLeft : List Nat := []
  done : Bool := false
deriving DecidableEq, Repr

/-- A symbol under way in the Eight, for R143 and R145. -/
structure SymbolRun where
  dir : Dir
  half : Nat
  tag : TimeTag
  /-- instant on `u` in 2⁻¹⁶ ns of the last finished item, once every beamforming item has finished (R145) -/
  finished : Option Int := none
  /-- the symbol was cut (R143) -/
  cut : Bool := false
  /-- its uplink data has been sent -/
  sent : Bool := false
deriving DecidableEq, Repr

/-- An estimation item (R201). -/
structure EstItem where
  id : Nat
  user : Nat
  half : Nat
  slot : TimeTag
  sectionId : Nat
  pilot : Pilot
  prbStart : Nat
  prbCnt : Nat
  /-- received pilot values per path, in the order of R201 -/
  rx : Tbl (List Cplx)
  /-- pilot symbols still to come (R201) -/
  symsLeft : Nat
  /-- result of the estimator's lookup, with UPDATE_CNT of the way at that moment -/
  lookup : Option (Lookup × Nat)
  /-- uptime count of the stroke of its slot (R196) -/
  heard : Nat
deriving DecidableEq, Repr

/-- Weights formed for a section and a PRB group (R207). -/
structure Formed where
  dir : Dir
  half : Nat
  slot : TimeTag
  sectionId : Nat
  beam : Nat
  prbStart : Nat
  prbCnt : Nat
  weights : List Cplx
deriving DecidableEq, Repr

/-- The weights a beam carried in the most recent slot in which it had a section (R213). -/
structure PrevWeights where
  dir : Dir
  half : Nat
  beam : Nat
  /-- first PRB, PRB count and weights of each PRB group -/
  groups : List (Nat × Nat × List Cplx)
deriving DecidableEq, Repr

/-- What a crew's program memory holds, the same in its 64 seats: KIND, base offset and length of each kernel, the image of the
customer's COMBINE where that is loaded, the 256 program words, and the CRC-32 over them that each seat's is compared with (R163, R187,
R191). The vendor kernels' words are free (log entry 144). -/
structure CrewLoad where
  kinds : List (Nat × Nat × Nat) := []
  customer : Option KernelImage := none
  prog : List Word := []
  crc : Nat := 0
deriving DecidableEq, Repr

/-- The configuration of the slots before the last stroke of a half: management states, mutes, sector beams, RECIP, shifts, crews and
PHASE_COMP (R31, R32), and REG_ZF. -/
structure SlotCfg where
  units : Tbl Nat := []
  mutes : Tbl Bool := []
  sector : Tbl (List Cplx) := []
  recip : Tbl Cplx := []
  shifts : List Nat := [15, 18, 15, 18]
  crews : List (List Nat) := [[], []]
  phaseComp : Nat := 1
  regZf : Nat := 256
deriving DecidableEq, Repr

/-- The Eight (R124 to R193). -/
structure FabSt where
  /-- management state of each unit by the byte position of R507: 0 IN_SERVICE, 1 OUT_OF_SERVICE, 2 FAULTED -/
  units : Tbl Nat := []
  /-- mute bit of each unit, and mutes set by hardware since the last round that Cox has not yet recorded: unit → fault -/
  mutes : Tbl Bool := []
  /-- mutes set by hardware that Cox has not yet recorded: unit and fault (R158) -/
  faults : List (Nat × Nat) := []
  /-- counters by path, then by crew (R143, R161, R168) -/
  dlRepeat : Tbl Nat := []
  ulDrop : Tbl Nat := []
  seatCorr : Tbl Nat := []
  seatProto : Tbl Nat := []
  /-- sector beams: 64 weights each, keyed 128·dir + 64·half + beam; unlisted: broadside (R139) -/
  sector : Tbl (List Cplx) := []
  /-- shifts in force since the last stroke: DL0, UL0, DL1, UL1 (R162) -/
  shifts : List Nat := [15, 18, 15, 18]
  /-- the slot that the last stroke of each half opened, by its number in the cycle of 1,024 frames, and the configuration of the slots
  before it (R31) -/
  slotIn : List Nat := [0, 0]
  /-- the configuration of the slots before it, per half (R31) -/
  before : List SlotCfg := [{}, {}]
  /-- beamforming crews in force since the last stroke, per half (R133) -/
  crews : List (List Nat) := [[], []]
  /-- the seats, by number; an unlisted seat is as CREW_LOAD leaves it (R163, R187) -/
  seats : Tbl Seat := []
  /-- items of work that wait or run (R129, R130) -/
  items : List Item := []
  /-- number of the next item -/
  nextItem : Nat := 0
  /-- symbols under way in the Eight (R143, R145) -/
  symbols : List SymbolRun := []
  /-- banks: uplink input, downlink output, uplink output (R142) -/
  ulIn : List PrbData := []
  dlOut : List PrbData := []
  ulOut : List PrbData := []
  /-- downlink values that the FREQ diversion has copied for the uplink of the same symbol (R272) -/
  loopIn : List PrbData := []
  /-- weights formed for sections (R207) -/
  formed : List Formed := []
  /-- weights that a beam carried last (R213) -/
  prev : List PrevWeights := []
  /-- estimation items under way (R201) -/
  est : List EstItem := []
  /-- kernels that each crew holds (R151, R187) -/
  loads : Tbl CrewLoad := []
  /-- sections whose uplink data of a symbol met MISMATCH: direction, half, slot and symbol, section -/
  mismatch : List (Dir × Nat × TimeTag × Nat) := []
  /-- minimum slack of the round so far per DL0, UL0, DL1, UL1, and whether a cut or a symbol occurred (R145, R148) -/
  slackMin : List (Option Nat) := [none, none, none, none]
  /-- a cut occurred in the round (R148) -/
  cutInRound : Bool := false
  /-- rounds above the upper slack, and rounds at the limit (R148) -/
  above : Nat := 0
  limit : Nat := 0
deriving DecidableEq, Repr

/-- A weight-store write-back that waits for its stroke (R200, R204). -/
structure WriteBack where
  half : Nat
  slot : TimeTag
  sectionId : Nat
  user : Nat
  /-- result of the estimator's lookup and UPDATE_CNT then -/
  lookup : Lookup
  updCnt : Nat
  coef : List Cplx
  quality : Int
  heard : Nat
  wait : Nat
  /-- the mode of the estimate was SPLIT: it covers its half's 32 paths (R206) -/
  split : Bool := false
deriving DecidableEq, Repr

/-- A read of P0: a lookup for weight formation or an estimator's lookup (R323, R325). -/
structure P0Read where
  user : Nat
  half : Nat
  slot : TimeTag
  /-- `some id`: the estimator's lookup of that item -/
  est : Option Nat
  /-- deadline on `u` in 2⁻¹⁶ ns (R325) -/
  deadline : Int
  /-- its place in the order in which requests entered the controller's queues (R325, R331) -/
  entered : Nat := 0
deriving DecidableEq, Repr

/-- An occupied entry of the P0 prefetch buffer: the tag, the way, its coefficients and QUALITY (R199, R325). -/
structure Prefetch where
  user : Nat
  half : Nat
  slot : TimeTag
  result : Lookup
  coef : List Cplx
  quality : Int
deriving DecidableEq, Repr

/-- A WS_EXPORT or WS_IMPORT in progress (R448). -/
structure Transfer where
  hdr : CmdHdr
  isImport : Bool
  /-- next bucket, and buckets still to go -/
  bucket : Nat
  left : Nat
  /-- uptime count of the image's header -/
  uptime : Nat
  first : Nat
  count : Nat
  /-- entries set aside as poisoned or malformed -/
  bad : Nat
deriving DecidableEq, Repr

/-- The weight store beside its entries, which lie in the Cave (R194 to R221). -/
structure WsSt where
  blendK : Nat := 2
  estMinQ : Int := -100
  ageMin : Nat := 4320
  regZf : Nat := 256
  /-- RECIP per path; unlisted (16,384, 0) -/
  recip : Tbl Cplx := []
  /-- counters of R220 by position in the table -/
  counters : Tbl Nat := []
  /-- LIVE and STALE counts (R216, R220) -/
  live : Nat := 0
  stale : Nat := 0
  /-- invalidations due: bucket, way, strokes to wait (R217) -/
  invals : List (Nat × Nat × Nat) := []
  /-- STALE marks due: bucket, way, strokes to wait (R216) -/
  marks : List (Nat × Nat × Nat) := []
  /-- estimates to write back (R200, R204) -/
  writeBacks : List WriteBack := []
  /-- the P0 read queue (R325) -/
  reads : List P0Read := []
  /-- the prefetch buffer (R325) -/
  prefetch : List Prefetch := []
  /-- lookups of the slot that ended in MISS or POISON (R198) -/
  results : List (Nat × Nat × TimeTag × Lookup) := []
  /-- ageing fell due during DORMANT or a shutdown (R73, R474) -/
  ageingDue : Bool := false
  /-- WS_EXPORT or WS_IMPORT in progress, and the stream tick at which its buffer last moved (R448) -/
  transfer : Option Transfer := none
  /-- the stream ticks of the transfer (R448) -/
  transferNow : Nat := 0
deriving DecidableEq, Repr

/-- One idle-gap declaration of a group (R234), and the instant on `u` in 2⁻¹⁶ ns of its declared start. -/
structure IdleGap where
  id : Nat
  start : TimeTag
  anchor : Int
  slots : Nat
  period : Nat
deriving DecidableEq, Repr

/-- A TDD pattern: its period in slots and a code per symbol, 14 per slot (R239). -/
structure Pattern where
  period : Nat := 1
  codes : List Nat := List.replicate 14 0
deriving DecidableEq, Repr

/-- What a TX path made of one symbol: the actuator's input and output at `F`, before any mute, and the DAC codes (R261, R273, R288). -/
structure TxTap where
  half : Nat
  tag : TimeTag
  actIn : List Cplx
  actOut : List Cplx
  dac : List Cplx
deriving DecidableEq, Repr

/-- What an RX path made of one symbol: the ADC samples and the front end's output at `F`, before any mute (R259, R260, R273). -/
structure RxTap where
  half : Nat
  tag : TimeTag
  adc : List Cplx
  fe : List Cplx
deriving DecidableEq, Repr

/-- A queued timed PA-bus transaction (R250). -/
structure PaTimed where
  xfer : PaXfer
  tag : TimeTag
  offsetNs : Int
  /-- its instant had passed when it arrived -/
  late : Bool
deriving DecidableEq, Repr

/-- The RF paths (R222 to R268). -/
structure RfSt where
  /-- groups that hold a synthesizer calibration of this power cycle, and the temperature at it in 0.1 °C (R231) -/
  calTemp : Tbl (Option Int) := []
  /-- groups that were on at the entry to DORMANT or at a shutdown, to be tuned again (R74, R474) -/
  restore : Tbl Bool := []
  /-- CAL was started from OFF by command: returns to OFF (R235) -/
  calFromOff : Tbl Bool := []
  /-- a calibration due at the next stroke (R233) -/
  calDue : Tbl Bool := []
  /-- groups that wait for a stroke to rejoin their pattern (R243) -/
  rejoin : Tbl Bool := []
  /-- tunes and calibrations in progress: operation, its groups, the groups that have ended, the groups that failed -/
  ops : List (LongOp × Nat × Nat × Nat) := []
  /-- TDD pattern of each group and spacing, and those that wait for their stroke (R239) -/
  patterns : Tbl Pattern := []
  pendingPatterns : List (LongOp × Nat × Nat × Pattern) := []
  /-- declared idle gaps per group (R234) -/
  gaps : Tbl (List IdleGap) := []
  /-- attenuation of each RX path (R225) -/
  rxAtt : Tbl Nat := []
  /-- STEP of each TX path; unlisted 159. TRIM; unlisted 0 (R246) -/
  step : Tbl Nat := []
  trim : Tbl Int := []
  /-- effective index of each TX path (R246) -/
  effIdx : Tbl Nat := []
  /-- the last symbols at the balls, newest first: half, tag, the groups that received (R240, R242), and the RX paths that were muted
  when they began (R226) -/
  rxSymbols : List (Nat × TimeTag × List Nat × List Nat) := []
  /-- power table of each group; unlisted: the default table (R245), and BYPASS_BACKOFF -/
  tables : Tbl (Option (List Word)) := []
  backoff : Tbl Nat := []
  /-- counters by path (R259, R260, R261, R266) -/
  adcOvr : Tbl Nat := []
  dfeSat : Tbl Nat := []
  ofdmSat : Tbl Nat := []
  /-- fine gain computed in the last round, in 0.05 dB, and COMP_EN in force (R248) -/
  gainNext : Tbl Int := []
  /-- timed PA-bus transactions, oldest first (R250) -/
  timed : List PaTimed := []
  /-- the transaction that the PA bus shifts out, and those that follow it at once: the rest of a safe sequence, and immediate ones
  that met a busy bus (R249 to R251) -/
  paNow : Option PaXfer := none
  paRest : List PaXfer := []
  /-- PA_BUS_CFG in force (R249): MODE3, SCK_MHZ -/
  paMode3 : Bool := false
  paSck : Nat := 10
  /-- strobe configuration in force since the last stroke (R252) -/
  stbCfg : Tbl Word := []
  /-- SW_SETTLE of each ORX, in µs (R254) -/
  swSettle : Tbl Nat := []
  /-- loopback in force per path (R272) -/
  loopback : Tbl Nat := []
  /-- baseband filter corner in MHz per half (R224) -/
  corner : Nat × Nat := (0, 0)
  /-- stored carrier items per half: NCO in Hz, N_PRB, shifts, FFT_ADV, PHASE_COMP (R505, R268) -/
  nco : Int × Int := (0, 0)
  nPrb : Nat × Nat := (0, 0)
  ofdmDl : Int × Int := (-1, -1)
  ofdmUl : Int × Int := (-1, -1)
  fftAdv : Int × Int := (-1, -1)
  phaseComp : Nat := 1
  /-- the items in force since the last mode entry, resolved -/
  ncoF : Int × Int := (0, 0)
  nPrbF : Nat × Nat := (273, 273)
  ofdmDlF : Nat × Nat := (6, 6)
  ofdmUlF : Nat × Nat := (6, 6)
  fftAdvF : Nat × Nat := (72, 72)
  phaseCompF : Nat := 1
  /-- instant on `u` in 2⁻¹⁶ ns of the effective stroke, at which every NCO restarted (R262) -/
  ncoStart : Int := 0
  /-- the last 64 symbols of each RX path, newest first (R273) -/
  rxTaps : Tbl (List RxTap) := []
deriving DecidableEq, Repr

/-- A staged capture block (R277, R280). -/
structure StagedBlock where
  ring : Nat
  capSeq : Nat
  first : Bool
  last : Bool
  gap : Bool
  sampleIdx : Nat
  tag : TimeTag
  sampleOff : Nat
  uptime : Nat
  samples : List Word
deriving DecidableEq, Repr

/-- What a ring holds beside its registers (R276 to R285). -/
structure Ring where
  /-- samples taken or discarded since the capture began -/
  taken : Nat := 0
  gapNext : Bool := false
  firstNext : Bool := true
  /-- a LEVEL ring waits for a window 3 dB below its threshold (R281) -/
  levelWait : Bool := false
  /-- instant on `u` in 2⁻¹⁶ ns of its capture's first sample at the reference plane, once known; of a TIME trigger's next
  occurrence (R281) -/
  start : Option Int := none
  nextAt : Option Int := none
deriving DecidableEq, Repr

/-- Observation receivers and capture (R269 to R287). -/
structure CapSt where
  rings : Tbl Ring := []
  staging : List StagedBlock := []
  /-- ORX busy under R271: the rings whose captures use it -/
  orxBusy : Tbl (List Nat) := []
  /-- ORX_ATT in dB; unlisted 10, and no command changes it (R269) -/
  orxAtt : Tbl Nat := []
deriving DecidableEq, Repr

/-- What a calibration cluster holds beside its registers' view (R302 to R308). -/
structure Cluster where
  uncal : Bool := false
  due : Bool := false
  cmdPend : Bool := false
  outcome : Nat := 0
  reason : Nat := 0
  refTemp : Option Int := none
  runCnt : Nat := 0
  accCnt : Nat := 0
  defCnt : Nat := 0
  rejCnt : Nat := 0
  lastTag : Nat := 0
  lastUpt : Nat := 0
  codes : List Int := []
  /-- the last run ended DEFERRED (R307) -/
  deferred : Bool := false
  /-- which copy is in force: false A, true B (R314) -/
  copyB : Bool := false
deriving DecidableEq, Repr

/-- The run in progress (R307). -/
structure CalRun where
  cluster : Nat
  captured : Bool := false
  /-- values taken at the capture: frequency, drive index, temperature, in bypass (R299) -/
  freqKhz : Nat := 0
  driveIdx : Nat := 0
  temp : Int := 0
  bypass : Bool := false
  /-- instant on `u` in 2⁻¹⁶ ns of the first sample of its capture (R281, R301), and whether Cox has requested the capture -/
  first : Int := 0
  requested : Bool := false
  /-- the LUT set and the slot in force at the capture (R297, R298) -/
  lut : List Cplx := []
  slot : Nat := 0
  /-- the group left the needed direction within the capture (R304) -/
  windowOff : Bool := false
  /-- sum of the path's saturation counts when the capture began (R304) -/
  sats : Option Nat := none
  /-- settings with which it started (R312): NMSE_MAX, MU, CAL_PMIN, CAL_PMAX, CAL_OCC -/
  nmseMax : Nat := 25
  mu : Nat := 1
  pmin : Nat := 36
  pmax : Nat := 6
  occ : Nat := 25
deriving DecidableEq, Repr

/-- A calibration command in progress: its clusters and those that have ended (R310). -/
structure CalCmd where
  hdr : CmdHdr
  clusters : List Nat
  ended : List (Nat × Nat × Nat)
deriving DecidableEq, Repr

/-- Pre-distortion and calibration (R288 to R318). -/
structure CalSt where
  clusters : Tbl Cluster := []
  /-- DPD banks, keyed 8·path + slot -/
  bank : Tbl DpdRecord := []
  /-- LUT set in force per path; unlisted: bypass (R289) -/
  lutInForce : Tbl (List Cplx) := []
  /-- actuator history x[n − 1 …] per path, newest first (R288) -/
  history : Tbl (List Cplx) := []
  /-- DPD_SAT_CNT per path (R288) -/
  dpdSat : Tbl Nat := []
  /-- per path and kind: an order of the host, HOLD, and POOR_RUN (R298, R307) -/
  forced : Tbl Bool := []
  hold : Tbl Bool := []
  poor : Tbl Bool := []
  /-- the run in progress (R307) -/
  run : Option CalRun := none
  /-- results of accepted runs that wait for the next stroke: path and record (R294); path to clear (R298); codes -/
  banked : List (Nat × DpdRecord) := []
  cleared : List (Nat × Nat) := []
  newCodes : List (Nat × List Int) := []
  /-- calibration commands whose runs are still to end (R310) -/
  cmds : List CalCmd := []
  /-- clusters requested by command, in order of arrival (R307) -/
  requests : List Nat := []
  /-- clusters whose store is queued (R314) -/
  stores : List Nat := []
  /-- DPD_IDX_TOL, KIND_EN and TRAIN_EN in force since the last round, and the paths whose TRAIN_EN has risen since (R298, R312) -/
  idxTol : Nat := 8
  kindEn : Nat := 0x7F
  trainEn : Tbl Nat := []
  trainRise : Tbl Bool := []
  /-- what each TX path sends in the present symbol: the samples after DIG_GAIN, zero on a mute (R226, R261) -/
  txOut : Tbl (List Cplx) := []
  /-- the DAC codes of each TX path in the present symbol, zero on a mute (R226, R261) -/
  dac : Tbl (List Cplx) := []
  /-- the last 64 symbols of each TX path, newest first (R272, R273) -/
  txTaps : Tbl (List TxTap) := []
deriving DecidableEq, Repr

/-- A request of P1 to P3 in a queue (R323). -/
structure CaveReq where
  id : Nat
  port : Nat
  write : Bool
  addr : Nat
  len : Nat
  promoted : Bool := false
  /-- data of a write -/
  data : List (Byte × Bool) := []
deriving DecidableEq, Repr

/-- A weight-store entry write in the P0 write queue (R200, R328). -/
structure EntryWrite where
  bucket : Nat
  way : Nat
  data : List Byte
  /-- its place in the order in which requests entered the controller's queues (R331) -/
  id : Nat := 0
deriving DecidableEq, Repr

/-- A row-disturbance tracker entry (R335). -/
structure RowTrack where
  rank : Nat
  bank : Nat
  slot : Nat
  row : Nat
  count : Nat
deriving DecidableEq, Repr

/-- A targeted-refresh request (R335 to R337). -/
structure Trr where
  rank : Nat
  bank : Nat
  row : Nat
  /-- the neighbours to refresh (R336) -/
  rows : List Nat := []
  /-- its 8 µs are over (R337) -/
  urgent : Bool := false
deriving DecidableEq, Repr

/-- The DRAM controller (R319 to R343). -/
structure CaveSt where
  mapOrder : Nat := 2
  /-- requests of P1 to P3 that wait; their numbers start at 2: 0 stands for the migration copy, 1 for the scrubber -/
  reqs : List CaveReq := []
  nextReq : Nat := 2
  /-- the migration copy and the scrubber are promoted (R330) -/
  promoMig : Bool := false
  promoScrub : Bool := false
  /-- the request number at which the migration copy and the scrubber began to wait for their present word (R330) -/
  migSince : Nat := 0
  scrubSince : Nat := 0
  /-- the P0 write queue (R328) -/
  writes : List EntryWrite := []
  /-- entry writes that did not fit the queue, in order (R328) -/
  waiting : List EntryWrite := []
  draining : Bool := false
  /-- the drain was forced by a full queue (R328) -/
  forced : Bool := false
  /-- bytes moved in the current metering window, P1 to P3 (R324), and in the round, P0 to P3 -/
  metered : Tbl Nat := []
  moved : Tbl Nat := []
  /-- the row last opened in each bank, keyed 16 × rank + bank, as row + 1 -/
  openRows : Tbl Nat := []
  /-- how often in succession a request to a bank's open row has gone before an older one (R329), by the same key -/
  rowSkips : Tbl Nat := []
  /-- refreshes due and not postponed that wait for item 5, by physical rank (R329, R334) -/
  refDue : Tbl Nat := []
  /-- row trackers (R335) -/
  tracks : List RowTrack := []
  /-- the queue of targeted refreshes (R337) -/
  trrs : List Trr := []
  /-- the targeted refresh last issued (R336) -/
  lastTrr : Option Trr := none
  /-- marks of the words that rank 2 holds while a migration runs, and its bytes where the copy wrote them as read from a word that
  decoded as uncorrectable (R366) -/
  migPoison : Tbl Bool := []
  migBytes : Tbl (List Byte) := []
  /-- the copy has passed the last word of the logical rank (R366) -/
  migEnd : Bool := false
  /-- physical ranks that a completed migration has put into self-refresh until power-on (R366) -/
  asleep : List Nat := []
  /-- ±2 neighbours in force since the last refresh window (R342) -/
  dist2 : Bool := false
  /-- panic is asserted (R327) -/
  panic : Bool := false
deriving DecidableEq, Repr

/-- State of a repeat-tracker entry (R361). -/
inductive TrackState where
  | seen
  | rewritten
  | hard
deriving DecidableEq, Repr

/-- An entry of the repeat tracker, newest last (R361). -/
structure RepeatEntry where
  addr : Nat
  rank : Nat
  state : TrackState
deriving DecidableEq, Repr

/-- An entry of the memory error log (R365). -/
structure MemLogEntry where
  addr : Nat
  sram : Bool
  rank : Nat
  /-- 0 UE, 1 UE_ADDR, 2 HARD -/
  cls : Nat
  /-- 0–3 P0–P3, 4 scrubber, 5 read-modify-write, 6 migration copy -/
  reader : Nat
  /-- uptime count of the entry -/
  uptime : Nat
  /-- SUPERSEDED: the write-back of the word was dropped for a newer write (R357) -/
  superseded : Bool
deriving DecidableEq, Repr

/-- A write-back of an uncorrectable word that the scrubber has queued: the word, the physical rank it was read from, its data as read, and
its place among the requests of the Cave (R357). -/
structure UeBack where
  wa : Nat
  rank : Nat
  bytes : List Byte
  id : Nat
deriving DecidableEq, Repr

/-- Memory integrity (R344 to R373), beside its registers. -/
structure MiSt where
  sramPos : Nat := 0
  passUe : Nat := 0
  /-- uptime count at which the Cave pass began (R359) -/
  passStart : Nat := 0
  /-- the repeat tracker (R361) -/
  tracker : List RepeatEntry := []
  /-- the memory error log, oldest first (R365) -/
  log : List MemLogEntry := []
  /-- uptime counts of UE reads of each rank, newest first (R364) -/
  ueTimes : Tbl (List Nat) := []
  /-- write-backs of corrected words that the scrubber has queued: word and physical rank (R357, R361) -/
  rewrites : List (Nat × Nat) := []
  /-- its write-backs of uncorrectable words (R357) -/
  ueBacks : List UeBack := []
  /-- MEM_SPARE operations in progress (R439) -/
  spareCmd : Option CmdHdr := none
  /-- MEM_SPARE_DUE waits for a command: rank (R364) -/
  spareDue : Option Nat := none
deriving DecidableEq, Repr

/-- A DMA channel beside its registers (R374 to R394). -/
structure Chan where
  /-- elements done of the running set -/
  done : Nat := 0
  stopping : Bool := false
  /-- the last element has been accepted: the final handshake follows (R382) -/
  last : Bool := false
  /-- its read request in the Cave's queue, and bytes that a served one has brought and no element has moved yet (R323, R376) -/
  req : Option Nat := none
  got : List (Byte × Bool) := []
deriving DecidableEq, Repr

/-- A PTP master seen in Announce messages (R403). -/
structure Master where
  source : Nat
  dataset : Nat
deriving DecidableEq, Repr

/-- Kinds of PTP message that the device sends (R407, R419). -/
inductive PtpKind where
  | delayReq
  | sync
  | delayResp
deriving DecidableEq, Repr

/-- A PTP message sent: its port and lane, its kind, the seconds and nanoseconds that its timestamp field carries as ns, and its
correctionField in 2⁻¹⁶ ns (R407, R419). -/
structure PtpSend where
  port : Nat
  lane : Nat
  kind : PtpKind
  /-- destination address and PTP domain of the frame (R403, R419) -/
  dst : Nat
  domain : Nat
  stamp : Int
  correction : Int
  /-- requestingPortIdentity of a Delay_Resp: the source of the Delay_Req that it answers (R404, R419) -/
  requester : Nat := 0
deriving DecidableEq, Repr

/-- Time and synchronization (R395 to R424). -/
structure TimeSt where
  /-- stream ticks of the management clock since the power-on reset (R20, R123) -/
  now : Nat := 0
  /-- the time counter in 2⁻¹⁶ ns, and the remainder of its advance (R396) -/
  counter : Nat := 0
  rem : Nat := 0
  /-- frequency word y in ppt (R395) -/
  y : Int := 0
  tlOffset : Nat := 0
  /-- uptime count (R196) -/
  uptime : Nat := 0
  /-- FREQ_SLEW in ppm (R410) -/
  freqSlew : Nat := 50
  /-- the latch of the seconds (R397) -/
  secLatch : Nat := 0
  ppsNs : Nat := 0
  /-- the masters heard, and the selected one (R403, R404) -/
  masters : List Master := []
  selected : Option Nat := none
  /-- last valid measurement, in stream ticks -/
  lastMeas : Option Nat := none
  /-- offset and path delay measured last -/
  offset : Int := 0
  pathDelay : Int := 0
  /-- measurements of the last 8 Syncs, newest first (R407) -/
  recent : List Int := []
  /-- t1, t2 minus corrections of the last Sync, and t3 of the last Delay_Req (R407) -/
  syncDelta : Option Int := none
  delayDelta : Option Int := none
  t3 : Option Int := none
  delayLog : Option Int := none
  /-- counts of measurements within and beyond their bounds (R412) -/
  runIn : Nat := 0
  runOut : Nat := 0
  cand : Nat := 0
  runThresh : Nat := 0
  /-- chain alignment runs (R420) -/
  alignIn : Nat := 0
  alignOut : Nat := 0
  /-- the next measurement is the second of its source, from which `y` is set (R410) -/
  firstMeas : Bool := false
  /-- a step decided but not yet applied: signed amount in 2⁻¹⁶ ns, the STATE it leads to, and the command it answers (R414) -/
  step : Option (Int × Option Nat × Option LongOp) := none
  /-- the command whose step is applied and whose completion waits for the data plane to resume (R413, R414) -/
  stepDone : Option LongOp := none
  /-- a TIME_SET that waits for PPS_IN, and its command (R413) -/
  setAtPps : Option (Nat × LongOp) := none
  /-- last PPS_IN edge, in stream ticks -/
  ppsLast : Option Nat := none
  /-- tick of the last edge of any kind, discarded ones included (R423 PPS_PRESENT) -/
  ppsSeen : Option Nat := none
  ppsOut : Bool := false
  /-- stream tick at which PPS_OUT falls (R417) -/
  ppsFall : Nat := 0
  /-- the always-on rate in ppt against nominal that Cox last measured (R396) -/
  aon : Int := 0
  /-- instants of the Syncs accepted within the last second, in stream ticks (R404) -/
  syncTimes : List Nat := []
  /-- PTP messages that wait in the egress buffers, oldest first -/
  ptpOut : List PtpSend := []
deriving DecidableEq, Repr

/-- Sensors and thermal policy (R460 to R476). -/
structure ThermalSt where
  codes : List Nat := []
  values : List Int := []
  /-- readings of the last 101 rounds per sensor, newest first, since it was last valid (R466) -/
  history : Tbl (List Int) := []
  broken : Nat := 0
  /-- the sensors broken at the start of the last round (R463) -/
  brokenAt : Nat := 0
  /-- consecutive rounds beyond 8.0 °C of the neighbour median (R464) -/
  farRuns : Tbl Nat := []
  /-- settings of R66 and R469 in force -/
  pinLimit : Nat := 780
  riseLimit : Nat := 5
  warnT : Nat := 110
  stepInt : Nat := 20
  /-- settings that take effect at the next round (R469) -/
  next : Option ThermalConfigReq := none
  /-- episodes open, and the rounds since each last held (R466) -/
  warning : Bool := false
  alert : Bool := false
  warnCool : Nat := 0
  alertCool : Nat := 0
  /-- a step-down call that waits (R467) -/
  callDue : Bool := false
  /-- events of a shutdown that wait for STANDBY: code, values (R473) -/
  deferred : List (Nat × List Int) := []
deriving DecidableEq, Repr

/-- One copy of an A/B record in MRAM (R313). -/
structure MramCopy where
  seq : Nat := 0
  cluster : Nat := 0
  format : Nat := 0
  len : Nat := 0
  payload : List Byte := []
  crc : Nat := 0
  commit : Nat := 0
deriving DecidableEq, Repr

/-- A firmware image slot (R449). -/
structure ImageSlot where
  seq : Nat := 0
  len : Nat := 0
  build : Nat := 0
  crc : Nat := 0
  commit : Nat := 0
  data : Tbl Byte := []
deriving DecidableEq, Repr

/-- MRAM (R66, R67, R251, R313, R371, R449). -/
structure MramSt where
  slotA : ImageSlot := {}
  slotB : ImageSlot := {}
  /-- copies keyed 2·CLUSTER + (0 A, 1 B): the clusters of R302, 0xFFFF the health record (R371), 0xFFFD the customer combiner (R191) -/
  copies : Tbl MramCopy := []
  /-- the start-up record, where a valid one stands, with the address-map order (R66) -/
  startup : Option (StartupReq × Nat) := none
  /-- the safe sequence of the PA bus (R251) -/
  safe : List PaXfer := []
  /-- bytes that DMA channels have written, by their offset in MRAM (R378); the other bytes' places are not given -/
  raw : Tbl (Option Byte) := []
  /-- the slot Cox runs from: 0 A, 1 B, 2 none; the slots tried since power-on; a trial in progress (R67, R450) -/
  running : Nat := 2
  /-- slots tried since power-on, and the trial in progress (R67, R450) -/
  failed : List Nat := []
  trial : Option CmdHdr := none
  /-- the command of a trial that failed, which the other image completes (R450) -/
  trialBad : Option CmdHdr := none
  /-- update session: target slot and bytes written; a commit under way (R449) -/
  session : Option Nat := none
  written : Nat := 0
  commitCmd : Option CmdHdr := none
deriving DecidableEq, Repr

/-- The state of the block. -/
structure State where
  part : Part := .vk6464
  /-- register words by address; an unlisted register reads its Reset values (R19) -/
  regs : Tbl Word := []
  /-- power, clocks and reset (R65 to R75, R453 to R461) -/
  pw : PowerSt := {}
  /-- modes (R41 to R63) -/
  md : ModeSt := {}
  /-- Cox and CCP (R425 to R452) -/
  ccp : CcpSt := {}
  /-- the fronthaul (R76 to R124) -/
  fh : FhSt := {}
  /-- the fabric (R125 to R191) -/
  fab : FabSt := {}
  /-- the weight store (R192 to R221) -/
  ws : WsSt := {}
  /-- the RF paths (R222 to R268) -/
  rf : RfSt := {}
  /-- capture (R269 to R287) -/
  cap : CapSt := {}
  /-- DPD and calibration (R288 to R318) -/
  cal : CalSt := {}
  /-- the Cave controller (R319 to R343) -/
  cave : CaveSt := {}
  /-- memory integrity (R344 to R373) -/
  mi : MiSt := {}
  /-- DMA channels beside their registers (R374 to R394) -/
  dma : Tbl Chan := []
  /-- timing (R395 to R424) -/
  tm : TimeSt := {}
  /-- temperature (R462 to R476) -/
  th : ThermalSt := {}
  /-- MRAM (R313 to R317, R449, R450) -/
  mram : MramSt := {}
  /-- Cave bytes by Cave address and SRAM bytes by offset; an unlisted byte reads 0, as the fill leaves it (R70, R352) -/
  caveMem : List Host.Cell := []
  sramMem : List Host.Cell := []
  /-- code words written poisoned, by word address (R349) -/
  cavePoison : Tbl Bool := []
  sramPoison : Tbl Bool := []
  /-- the model's own count of free values drawn (log entry 10) -/
  freeCnt : Nat := 0
  /-- commands that wait, first in first out -/
  pending : List Instr := []
deriving DecidableEq, Repr

/-- The image slot that manufacture leaves (log entry 5): one committed 4-byte image with its CRC. -/
def factorySlot : ImageSlot :=
  { seq := 1, len := 4, build := 0, crc := 0x2144DF1C, commit := 0xC0A70F1E }

/-- The machine right after a power-on reset of the always-on domain, with VIN below the start threshold (R19, R454). -/
def State.reset : State := { mram := { slotA := factorySlot } }

end Sys2Proof.Machine
end

