-- ==== Sys2Proof/Machine/Ops.lean ====
section
/-! DEFINITION. The named operations over the state that every meaning shares: tables, memory bytes, register words and
fields, free values and the little number helpers. -/

namespace Sys2Proof.Machine

/-- What a meaning of this model answers. -/
abbrev Out := Host.Outcome State Fault Refusal

/-! Tables -/

/-- The value at key `k`; `d` where the key is unlisted. -/
def tget {α : Type} (d : α) : Tbl α → Nat → α
  | [], _ => d
  | (j, v) :: t, k => if j = k then v else tget d t k

/-- Sets key `k` to `v`, keeping the keys rising; a value equal to `d`, what the unlisted key reads as, removes the entry. -/
def tset {α : Type} [DecidableEq α] (d : α) : Tbl α → Nat → α → Tbl α
  | [], k, v => if v = d then [] else [(k, v)]
  | (j, w) :: t, k, v =>
    if k < j then (if v = d then (j, w) :: t else (k, v) :: (j, w) :: t)
    else if k = j then (if v = d then t else (k, v) :: t)
    else (j, w) :: tset d t k v

/-- Strictly rising keys, all above `lo`. -/
def risingFrom {α : Type} (lo : Nat) : Tbl α → Bool
  | [] => true
  | (k, _) :: t => decide (lo ≤ k) && risingFrom (k + 1) t

/-- The canonical form of a table: keys rise strictly, and no entry holds what its key reads as when unlisted. -/
def tableWf {α : Type} [DecidableEq α] (d : Nat → α) (t : Tbl α) : Bool :=
  risingFrom 0 t && t.all (fun e => decide (e.2 ≠ d e.1))

/-- Applies `f` to the value at key `k`. -/
def tmod {α : Type} [DecidableEq α] (d : α) (t : Tbl α) (k : Nat) (f : α → α) : Tbl α :=
  tset d t k (f (tget d t k))

/-! Lists as rows of numbered things -/

/-- Element `i` of a list, `d` beyond its end. -/
def nth {α : Type} (d : α) (l : List α) (i : Nat) : α := (l[i]?).getD d

/-- The list with element `i` replaced; unchanged beyond its end. -/
def put {α : Type} (l : List α) (i : Nat) (v : α) : List α := l.set i v

/-- The numbers of the units of a 64-bit unit set (R429). -/
def unitsOf (bits n : Nat) : List Nat := (List.range n).filter (fun i => bits.testBit i)

/-- Puts an element into a sorted list, after its equals. -/
def insertBy {α : Type} (le : α → α → Bool) (x : α) : List α → List α
  | [] => [x]
  | y :: t => if le y x then y :: insertBy le x t else x :: y :: t

/-- A list in order, equals in the order they had. -/
def sortBy {α : Type} (le : α → α → Bool) (l : List α) : List α := l.foldl (fun a x => insertBy le x a) []

/-! Numbers -/

/-- `x` limited to `lo … hi`. -/
def clampI (lo hi x : Int) : Int := if x < lo then lo else if hi < x then hi else x

/-- `n` limited to `w` bits, saturating. -/
def satN (w n : Nat) : Nat := min n (2 ^ w - 1)

/-- The low `w` bits of `n` as a two's complement number. -/
def signed (w n : Nat) : Int :=
  let m := n % 2 ^ w
  if m < 2 ^ (w - 1) then (m : Int) else (m : Int) - 2 ^ w

/-- The `w`-bit two's complement code of `x`. -/
def unsign (w : Nat) (x : Int) : Nat := (x % (2 ^ w : Nat)).toNat

/-- `n / d` rounded up. -/
def ceilDiv (n d : Nat) : Nat := (n + d - 1) / d

/-- `n / d` rounded to nearest, halves away from zero. -/
def roundDiv (n : Int) (d : Nat) : Int :=
  if 0 ≤ n then (2 * n + d) / (2 * d) else -((2 * (-n) + d) / (2 * d))

/-- The bytes of `v` as an `n`-byte number, most significant first (R12, R429). -/
def beBytes (n v : Nat) : List Byte :=
  (List.range n).map (fun i => BitVec.ofNat 8 (v >>> (8 * (n - 1 - i))))

/-- The bytes of `v` as an `n`-byte number, least significant first. -/
def leBytes (n v : Nat) : List Byte := (List.range n).map (fun i => BitVec.ofNat 8 (v >>> (8 * i)))

/-- The number that bytes spell, most significant first. -/
def beNat (l : List Byte) : Nat := l.foldl (fun a b => a * 256 + b.toNat) 0

/-- The number that bytes spell, least significant first. -/
def leNat (l : List Byte) : Nat := l.foldr (fun b a => a * 256 + b.toNat) 0

/-- `n` bytes of a list from offset `o`; missing bytes read 0. -/
def slice (l : List Byte) (o n : Nat) : List Byte := (List.range n).map (fun i => nth 0 l (o + i))

/-- CRC-32 of IEEE 802.3 over bytes: one bit step, one byte, the whole. -/
def crcBit (c : BitVec 32) : BitVec 32 := if c.getLsbD 0 then (c >>> 1) ^^^ 0xEDB88320#32 else c >>> 1

def crcByte (c : BitVec 32) (b : Byte) : BitVec 32 :=
  (List.range 8).foldl (fun a _ => crcBit a) (c ^^^ b.zeroExtend 32)

/-- CRC-32 of IEEE 802.3 (R189, R313, R433, R449). -/
def crc32 (l : List Byte) : Nat := ((l.foldl crcByte 0xFFFFFFFF#32) ^^^ 0xFFFFFFFF#32).toNat

/-! Memory bytes -/

/-- The byte at an address of a memory; an unlisted byte reads 0 (R352). -/
def memGet (m : List Host.Cell) (a : Nat) : Byte := tget 0 m a

/-- Writes one byte. -/
def memPut (m : List Host.Cell) (a : Nat) (b : Byte) : List Host.Cell := tset 0 m a b

/-- Writes consecutive bytes from an address. -/
def memPutAll (m : List Host.Cell) (a : Nat) : List Byte → List Host.Cell
  | [] => m
  | b :: bs => memPutAll (memPut m a b) (a + 1) bs

/-- `n` consecutive bytes from an address. -/
def memSlice (m : List Host.Cell) (a n : Nat) : List Byte := (List.range n).map (fun i => memGet m (a + i))

/-- The canonical form of a memory. -/
def memWf (m : List Host.Cell) : Bool := tableWf (fun _ => (0 : Byte)) m

/-! Registers (R13 to R19) -/

/-- A word with bits `lo + width − 1 … lo` replaced by `v`. -/
def putBits (w : Word) (lo width v : Nat) : Word :=
  BitVec.ofNat 32 (w.toNat - ((w.toNat >>> lo) % 2 ^ width) * 2 ^ lo + (v % 2 ^ width) * 2 ^ lo)

/-- Bits `lo + width − 1 … lo` of a word. -/
def getBits (w : Word) (lo width : Nat) : Nat := (w.toNat >>> lo) % 2 ^ width

/-- The address of register `i` of a field's row. -/
def Fld.addr (f : Fld) (i : Nat) : Nat := f.base + f.stride * i

/-- The register at an address and its place in its row, where one is. -/
def regAt (a : Nat) : Option (RegDef × Nat) :=
  (regsOfBlock (a / 0x100000)).findSome? fun r =>
    if r.stride = 0 then (if a = r.base then some (r, 0) else none)
    else if r.base ≤ a ∧ (a - r.base) % r.stride = 0 ∧ (a - r.base) / r.stride < r.count then
      some (r, (a - r.base) / r.stride)
    else none

/-- The Reset word of the register at an address (R19): its fields' Reset values, 0 elsewhere. -/
def regReset (a : Nat) : Word :=
  match regAt a with
  | none => 0
  | some (r, _) => r.flds.foldl (fun w f => putBits w f.lo f.width f.reset) 0

/-- The stored word of the register at an address. -/
def rget (s : State) (a : Nat) : Word := tget (regReset a) s.regs a

/-- Stores a register word. -/
def rput (s : State) (a : Nat) (w : Word) : State := { s with regs := tset (regReset a) s.regs a w }

/-- The value of a field of register `i` of its row. -/
def fget (s : State) (f : Fld) (i : Nat := 0) : Nat := getBits (rget s (f.addr i)) f.lo f.width

/-- The value of a field as a signed number. -/
def fgetI (s : State) (f : Fld) (i : Nat := 0) : Int := signed f.width (fget s f i)

/-- Stores a field's value. -/
def fset (s : State) (f : Fld) (i v : Nat) : State :=
  rput s (f.addr i) (putBits (rget s (f.addr i)) f.lo f.width v)

/-- Stores a signed value, saturating at the field's ends. -/
def fsetI (s : State) (f : Fld) (i : Nat) (v : Int) : State :=
  fset s f i (unsign f.width (clampI (-(2 ^ (f.width - 1) : Int)) (2 ^ (f.width - 1) - 1) v))

/-- Adds to a counter field, saturating (R17). -/
def finc (s : State) (f : Fld) (i : Nat := 0) (n : Nat := 1) : State :=
  fset s f i (satN f.width (fget s f i + n))

/-- Puts a register field back to its Reset value. -/
def fclear (s : State) (f : Fld) (i : Nat := 0) : State := fset s f i f.reset

/-! Free values -/

/-- Draws the next free number (log entry 10). -/
def drawFree (s : State) : Nat × State :=
  ((Config.free s.freeCnt).toNat, { s with freeCnt := s.freeCnt + 1 })

/-! On-chip buffers (R26, R355) -/

/-- The buffers of R26 whose words can meet poison, as `Config.sramHome` numbers them. -/
def bufUlIn : Nat := 0
def bufUlOut : Nat := 1
def bufEgress : Nat := 2
def bufFormed : Nat := 3
def bufPrefetch : Nat := 4
def bufDpd : Nat := 5

/-- A datum of an on-chip buffer lies in a poisoned word (log entry 145). -/
def bufMarked (s : State) (buf : Nat) (key : List Nat) : Bool :=
  s.sramPoison.any fun e =>
    decide ((Config.sramHome buf key).1 ≤ e.1 ∧ e.1 < (Config.sramHome buf key).1 + (Config.sramHome buf key).2)

/-- The offset in bytes of the first poisoned word of a datum of an on-chip buffer. -/
def bufFirstMarked (s : State) (buf : Nat) (key : List Nat) : Option Nat :=
  let (home, n) := Config.sramHome buf key
  ((List.range n).find? fun i => s.sramPoison.any fun e => decide (e.1 = home + i)).map (8 * ·)

/-- A datum is written to its place in an on-chip buffer: whole words, which end their poison (R353). -/
def bufWrite (buf : Nat) (s : State) (key : List Nat) : State :=
  if s.sramPoison = [] then s
  else
    let inside (k : Nat) : Bool := decide ((Config.sramHome buf key).1 ≤ k ∧ k < (Config.sramHome buf key).1 + (Config.sramHome buf key).2)
    { s with sramPoison := s.sramPoison.filter fun e => !inside e.1 }

/-- A read that delivers `n` marked data (R355). -/
def countPoison (s : State) (n : Nat) : State := if n = 0 then s else finc s F.poisonReadCnt 0 n

/-- Applies `f` to each element in order. -/
def each {α : Type} (l : List α) (s : State) (f : State → α → State) : State := l.foldl f s

/-- `f` where `c` holds, else the state unchanged. -/
def whenS (c : Bool) (s : State) (f : State → State) : State := if c then f s else s

end Sys2Proof.Machine
end

