-- ==== Sys2Proof/Machine/Grid.lean ====
section
/-! DEFINITION. Modes as the data plane sees them, and the stroke grid on the time counter (R398 to R400, R265). -/

namespace Sys2Proof.Machine

/-- MODE_STATE codes (R62). -/
def modeCode : Mode → Nat
  | .boot => 0
  | .dormant => 1
  | .standby => 2
  | .listen => 3
  | .dense => 4
  | .wide => 5
  | .split => 6
  | .chain => 7
  | .service => 8
  | .recovery => 14
  | .shutdown => 15

/-- The mode that a MODE_STATE code names. -/
def modeOf (c : Nat) : Option Mode :=
  match c with
  | 0 => some .boot
  | 1 => some .dormant
  | 2 => some .standby
  | 3 => some .listen
  | 4 => some .dense
  | 5 => some .wide
  | 6 => some .split
  | 7 => some .chain
  | 8 => some .service
  | 14 => some .recovery
  | 15 => some .shutdown
  | _ => none

/-- LISTEN to SERVICE: the modes whose data plane runs (R39). -/
def activeMode (m : Mode) : Bool :=
  match m with
  | .listen | .dense | .wide | .split | .chain | .service => true
  | _ => false

/-- The mode whose resources a configuration uses: the base mode in SERVICE (R47). -/
def effOf (m : Mode) (c : ModeCfg) : Mode := if m = .service then c.base else m

def effMode (s : State) : Mode := effOf s.md.mode s.md.full.cfg

/-- SPLIT, or SERVICE with base mode SPLIT (R40, R47). -/
def isSplit (s : State) : Bool := decide (effMode s = .split)

/-- The part of a per-half pair for a half. -/
def ofHalf {α : Type} (p : α × α) (half : Nat) : α := if half = 0 then p.1 else p.2

/-- A per-half pair with one part replaced. -/
def setHalf {α : Type} (p : α × α) (half : Nat) (v : α) : α × α := if half = 0 then (v, p.2) else (p.1, v)

/-- The half index a mode uses: outside SPLIT everything is half 0. -/
def halfIn (s : State) (half : Nat) : Nat := if isSplit s ∧ half = 1 then 1 else 0

/-- log2(spacing / 15 kHz) (R398). -/
def muOf (scsKhz : Nat) : Nat :=
  if scsKhz = 15 then 0 else if scsKhz = 30 then 1 else if scsKhz = 60 then 2 else 3

/-- Subcarrier spacing of the stroke grid of a half, in kHz: 30 in BOOT, STANDBY and outside the active modes (R399). -/
def gridKhz (s : State) (half : Nat) : Nat :=
  if activeMode s.md.mode then ofHalf s.md.full.cfg.scsKhz (halfIn s half) else 30

def gridMu (s : State) (half : Nat) : Nat := muOf (gridKhz s half)

/-- FFT size: F / spacing (R44). -/
def nFft (s : State) (half : Nat) : Nat :=
  let h := halfIn s half
  ofHalf s.md.full.cfg.rateKsps h / max 1 (ofHalf s.md.full.cfg.scsKhz h)

/-- 2⁻¹⁶ ns in one nanosecond. -/
def fp : Nat := 65536

/-- PTP time of 1980-01-06 00:00:00 UTC in ns (R398). -/
def tGps : Nat := 315964819 * 1000000000

/-- `u` of R398 in 2⁻¹⁶ ns. -/
def uFp (s : State) : Int := (s.tm.counter : Int) - ((tGps + s.tm.tlOffset) * fp : Nat)

/-- Length of a slot in 2⁻¹⁶ ns. -/
def slotFp (mu : Nat) : Nat := 1000000 * fp / 2 ^ mu

/-- Slots in the cycle of 1,024 frames. -/
def slotCycle (mu : Nat) : Nat := 10240 * 2 ^ mu

/-- The slot in which the counter lies, counted from the epoch of `u`. -/
def slotNow (s : State) (half : Nat) : Int := uFp s / (slotFp (gridMu s half) : Int)

/-- The slot whose start lies nearest to the counter: the slot that a stroke opens. -/
def strokeSlot (s : State) (half : Nat) : Int :=
  let l := slotFp (gridMu s half)
  (uFp s + (l / 2 : Nat)) / (l : Int)

/-- The tag of a slot counted from the epoch of `u` (R398). -/
def tagOfSlot (mu : Nat) (n : Int) (symbol : Nat) : TimeTag :=
  let k := (n % (slotCycle mu : Int)).toNat
  { frame := k / (10 * 2 ^ mu), subframe := k / 2 ^ mu % 10, slot := k % 2 ^ mu, symbol := symbol }

/-- The number of a tag's slot within the cycle of 1,024 frames. -/
def slotOfTag (mu : Nat) (t : TimeTag) : Nat := (t.frame * 10 + t.subframe) * 2 ^ mu + t.slot

/-- The instance of a tag's slot whose stroke is nearest to the present (R86), counted from the epoch of `u`: half a cycle off, the one to
come, unless the present is a stroke itself. -/
def slotNear (s : State) (half : Nat) (t : TimeTag) : Int :=
  let mu := gridMu s half
  let c : Int := slotCycle mu
  let n := slotNow s half
  let d := ((slotOfTag mu t : Int) - n) % c
  if 2 * d < c ∨ (2 * d = c ∧ uFp s % (slotFp mu : Int) ≠ 0) then n + d else n + d - c

/-- Start of a slot on the counter, in 2⁻¹⁶ ns of `u`. -/
def slotStart (s : State) (half : Nat) (n : Int) : Int := n * slotFp (gridMu s half)

/-- Whether symbol `l` of slot `n` opens a half-subframe, whose cyclic prefix is longer (R265). -/
def longCp (mu : Nat) (n : Int) (l : Nat) : Bool :=
  if mu = 0 then decide (l % 7 = 0)
  else decide (l = 0 ∧ n % (2 ^ (mu - 1) : Nat) = 0)

/-- Offset of symbol `l` from the start of its slot, in units of 1 / (2,048 × spacing) (R265). -/
def symbolUnits (mu : Nat) (n : Int) (l : Nat) : Nat :=
  (List.range l).foldl (fun a i => a + 2192 + (if longCp mu n i then 16 * 2 ^ mu else 0)) 0

/-- Units of 1 / (2,048 × spacing) in 2⁻¹⁶ ns. -/
def unitsFp (mu k : Nat) : Nat := k * 6400000 / (3 * 2 ^ mu)

/-- Start of a tag's symbol at the balls on `u`, in 2⁻¹⁶ ns. -/
def symbolStartFp (s : State) (half : Nat) (t : TimeTag) : Int :=
  let n := slotNear s half t
  slotStart s half n + (unitsFp (gridMu s half) (symbolUnits (gridMu s half) n t.symbol) : Nat)

/-- The two tags name one slot. -/
def sameSlot (a b : TimeTag) : Bool :=
  decide (a.frame = b.frame ∧ a.subframe = b.subframe ∧ a.slot = b.slot)

/-- A tag's 24 bits (R86). -/
def tagBits (t : TimeTag) : Nat := t.frame * 16384 + t.subframe * 1024 + t.slot * 16 + t.symbol

/-- The tag that 24 bits spell (R86). -/
def tagOfBits (b : Nat) : TimeTag :=
  { frame := b / 16384 % 1024, subframe := b / 1024 % 16, slot := b / 16 % 64, symbol := b % 16 }

/-- A tag whose fields lie in their ranges for a numerology (R86). -/
def tagValid (mu : Nat) (t : TimeTag) : Bool :=
  decide (t.frame < 1024 ∧ t.subframe < 10 ∧ t.slot < 2 ^ mu ∧ t.symbol < 14)

/-- Stream ticks in one second of the management clock as this model keeps it (R20, R123). -/
def tickRate : Nat := 122880000

/-- One in-service direction of the present mode: LISTEN has no downlink (R39). -/
def hasDl (s : State) : Bool := decide (effMode s ≠ .listen)

/-- Beam count of a direction and half, 0 where the mode has none (R39, R44). -/
def beamCount (s : State) (d : Dir) (half : Nat) : Nat :=
  if !activeMode s.md.mode then 0
  else if half = 1 ∧ !isSplit s then 0
  else match d with
    | .dl => if hasDl s then ofHalf s.md.full.cfg.dlBeams half else 0
    | .ul => ofHalf s.md.full.cfg.ulBeams half

/-- The data plane is stopped or muted: no active mode, a change in preparation that stopped it, or a time step
(R59, R414). -/
def planeStopped (s : State) : Bool :=
  !activeMode s.md.mode || (match s.md.prep with | some p => p.stopped | none => false) || s.md.stepStop.isSome

/-- CHAIN is in force, and the module's position in it; a hub is at 0 (R41, R114). -/
def inChain (s : State) : Bool := decide (s.md.mode = .chain)

def isHub (s : State) : Bool := inChain s && decide (s.md.full.cfg.role = 0)

def isMember (s : State) : Bool := inChain s && decide (s.md.full.cfg.role = 1)

/-- Position of the module in its chain; 0 outside CHAIN. -/
def chainPos (s : State) : Nat := if isMember s then s.fh.position else 0

/-- The module is a member of its chain: in CHAIN, or by the configuration with which it was last in CHAIN (R44, R87; log entry 174). -/
def memberRole (s : State) : Bool :=
  if inChain s then isMember s
  else match s.md.stored.find? fun e => decide (e.1 = modeCode .chain) with
    | some e => decide (e.2.cfg.role = 1)
    | none => false

/-- The upstream-facing port: B (1) of a member, A (0) otherwise (R87). -/
def upPort (s : State) : Nat := if isMember s then 1 else 0

/-- The downstream-facing port of a hub or member: B of a hub, A of a member (R87). -/
def downPort (s : State) : Nat := if isMember s then 0 else 1

/-- The last member of the chain, which has nobody downstream (R114, R118). -/
def lastMember (s : State) : Bool := isMember s && decide (s.md.full.cfg.members ≤ s.fh.position)

end Sys2Proof.Machine
end

