-- ==== Sys2Proof/Machine/Events.lean ====
section
/-! DEFINITION. Events, their rate limits and queues, the event log, replies and completion events (R123, R427 to R431,
R435, R439, R451 to R453). -/

namespace Sys2Proof.Machine

/-! Encodings (R428 to R431) -/

/-- A TLV item, padded to a multiple of 4 (R429). -/
def tlvBytes (t : Tlv) : List Byte :=
  beBytes 2 t.type ++ beBytes 2 t.value.length ++ t.value ++ List.replicate ((4 - t.value.length % 4) % 4) 0

/-- Numbers as TLV items of 4 bytes, numbered from TYPE 1 (R429, R453). -/
def numTlvs (l : List Int) : List Tlv :=
  l.mapIdx fun i v => { type := i + 1, value := beBytes 4 (unsign 32 v) }

/-- A TLV whose value is numbers of 4 bytes. -/
def numsTlv (type : Nat) (l : List Int) : Tlv :=
  { type := type, value := l.flatMap fun v => beBytes 4 (unsign 32 v) }

/-- A TLV with one number of 4 bytes. -/
def numTlv (type : Nat) (v : Int) : Tlv := { type := type, value := beBytes 4 (unsign 32 v) }

/-- A packet of the layout of R428. -/
def packetBytes (opcode tag : Nat) (param : List Byte) : List Byte :=
  beBytes 2 opcode ++ beBytes 2 tag ++ beBytes 2 param.length ++ param

/-- A reply's packet (R430). -/
def replyBytes (r : Reply) : List Byte :=
  packetBytes (0x8000 + r.opcode) r.tag
    (beBytes 2 r.status ++ beBytes 2 r.detail ++ r.results.flatMap tlvBytes)

/-- An event's parameters after the prefix of R431. -/
def eventParams (e : Event) : List Byte :=
  match e.completion with
  | some r => beBytes 2 r.opcode ++ [0, 0] ++ beBytes 2 r.status ++ beBytes 2 r.detail ++ r.results.flatMap tlvBytes
  | none => (numTlvs e.vals).flatMap tlvBytes

/-- An event's packet (R431). -/
def eventBytes (e : Event) : List Byte :=
  packetBytes (0x4000 + e.code) e.tag
    (beBytes 6 e.uptime ++ beBytes 2 e.heldBack ++ beBytes 4 e.evtSeq ++ eventParams e)

/-! Raising events -/

/-- Events per second of one kind and unit on one path; `none` without an interval (R453). -/
def eventLimit (code : Nat) : Option Nat :=
  if code = 0x38 ∨ code = 0x58 then some 100
  else if code ∈ [0x10, 0x12, 0x13, 0x20, 0x22, 0x28, 0x29, 0x32, 0x3A, 0x3B, 0x3C, 0x41, 0x42, 0x48, 0x49, 0x51, 0x60]
  then some 1 else none

/-- Events of the fronthaul and of the Eight, which are not raised in SERVICE (R47, R125). -/
def quietInService (code : Nat) : Bool :=
  code ∈ [0x10, 0x11, 0x12, 0x13, 0x14, 0x15, 0x16, 0x17, 0x18, 0x20, 0x21, 0x22, 0x23]

/-- A completion-layout event or a reply, which is never dropped (R431, R451). -/
def CcpOut.isEvent : CcpOut → Bool
  | .event e => e.completion.isNone
  | _ => false

def CcpOut.anyEvent : CcpOut → Bool
  | .event _ => true
  | _ => false

/-- The queue without its oldest event that may be dropped (R451). -/
def dropOldest : List CcpOut → List CcpOut
  | [] => []
  | o :: t => if o.isEvent then t else o :: dropOldest t

/-- Puts an event on a path's queue of 256 events; whether one was lost (R451). -/
def queueEvent (q : List CcpOut) (e : Event) : List CcpOut × Bool :=
  if (q.filter CcpOut.anyEvent).length < 256 then (q ++ [.event e], false)
  else if q.any CcpOut.isEvent then (dropOldest q ++ [.event e], true)
  else (q ++ [.event e], false)

/-- The record of one kind and unit on one path. -/
def trackOf (l : List EvtTrack) (path code unit : Nat) : EvtTrack :=
  (l.find? fun t => decide (t.path = path ∧ t.code = code ∧ t.unit = unit)).getD
    { path := path, code := code, unit := unit }

/-- Replaces that record. -/
def putTrack (l : List EvtTrack) (t : EvtTrack) : List EvtTrack :=
  t :: l.filter fun u => !decide (u.path = t.path ∧ u.code = t.code ∧ u.unit = t.unit)

/-- Delivers an event on one path: 0 in band, 1 MSPI, 2 the log (R431, R451, R452). -/
def deliver (s : State) (path : Nat) (e : Event) : State :=
  if path = 0 then
    let (q, lost) := queueEvent s.ccp.outBand { e with evtSeq := s.ccp.seqBand }
    { s with ccp := { s.ccp with outBand := q, seqBand := (s.ccp.seqBand + 1) % 2 ^ 32,
                                 evtLostCnt := s.ccp.evtLostCnt + (if lost then 1 else 0) } }
  else if path = 1 then
    let (q, lost) := queueEvent s.ccp.outMspi { e with evtSeq := s.ccp.seqMspi }
    { s with ccp := { s.ccp with outMspi := q, seqMspi := (s.ccp.seqMspi + 1) % 2 ^ 32,
                                 evtLostCnt := s.ccp.evtLostCnt + (if lost then 1 else 0) } }
  else
    let entry : LogEntry :=
      { code := e.code, heldBack := e.heldBack, uptime := e.uptime, tag := e.tag, params := (eventParams e).take 52 }
    let l := s.ccp.logNew ++ [entry]
    { s with ccp := { s.ccp with logNew := l.drop (l.length - 1024) } }

/-- Whether a path takes an event code: its mask enables it; the log takes every code (R451, R452). -/
def pathTakes (s : State) (path code : Nat) : Bool :=
  if path = 0 then s.ccp.maskBand.getLsbD code else if path = 1 then s.ccp.maskMspi.getLsbD code else true

/-- An event on one path, sent or held back by its rate limit (R123). -/
def raiseOn (path : Nat) (unit : Nat) (e : Event) (s : State) : State :=
  if !pathTakes s path e.code then s
  else
    let t := trackOf s.ccp.tracks path e.code unit
    let recent := t.sent.filter fun n => decide (s.tm.now < n + tickRate)
    let free := match eventLimit e.code with
      | none => true
      | some n => decide (recent.length < n)
    if free then
      let t' : EvtTrack := { t with held := 0, sent := if (eventLimit e.code).isNone then [] else s.tm.now :: recent }
      deliver { s with ccp := { s.ccp with tracks := putTrack s.ccp.tracks t' } } path { e with heldBack := min t.held 65535 }
    else
      { s with ccp := { s.ccp with tracks := putTrack s.ccp.tracks { t with held := t.held + 1, sent := recent } } }

/-- An event on every path. While a hardware shutdown halts Cox it waits (R473; log entry 178). -/
def sendEvent (s : State) (unit : Nat) (e : Event) : State :=
  if s.pw.power = .shutdown then { s with ccp := { s.ccp with heldEvents := s.ccp.heldEvents ++ [(unit, e)] } }
  else raiseOn 2 unit e (raiseOn 1 unit e (raiseOn 0 unit e s))

/-- The events that waited for the end of a shutdown, in their order. -/
def sendHeld (s : State) : State :=
  s.ccp.heldEvents.foldl (fun s p => sendEvent s p.1 { p.2 with uptime := s.tm.uptime }) { s with ccp := { s.ccp with heldEvents := [] } }

/-- Raises an event of one kind and unit on every path (R451 to R453). -/
def raise (s : State) (code unit : Nat) (vals : List Int) : State :=
  if quietInService code && decide (s.md.mode = .service) then s
  else
    sendEvent s unit { code := code, uptime := s.tm.uptime, vals := vals }

/-- An event that chain-facing ports alone carry: in band and in the log (R453 CHAIN_STATUS). -/
def raiseBand (s : State) (code unit : Nat) (vals : List Int) : State :=
  let e : Event := { code := code, uptime := s.tm.uptime, vals := vals }
  raiseOn 2 unit e (raiseOn 0 unit e s)

/-- Counts an event of an episode under way as held back on each path (R123). -/
def holdBack (s : State) (code unit : Nat) : State :=
  let f (l : List EvtTrack) (p : Nat) : List EvtTrack :=
    let t := trackOf l p code unit
    if pathTakes s p code then putTrack l { t with held := t.held + 1 } else l
  { s with ccp := { s.ccp with tracks := f (f (f s.ccp.tracks 0) 1) 2 } }

/-- An event raised once per episode (R123). -/
def raiseEpisode (s : State) (code unit : Nat) (vals : List Int) : State :=
  if (code, unit) ∈ s.ccp.episodes then holdBack s code unit
  else raise { s with ccp := { s.ccp with episodes := (code, unit) :: s.ccp.episodes } } code unit vals

/-- Ends an episode. -/
def endEpisode (s : State) (code unit : Nat) : State :=
  { s with ccp := { s.ccp with episodes := s.ccp.episodes.filter fun p => !decide (p = (code, unit)) } }

def inEpisode (s : State) (code unit : Nat) : Bool := decide ((code, unit) ∈ s.ccp.episodes)

/-! Replies (R430, R439) -/

/-- Replies that may leave: the filled ones at the head of the order of execution, and what stays. -/
def readyReplies : List ReplySlot → List Reply × List ReplySlot
  | [] => ([], [])
  | r :: t =>
    match r.reply with
    | none => ([], r :: t)
    | some a => let (out, rest) := readyReplies t; (a :: out, rest)

/-- Sends the replies at the head of each path's order that have their answer (R439). -/
def flushReplies (s : State) : State :=
  let (b, rb) := readyReplies s.ccp.replyBand
  let (m, rm) := readyReplies s.ccp.replyMspi
  { s with ccp := { s.ccp with
      replyBand := rb, replyMspi := rm,
      outBand := s.ccp.outBand ++ b.map CcpOut.reply, outMspi := s.ccp.outMspi ++ m.map CcpOut.reply } }

/-- Opens the reply slot of a command in the order of execution on its path. -/
def openSlot (s : State) (h : CmdHdr) (opcode : Nat) : State :=
  let r : ReplySlot := { id := s.ccp.nextSlot, hdr := h, opcode := opcode, reply := none }
  match h.path with
  | .inBand => { s with ccp := { s.ccp with nextSlot := s.ccp.nextSlot + 1, replyBand := s.ccp.replyBand ++ [r] } }
  | .mspi => { s with ccp := { s.ccp with nextSlot := s.ccp.nextSlot + 1, replyMspi := s.ccp.replyMspi ++ [r] } }

def fillIn (l : List ReplySlot) (id : Nat) (r : Reply) : List ReplySlot :=
  l.map fun x => if x.id = id then { x with reply := some r } else x

def fillDone (l : List DoneCmd) (id : Nat) (r : Reply) : List DoneCmd :=
  l.map fun d => if d.slot = id then { d with reply := some r } else d

/-- Gives a slot its reply, stores it for R440, and sends what may leave. -/
def answer (s : State) (id : Nat) (r : Reply) : State :=
  flushReplies { s with ccp := { s.ccp with
    replyBand := fillIn s.ccp.replyBand id r, replyMspi := fillIn s.ccp.replyMspi id r,
    doneBand := fillDone s.ccp.doneBand id r, doneMspi := fillDone s.ccp.doneMspi id r } }

/-- The completion-layout event of a long operation, which then is no longer in progress (R431, R439). -/
def completeAs (s : State) (code : Nat) (op : LongOp) (status detail : Nat) (results : List Tlv) : State :=
  let e : Event := { code := code, tag := op.hdr.tag, uptime := s.tm.uptime,
                     completion := some { opcode := op.opcode, tag := op.hdr.tag, status := status, detail := detail,
                                          results := results } }
  sendEvent { s with ccp := { s.ccp with longOps := s.ccp.longOps.erase op } } 0 e

/-- COMPLETION (0x001) of a long operation. -/
def complete (s : State) (op : LongOp) (status detail : Nat) (results : List Tlv) : State :=
  completeAs s 0x001 op status detail results

/-- NIRQ is asserted while the MSPI output queue holds a packet, and released in DORMANT and a hardware shutdown (R435, R473). -/
def nirq (s : State) : Bool :=
  !s.ccp.outMspi.isEmpty && !decide (s.pw.power = .off ∨ s.pw.power = .dormant ∨ s.pw.power = .shutdown)

/-! Status codes (R441) -/

def stOk : Nat := 0x00
def stAccepted : Nat := 0x01
def stRefused : Nat := 0x02
def stBadOpcode : Nat := 0x10
def stBadLen : Nat := 0x11
def stBadParam : Nat := 0x12
def stBadConfig : Nat := 0x13
def stBadAlign : Nat := 0x14
def stBadAddr : Nat := 0x15
def stBadState : Nat := 0x16
def stBadImage : Nat := 0x17
def stWrongMode : Nat := 0x20
def stBusy : Nat := 0x21
def stDenied : Nat := 0x22
def stCaptureBw : Nat := 0x23
def stStoreFail : Nat := 0x24
def stUnitAbsent : Nat := 0x30
def stUnitFault : Nat := 0x31
def stMemPoison : Nat := 0x32

end Sys2Proof.Machine
end

