-- ==== Sys2Proof/Machine/Ccp.lean ====
section
/-! DEFINITION. How Cox executes one command: duplicates, the Modes column, the owner's answer, replies in order and long
operations (R437 to R442). -/

namespace Sys2Proof.Machine

/-- What an owner's checks answer: a reply now; MEM_POISON with the byte offset (R446); acceptance of a long operation with
what starts once the reply is given; or a reply that waits for its stroke (R31). -/
inductive Ans where
  | done (status detail : Nat) (results : List Tlv) (poison : Bool)
  | accept (post : State → State)
  | wait

/-- OK with results. -/
def okR (results : List Tlv) : Ans := .done stOk 0 results false

def ok : Ans := okR []

/-- A failure status; a command that fails changes nothing (R438). -/
def fail (status : Nat) (detail : Nat := 0) : Ans := .done status detail [] false

/-- Cox runs and takes commands (R30, R69). -/
def coxRuns (s : State) : Bool := s.ccp.ready && !s.ccp.restarting

/-- The interval between the start of Cox and STANDBY, at start-up or in the restart of R474 (R442), and in the wake from DORMANT, where
MODE_STATUS still reads 0x1 (R62, R74): that the wake's interval is as the start-up's is the model's choice (log entry 152). -/
def startInterval (s : State) : Bool := s.ccp.ready && decide (s.md.mode = .boot ∨ s.md.mode = .shutdown ∨ s.md.mode = .dormant)

/-- STANDBY to SERVICE: code A of R442. -/
def modesA (m : Mode) : Bool := decide (m = .standby) || activeMode m

/-- The status of check 3 of R438 for an opcode, `none` where the present mode is allowed (R442). -/
def modeCheck (s : State) (op : Nat) : Option (Nat × Nat) :=
  let m := s.md.mode
  let allowed : Bool :=
    if op ∈ [0x0001, 0x0002, 0x0005, 0x0011] then modesA m || startInterval s
    else if op ∈ [0x00E0, 0x00E1, 0x00E2, 0x00E4] then modesA m || startInterval s || decide (m = .recovery)
    else if op ∈ [0x0030, 0x0072, 0x0073] then decide (m = .standby)
    else if op = 0x00E3 then decide (m = .standby) || decide (m = .recovery)
    else if op = 0x004C then decide (m = .service)
    else if op = 0x0041 then decide (m = .standby) || decide (m = .service)
    else modesA m
  if allowed then none
  else if op = 0x0010 && startInterval s then some (stRefused, 0x01)
  else some (stWrongMode, 0)

/-- The command without what its environment supplies: what R440 compares. -/
def bare : Instr → Instr
  | .startupWrite h q _ => .startupWrite h q 0
  | .kernelInstall h k => .kernelInstall h { k with mismatches := (0, 0) }
  | .unitStateSet h k u hf st _ => .unitStateSet h k u hf st 0
  | .paBus h q => .paBus h { q with miso := [] }
  | .dpdSlotRead h p sl _ => .dpdSlotRead h p sl none
  | .capRead h r b o l _ => .capRead h r b o l []
  | .memLog h c _ => .memLog h c none
  | .logRead h f c _ => .logRead h f c none
  | i => i

/-- The last 16 commands of a path (R440). -/
def doneOf (s : State) : CcpPath → List DoneCmd
  | .inBand => s.ccp.doneBand
  | .mspi => s.ccp.doneMspi

/-- Adds a command to the last 16 of its path. -/
def pushDone (s : State) (path : CcpPath) (d : DoneCmd) : State :=
  match path with
  | .inBand => { s with ccp := { s.ccp with doneBand := (d :: s.ccp.doneBand).take 16 } }
  | .mspi => { s with ccp := { s.ccp with doneMspi := (d :: s.ccp.doneMspi).take 16 } }

/-- Sends a reply in the order of execution on a path (R439). -/
def replyNow (s : State) (h : CmdHdr) (op : Nat) (r : Reply) : State :=
  let id := s.ccp.nextSlot
  answer (openSlot s h op) id r

/-- One command as Cox executes it: a repetition is answered from the store (R440); else the Modes column (check 3) and then
the owner's checks decide (check 6), a long operation beyond the 32nd is BUSY (R439). -/
def ccpRun (h : CmdHdr) (op : Nat) (i : Instr) (body : Nat → State → State × Ans) (s : State) : State :=
  if !coxRuns s then s
  else
    match (doneOf s h.path).find? (fun d => decide (d.tag = h.tag ∧ d.instr = some (bare i))) with
    | some d =>
      let s := { s with ccp := { s.ccp with dupCnt := s.ccp.dupCnt + 1 } }
      match d.reply with
      | some r => replyNow s h op r
      | none => s
    | none =>
      let id := s.ccp.nextSlot
      let s1 := pushDone (openSlot s h op) h.path { tag := h.tag, slot := id, instr := some (bare i), raw := [], reply := none }
      let re (st dt : Nat) (rs : List Tlv) (po : Bool) : Reply :=
        { opcode := op, tag := h.tag, status := st, detail := dt, results := rs, poison := po }
      match modeCheck s1 op with
      | some (st, dt) => answer s1 id (re st dt [] false)
      | none =>
        match body id s1 with
        | (s2, .done st dt rs po) => answer s2 id (re st dt rs po)
        | (s2, .wait) => s2
        | (_, .accept post) =>
          if 32 ≤ s1.ccp.longOps.length then answer s1 id (re stBusy 0 [] false)
          else
            post (answer { s1 with ccp := { s1.ccp with longOps := s1.ccp.longOps ++ [{ hdr := h, opcode := op }] } } id
              (re stAccepted 0 [] false))

/-- A change of data-plane state waits for the first stroke of its grid, and its reply with it (R31, R399, R439). -/
def defer (s : State) (h : CmdHdr) (op slot grid : Nat) (c : Change) : State × Ans :=
  ({ s with ccp := { s.ccp with due := s.ccp.due ++ [{ grid := grid, change := c, slot := slot, hdr := h, opcode := op }] } },
   .wait)

/-- The answer that a due change gives once it is in force. -/
def answerDue (s : State) (d : Due) (status detail : Nat) : State :=
  answer s d.slot { opcode := d.opcode, tag := d.hdr.tag, status := status, detail := detail }

end Sys2Proof.Machine
end

