-- ==== Sys2Proof/Machine/Records.lean ====
section
/-! DEFINITION. A/B records in MRAM: a record's two copies, which of them holds, and how one is stored (R191, R313 to R315, R371). -/

namespace Sys2Proof.Machine

/-- The bytes of a copy that its CRC covers. -/
def copyBytes (m : MramCopy) : List Byte :=
  beBytes 8 m.seq ++ beBytes 2 m.cluster ++ beBytes 2 m.format ++ beBytes 4 m.len ++ m.payload

/-- COMMIT of a valid copy. -/
def copyCommit : Nat := 0xC0A75EA1

/-- A copy is valid (R313). -/
def copyValid (owner len : Nat) (m : MramCopy) : Bool :=
  decide (m.commit = copyCommit ∧ m.cluster = owner ∧ m.len = len) && decide (m.crc = crc32 (copyBytes m))

/-- The valid copy with the higher SEQ, A on a tie, and whether it is B (R315). -/
def bestCopy (s : State) (c len : Nat) : Option (MramCopy × Bool) :=
  let a := tget {} s.mram.copies (2 * c)
  let b := tget {} s.mram.copies (2 * c + 1)
  if copyValid c len a then (if copyValid c len b && decide (a.seq < b.seq) then some (b, true) else some (a, false))
  else if copyValid c len b then some (b, true) else none

/-- Writes one A/B record: the other copy is written and committed, or stays invalid after two mismatches. Whether it went. -/
def storeCopy (s : State) (owner : Nat) (payload : List Byte) (bInForce : Bool) (mismatches : Nat) : State × Bool :=
  let a := tget {} s.mram.copies (2 * owner + (if bInForce then 1 else 0))
  let i := 2 * owner + (if bInForce then 0 else 1)
  let m : MramCopy :=
    { seq := (a.seq + 1) % 2 ^ 64, cluster := owner, format := 1, len := payload.length, payload := payload }
  let m := { m with crc := crc32 (copyBytes m), commit := if 2 ≤ mismatches then 0 else copyCommit }
  ({ s with mram := { s.mram with copies := tset {} s.mram.copies i m } }, decide (mismatches < 2))

/-! Records that no cluster owns (R191, R371) -/

/-- The valid copy of a record, of whatever length, with the higher SEQ, and whether it is B. -/
def recordBest (s : State) (owner : Nat) : Option (MramCopy × Bool) :=
  let a := tget {} s.mram.copies (2 * owner)
  let b := tget {} s.mram.copies (2 * owner + 1)
  if copyValid owner a.len a then (if copyValid owner b.len b && decide (a.seq < b.seq) then some (b, true) else some (a, false))
  else if copyValid owner b.len b then some (b, true) else none

/-- Stores a record in the copy that is not in force, which then is, or stays invalid after two mismatches of its read-back; whether it
went (R314). -/
def storeRecord (s : State) (owner : Nat) (payload : List Byte) (mismatches : Nat) : State × Bool :=
  storeCopy s owner payload (((recordBest s owner).map Prod.snd).getD false) mismatches

/-- Clears both copies of a record. -/
def clearRecord (s : State) (owner : Nat) : State :=
  { s with mram := { s.mram with copies := tset {} (tset {} s.mram.copies (2 * owner) {}) (2 * owner + 1) {} } }

/-- CLUSTER of the memory health record (R371). -/
def healthOwner : Nat := 0xFFFF

/-- The retired physical rank that the health record names; 3 none. Its payload is one byte: the model's choice (R371; log entry
159). -/
def retiredRank (s : State) : Nat :=
  match recordBest s healthOwner with
  | some (m, _) => (nth (0 : Byte) m.payload 0).toNat
  | none => 3

/-- CLUSTER of the customer combiner's record, which the spec does not number: the model's choice (R191; log entry 159). -/
def kernelOwner : Nat := 0xFFFD

/-- The words of payload bytes. -/
def wordsOf (l : List Byte) : List Word := (List.range (l.length / 4)).map fun i => BitVec.ofNat 32 (beNat (slice l (4 * i) 4))

/-- The customer combiner that the valid copy with the higher SEQ holds (R191, R315). -/
def storedKernel (s : State) : Option KernelImage := (recordBest s kernelOwner).map fun m => { words := wordsOf m.1.payload }

/-- A copy of the customer combiner, 0 A or 1 B, is valid. -/
def kernelCopyOk (s : State) (i : Nat) : Bool :=
  let m := tget {} s.mram.copies (2 * kernelOwner + i)
  copyValid kernelOwner m.len m

/-- A customer combiner has been stored, and not removed. -/
def kernelKept (s : State) : Bool := [0, 1].any fun i => decide (tget {} s.mram.copies (2 * kernelOwner + i) ≠ {})

/-- Stores a combiner in one copy and then in the other; a store that fails ends it, and the copy in force stays (R191, R314; log entry
179). -/
def putKernel (s : State) (k : KernelImage) : State × Bool :=
  let b := k.words.flatMap fun w => beBytes 4 w.toNat
  match storeRecord s kernelOwner b k.mismatches.1 with
  | (s, true) => storeRecord s kernelOwner b k.mismatches.2
  | r => r

end Sys2Proof.Machine
end

