-- ==== Sys2Proof/Machine/Rind.lean ====
section
/-! DEFINITION. The Rind code: its field, its two forms, encoder and decoder (R344 to R351). -/

namespace Sys2Proof.Machine

/-- Multiplication by α in GF(2⁸) with x⁸ + x⁴ + x³ + x² + 1 (R345). -/
def gfDouble (a : Byte) : Byte := if a.msb then (a <<< 1) ^^^ 0x1D#8 else a <<< 1

/-- Multiplication by α^n. -/
def gfScale : Nat → Byte → Byte
  | 0, a => a
  | n + 1, a => gfScale n (gfDouble a)

/-- The product over the low `n` bits of the second factor. -/
def gfMulN : Nat → Byte → Byte → Byte
  | 0, _, _ => 0
  | n + 1, a, b => (if b.getLsbD 0 then a else 0) ^^^ gfMulN n (gfDouble a) (b >>> 1)

/-- The product in GF(2⁸). -/
def gfMul (a b : Byte) : Byte := gfMulN 8 a b

/-- A form of the code: its check symbols, its data symbols, and whether its symbols follow the DRAM pins (R344, R346). -/
structure RindForm where
  checks : Nat
  data : Nat
  pins : Bool
deriving DecidableEq, Repr

/-- The 288-bit form of the Cave. -/
def caveForm : RindForm := { checks := 4, data := 32, pins := true }

/-- The 80-bit form of SRAM and seat memories. -/
def sramForm : RindForm := { checks := 2, data := 8, pins := false }

/-- The last stored position (R350). -/
def RindForm.last (f : RindForm) : Nat := f.checks + f.data - 1

/-- The last position. -/
def RindForm.top (f : RindForm) : Nat := f.checks + f.data + 3

/-- A polynomial times (x + r), coefficients from the lowest. -/
def mulRoot (p : List Byte) (r : Byte) : List Byte :=
  List.zipWith (· ^^^ ·) (0 :: p) (p.map (gfMul r) ++ [0])

/-- The generator polynomial: the product of (x + α^i) over the check symbols (R345). -/
def rindGen (f : RindForm) : List Byte := (List.range f.checks).foldl (fun p i => mulRoot p (gfScale i 1)) [1]

/-- One step of division by the generator: the remainder after the next lower coefficient `c`. -/
def rindStep (g : List Byte) (r : List Byte) (c : Byte) : List Byte :=
  let top := r.getLastD 0
  List.zipWith (· ^^^ ·) (c :: r.dropLast) (g.dropLast.map (gfMul top))

/-- The bit-transposed symbols of R346: the symbol of pin `q` holds in bit `b` bit `q mod 8` of byte `4b + q / 8`. -/
def pinSymbols (bytes : List Byte) : List Byte :=
  (List.range 32).map fun q =>
    (List.range 8).foldl (fun a b => if (nth (0 : Byte) bytes (4 * b + q / 8)).getLsbD (q % 8) then a ||| (1#8 <<< b) else a) 0

/-- The bytes that pin symbols spell, the inverse of `pinSymbols`. -/
def pinBytes (syms : List Byte) : List Byte :=
  (List.range 32).map fun j =>
    (List.range 8).foldl
      (fun a t => if (nth (0 : Byte) syms (8 * (j % 4) + t)).getLsbD (j / 4) then a ||| (1#8 <<< t) else a) 0

def dataSymbols (f : RindForm) (bytes : List Byte) : List Byte := if f.pins then pinSymbols bytes else bytes.take 8

def symbolBytes (f : RindForm) (syms : List Byte) : List Byte := if f.pins then pinBytes syms else syms

/-- The four virtual address symbols (R348), A3 with bit 7 set for a poisoned write (R349). -/
def addrSymbols (wa : Nat) (poison : Bool) : List Byte :=
  [BitVec.ofNat 8 wa, BitVec.ofNat 8 (wa / 256), BitVec.ofNat 8 (wa / 65536),
   BitVec.ofNat 8 (wa / 16777216) ^^^ (if poison then 0x80#8 else 0#8)]

/-- The stored symbols of a word: check symbols, then data symbols (R349). -/
def rindEncode (f : RindForm) (bytes : List Byte) (wa : Nat) (poison : Bool) : List Byte :=
  let d := dataSymbols f bytes
  let m := List.replicate f.checks (0 : Byte) ++ d ++ addrSymbols wa poison
  m.reverse.foldl (rindStep (rindGen f)) (List.replicate f.checks 0) ++ d

/-- Syndrome `i`: the sum of s[k] × α^(i k) (R350). -/
def rindSyndrome (i : Nat) (s : List Byte) : Byte := s.foldr (fun c a => c ^^^ gfScale i a) 0

/-- Results of the decoder (R350). -/
inductive Dec where
  | clean
  | corrected
  | poisoned
  | ueAddr
  | ue
deriving DecidableEq, Repr

/-- The decoder of R350 on stored symbols: the result, and the data bytes it delivers (R351). -/
def rindDecode (f : RindForm) (stored : List Byte) (wa : Nat) : Dec × List Byte :=
  let s := stored ++ addrSymbols wa false
  let syn := (List.range f.checks).map fun i => rindSyndrome i s
  let s0 := nth (0 : Byte) syn 0
  let asRead := symbolBytes f (stored.drop f.checks)
  if syn.all (fun x => decide (x = 0)) then (.clean, asRead)
  else if s0 = 0 then (.ue, asRead)
  else
    match (List.range (f.top + 1)).find?
        (fun k => (List.range f.checks).all fun i => decide (nth (0 : Byte) syn i = gfScale (i * k) s0)) with
    | none => (.ue, asRead)
    | some k =>
      if k ≤ f.last then (.corrected, symbolBytes f ((put stored k (nth 0 stored k ^^^ s0)).drop f.checks))
      else if k = f.top ∧ s0 = 0x80#8 then (.poisoned, asRead)
      else (.ueAddr, asRead)

/-- The decode results that deliver the poison mark (R351). -/
def Dec.marked : Dec → Bool
  | .poisoned | .ueAddr | .ue => true
  | _ => false

/-- Stored symbols with flipped bits (the error that a read meets). -/
def applyFlips (stored : List Byte) (flips : List (Nat × Byte)) : List Byte :=
  flips.foldl (fun l p => put l p.1 (nth 0 l p.1 ^^^ p.2)) stored

/-- A read of word `wa` of a memory whose words and poison marks are given: the decode result and the data delivered. A fault without
flips and without an address difference is no fault. -/
def rindReadOf (f : RindForm) (content : Nat → List Byte) (mark : Nat → Bool) (wa : Nat) (flt : WordFault) : Dec × List Byte :=
  if flt.flips = [] ∧ flt.waXor = 0 then (if mark wa then .poisoned else .clean, content wa)
  else
    let w := wa ^^^ flt.waXor
    rindDecode f (applyFlips (rindEncode f (content w) w (mark w)) flt.flips) wa

/-- The same of a memory of bytes with its poisoned words. -/
def rindRead (f : RindForm) (mem : List Host.Cell) (poison : Tbl Bool) (wa : Nat) (flt : WordFault) : Dec × List Byte :=
  rindReadOf f (fun w => memSlice mem (f.data * w) f.data) (tget false poison) wa flt

/-- The fault of a word among those that an access meets. -/
def faultOf (l : List WordFault) (wa : Nat) : WordFault :=
  (l.find? fun f => decide (f.word = wa)).getD { word := wa, flips := [], waXor := 0 }

end Sys2Proof.Machine
end

