-- ==== Sys2Proof/Machine/Memory.lean ====
section
/-! DEFINITION. Reads and writes of Cave and SRAM with what they do to counters, the repeat tracker, the error log, rank
sparing and row-disturbance tracking (R319 to R371). -/

namespace Sys2Proof.Machine

/-! Address map (R322) -/

/-- Readers of the error log (R365). -/
def byScrubber : Nat := 4
def byRmw : Nat := 5
def byCopy : Nat := 6

/-- Logical rank, bank, row and column of a Cave address under an address-map order (R322). -/
def mapAddr (order a : Nat) : Nat × Nat × Nat × Nat :=
  if order = 0 then (a / 2 ^ 31 % 2, a / 2 ^ 11 % 16, a / 2 ^ 15 % 65536, a / 2 ^ 5 % 64)
  else if order = 1 then
    (a / 2 ^ 31 % 2, 4 * ((a / 2 ^ 7 % 4) ^^^ (a / 2 ^ 15 % 4)) + a / 2 ^ 5 % 4, a / 2 ^ 15 % 65536, a / 2 ^ 9 % 64)
  else (a / 2 ^ 5 % 2, a / 2 ^ 12 % 16, a / 2 ^ 16 % 65536, a / 2 ^ 6 % 64)

/-- The physical rank that holds a logical rank (R320). -/
def physRank (s : State) (logical : Nat) : Nat :=
  if logical = 0 then fget s F.caveStatusPhysL0 else fget s F.caveStatusPhysL1

/-- The physical rank of a Cave word. -/
def rankOfWord (s : State) (wa : Nat) : Nat := physRank s (mapAddr s.cave.mapOrder (32 * wa)).1

/-- Puts an entry in the memory error log, which keeps the last 64 (R365). -/
def logMem (s : State) (e : MemLogEntry) : State :=
  let l := s.mi.log ++ [e]
  finc { s with mi := { s.mi with log := l.drop (l.length - 64) } } F.ueLogCnt

/-! Rank sparing (R364, R366) -/

/-- Stores in the health record the retired rank, or none (3), under the scheme of R314; whether it went. No command brings what the
read-back gives: how often it mismatches is a free value (R371; log entry 180). -/
def putRetired (s : State) (d : Nat) : State × Bool :=
  let (f, s) := drawFree s
  match storeRecord s healthOwner [BitVec.ofNat 8 d] (f % 3) with
  | (s, true) => (s, true)
  | (s, false) => (raise (fset s F.calStoreStatusStoreFail 0 1) 0x44 0 [(healthOwner : Int)], false)

/-- Starts the migration of a physical rank (R366 step 1). -/
def startMigration (s : State) (d : Nat) : State :=
  let logical := if fget s F.caveStatusPhysL0 = d then 0 else 1
  let first := if logical = 0 then 0 else if s.cave.mapOrder = 2 then 1 else 2 ^ 26
  let (s, _) := putRetired { s with mi := { s.mi with spareDue := none },
                                    cave := { s.cave with migPoison := [], migBytes := [], migEnd := false } } d
  let s := fset (fset (fset (fset s F.miStatusRetired 0 d) F.caveStatusMigrating 0 1) F.miStatusMigSrc 0 d) F.migPos 0 first
  raise s 0x53 0 [(d : Int)]

/-- A trigger of R364 on a physical rank. -/
def spareTrigger (s : State) (d : Nat) : State :=
  if fget s F.caveStatusMigrating = 1 then s
  else if fget s F.caveStatusSpareUsed = 1 then
    let s := fset s F.miStatusNoSpare 0 1
    if inEpisode s 0x55 d then s else raiseEpisode (fset s F.miEventNoSpare 0 1) 0x55 d [(d : Int)]
  else if fget s F.spareCfgAutoSpare = 0 then
    let s := { s with mi := { s.mi with spareDue := some d } }
    if inEpisode s 0x52 d then s else raiseEpisode s 0x52 d [(d : Int)]
  else startMigration s d

/-- An address-path fault on a rank: MEM_ADDR_FAULT and a trigger (R364). -/
def addrFault (s : State) (d wa : Nat) : State :=
  spareTrigger (raise (fset s F.miEventAddrFault 0 1) 0x51 0 [(d : Int), (32 * wa : Nat)]) d

/-! The repeat tracker (R361, R362) -/

/-- Inserts an entry; a full tracker loses its oldest SEEN, else REWRITTEN, else HARD entry. -/
def trackInsert (l : List RepeatEntry) (e : RepeatEntry) : List RepeatEntry :=
  if l.length < 32 then l ++ [e]
  else
    let dropOne (st : TrackState) : Option (List RepeatEntry) :=
      match l.findIdx? (fun x => decide (x.state = st)) with
      | some i => some (l.eraseIdx i)
      | none => none
    match dropOne .seen with
    | some l' => l' ++ [e]
    | none =>
      match dropOne .rewritten with
      | some l' => l' ++ [e]
      | none => l.drop 1 ++ [e]

/-- A corrected word on a physical rank (R361). What the scrubber corrects is written back whatever the tracker holds (R357). -/
def trackCorrection (s : State) (reader wa d : Nat) : State :=
  let isE := fun e : RepeatEntry => decide (e.addr = 32 * wa ∧ e.rank = d)
  let back (s : State) : State :=
    if s.mi.rewrites.contains (wa, d) then s else { s with mi := { s.mi with rewrites := s.mi.rewrites ++ [(wa, d)] } }
  let s := if reader = byScrubber then back s else s
  let setSt (st : TrackState) : List RepeatEntry := s.mi.tracker.map fun e => if isE e then { e with state := st } else e
  match s.mi.tracker.find? isE with
  | none =>
    let st := if reader = byScrubber then TrackState.rewritten else TrackState.seen
    { s with mi := { s.mi with tracker := trackInsert s.mi.tracker { addr := 32 * wa, rank := d, state := st } } }
  | some e =>
    match e.state with
    | .seen => back { s with mi := { s.mi with tracker := setSt .rewritten } }
    | .rewritten =>
      let s := { s with mi := { s.mi with tracker := setSt .hard } }
      let s := fset (finc s F.hardCntD d) F.miEventHard 0 1
      let s := logMem s { addr := 32 * wa, sram := false, rank := d, cls := 2, reader := reader,
                          uptime := s.tm.uptime, superseded := false }
      let lim := fget s F.spareCfgHardLimit
      if lim ≠ 0 ∧ lim ≤ fget s F.hardCntD d then spareTrigger s d else s
    | .hard => s

/-- Sets SUPERSEDED in the newest entry that the scrubber has logged for a Cave word. -/
def supersede (l : List MemLogEntry) (wa : Nat) : List MemLogEntry :=
  match l.reverse.findIdx? fun e => decide (e.addr = 32 * wa ∧ !e.sram ∧ e.reader = byScrubber) with
  | some i => l.modify (l.length - 1 - i) fun e => { e with superseded := true }
  | none => l

/-- A newer write drops the scrubber's write-backs of a word; that of an uncorrectable word leaves SUPERSEDED in the log (R357, R361). -/
def dropBacks (s : State) (wa : Nat) : State :=
  let log := if s.mi.ueBacks.any fun b => decide (b.wa = wa) then supersede s.mi.log wa else s.mi.log
  { s with mi := { s.mi with log := log, rewrites := s.mi.rewrites.filter (fun r => decide (r.1 ≠ wa)),
                             ueBacks := s.mi.ueBacks.filter fun b => decide (b.wa ≠ wa) } }

/-- A write of a whole word or a read-modify-write removes an entry in state SEEN or REWRITTEN, and supersedes write-backs that
wait (R357, R361). -/
def trackWrite (s : State) (wa : Nat) : State :=
  dropBacks { s with mi := { s.mi with
    tracker := s.mi.tracker.filter fun e => !decide (e.addr = 32 * wa ∧ e.state ≠ .hard) } } wa

/-- What a read of a Cave word by a reader does beside delivering its data (R354, R355, R357, R361, R364). While a migration runs a trigger
starts no further one (R364, R367). -/
def integrity (s : State) (reader wa : Nat) (r : Dec) : State :=
  let d := rankOfWord s wa
  let mark (s : State) : State :=
    if reader = byScrubber ∨ reader = byCopy then s else finc s F.poisonReadCnt
  let entry (cls : Nat) : MemLogEntry :=
    { addr := 32 * wa, sram := false, rank := d, cls := cls, reader := reader, uptime := s.tm.uptime, superseded := false }
  match r with
  | .clean => s
  | .corrected => trackCorrection (finc s F.ceCntD d) reader wa d
  | .poisoned => mark s
  | .ueAddr =>
    addrFault (logMem (mark (finc s F.ueCntD d)) (entry 1)) d wa
  | .ue =>
    let s := logMem (mark (finc s F.ueCntD d)) (entry 0)
    let t := s.tm.now :: (tget [] s.mi.ueTimes d).filter fun n => decide (s.tm.now < n + 122880)
    let s := { s with mi := { s.mi with ueTimes := tset [] s.mi.ueTimes d (t.take 3) } }
    if 4 ≤ t.length then addrFault s d wa else s

/-! Reads -/

/-- An invalidation of a weight-store way by Cox becomes due (R217). -/
def invalidateDue (s : State) (bucket way : Nat) : State :=
  if s.ws.invals.any fun p => decide (p.1 = bucket ∧ p.2.1 = way) then s
  else { s with ws := { s.ws with invals := s.ws.invals ++ [(bucket, way, 1)] } }

/-- The weight-store way of a marked word becomes due for invalidation (R217). -/
def invalidateWord (s : State) (wa : Nat) : State :=
  if 32 * wa < 0x48000000 then invalidateDue s (wa / 72) (wa % 72 / 9) else s

/-- One Cave word as a reader gets it: its bytes, each with the poison mark of the word. A marked word of the weight store makes the
invalidation of its way due, whoever reads it; what the scrubber reads as poisoned asks for nothing, and what it finds uncorrectable
waits for its write-back (R217, R355, R357, R358). -/
def readWord (s : State) (reader wa : Nat) (faults : List WordFault) : (List Byte × Dec) × State :=
  let (r, bytes) := rindRead caveForm s.caveMem s.cavePoison wa (faultOf faults wa)
  let s := integrity s reader wa r
  ((bytes, r), if r.marked && decide (reader ≠ byScrubber) then invalidateWord s wa else s)

/-- Cave words from `wa`: their bytes with their marks. -/
def readWords (s : State) (reader wa : Nat) (faults : List WordFault) : Nat → (List (Byte × Bool)) × State
  | 0 => ([], s)
  | n + 1 =>
    let ((b, r), s) := readWord s reader wa faults
    let (rest, s) := readWords s reader (wa + 1) faults n
    (b.map (fun x => (x, r.marked)) ++ rest, s)

/-- `len` bytes at a Cave address, each with its poison mark. -/
def caveRead (s : State) (reader addr len : Nat) (faults : List WordFault) : (List (Byte × Bool)) × State :=
  let w0 := addr / 32
  let n := if len = 0 then 0 else (addr + len - 1) / 32 - w0 + 1
  let (l, s) := readWords s reader w0 faults n
  ((l.drop (addr % 32)).take len, s)

/-! Writes -/

/-- A word's rank migrates: a write to it goes to rank 2 too (R366). -/
def migrates (s : State) (wa : Nat) : Bool :=
  decide (fget s F.caveStatusMigrating = 1 ∧ fget s F.miStatusMigSrc = rankOfWord s wa)

/-- A write of a whole word reaches the array with its mark, in both ranks while its rank migrates (R353, R366). -/
def putMark (s : State) (wa : Nat) (mark : Bool) : State :=
  let s := { s with cavePoison := tset false s.cavePoison wa mark }
  if migrates s wa then
    { s with cave := { s.cave with migPoison := tset false s.cave.migPoison wa mark, migBytes := tset [] s.cave.migBytes wa [] } }
  else s

/-- Writes bytes at a Cave address, word by word: `n` words from `wa`. A word in part is read and merged: what its read delivers as
marked is written poisoned, and the write removes the word from the tracker (R353, R361, R366; log entry 171). -/
def caveWriteWords (s : State) (addr : Nat) (data : List Byte) (poison : Bool) (faults : List WordFault) (wa : Nat) : Nat → State
  | 0 => s
  | n + 1 =>
    let s :=
      if addr ≤ 32 * wa ∧ 32 * wa + 32 ≤ addr + data.length then
        trackWrite (putMark s wa poison) wa
      else
        let ((b, r), s) := readWord s byRmw wa faults
        let s := putMark s wa (r.marked || poison)
        trackWrite (if r = .clean then s else { s with caveMem := memPutAll s.caveMem (32 * wa) b }) wa
    caveWriteWords s addr data poison faults (wa + 1) n

/-- Writes bytes at a Cave address; the words are marked when `poison` (R353, R355). -/
def caveWrite (s : State) (addr : Nat) (data : List Byte) (poison : Bool) (faults : List WordFault := []) : State :=
  let w0 := addr / 32
  let n := if data.length = 0 then 0 else (addr + data.length - 1) / 32 - w0 + 1
  let s := caveWriteWords s addr data poison faults w0 n
  { s with caveMem := memPutAll s.caveMem addr data }

/-! On-chip SRAM (R344, R354, R363) -/

/-- One SRAM word as a reader gets it. -/
def sramWord (s : State) (reader wa : Nat) (faults : List WordFault) : (List Byte × Dec) × State :=
  let (r, bytes) := rindRead sramForm s.sramMem s.sramPoison wa (faultOf faults wa)
  let entry (cls : Nat) : MemLogEntry :=
    { addr := 8 * wa, sram := true, rank := 0, cls := cls, reader := reader, uptime := s.tm.uptime, superseded := false }
  let mark (s : State) : State := if reader = byScrubber then s else finc s F.poisonReadCnt
  let s := match r with
    | .clean => s
    | .corrected => finc s F.sramCeCnt
    | .poisoned => mark s
    | .ueAddr => logMem (mark (finc s F.sramUeCnt)) (entry 1)
    | .ue => logMem (mark (finc s F.sramUeCnt)) (entry 0)
  ((bytes, r), s)

def sramWords (s : State) (reader wa : Nat) (faults : List WordFault) : Nat → (List (Byte × Bool)) × State
  | 0 => ([], s)
  | n + 1 =>
    let ((b, r), s) := sramWord s reader wa faults
    let (rest, s) := sramWords s reader (wa + 1) faults n
    (b.map (fun x => (x, r.marked)) ++ rest, s)

/-- `len` bytes at an SRAM offset, each with its poison mark. -/
def sramRead (s : State) (reader addr len : Nat) (faults : List WordFault) : (List (Byte × Bool)) × State :=
  let w0 := addr / 8
  let n := if len = 0 then 0 else (addr + len - 1) / 8 - w0 + 1
  let (l, s) := sramWords s reader w0 faults n
  ((l.drop (addr % 8)).take len, s)

/-- Writes bytes at an SRAM offset, word by word: a word in part is read and merged (R353). -/
def sramWriteWords (s : State) (addr : Nat) (data : List Byte) (poison : Bool) (faults : List WordFault) (wa : Nat) : Nat → State
  | 0 => s
  | n + 1 =>
    let s :=
      if addr ≤ 8 * wa ∧ 8 * wa + 8 ≤ addr + data.length then { s with sramPoison := tset false s.sramPoison wa poison }
      else
        let ((b, r), s) := sramWord s byRmw wa faults
        let s := { s with sramPoison := tset false s.sramPoison wa (r.marked || poison) }
        if r = .clean then s else { s with sramMem := memPutAll s.sramMem (8 * wa) b }
    sramWriteWords s addr data poison faults (wa + 1) n

/-- Writes bytes at an SRAM offset; the words are marked when `poison`. -/
def sramWrite (s : State) (addr : Nat) (data : List Byte) (poison : Bool) (faults : List WordFault := []) : State :=
  let w0 := addr / 8
  let n := if data.length = 0 then 0 else (addr + data.length - 1) / 8 - w0 + 1
  let s := sramWriteWords s addr data poison faults w0 n
  { s with sramMem := memPutAll s.sramMem addr data }

/-! Row disturbance (R335 to R337) -/

/-- The rows that a targeted refresh of a row's neighbours activates: ±1, and ±2 where RH_DIST2 is in force, within the bank (R336). -/
def rowNeighbours (s : State) (row : Nat) : List Nat :=
  ([(row : Int) - 1, row + 1] ++ if s.cave.dist2 then [(row : Int) - 2, row + 2] else []).filterMap fun r =>
    if 0 ≤ r ∧ r < 65536 then some r.toNat else none

/-- The key of a bank. -/
def bankKey (rank bank : Nat) : Nat := 16 * rank + bank

/-- Issues a targeted-refresh request: each neighbour is activated and precharged, which closes the bank's row (R336). -/
def issueTrr (s : State) (t : Trr) : State :=
  { s with cave := { s.cave with
      trrs := s.cave.trrs.erase t, lastTrr := some t, openRows := tset 0 s.cave.openRows (bankKey t.rank t.bank) 0 } }

/-- A rank holds its 32 targeted-refresh requests (R337). -/
def trrFull (s : State) (rank : Nat) : Bool := decide (32 ≤ (s.cave.trrs.filter fun t => decide (t.rank = rank)).length)

/-- Requests targeted refresh of a row's neighbours (R336). An access that was under way when the queue filled has waited until its
oldest request was issued (R337). -/
def requestTrr (s : State) (rank bank row : Nat) : State :=
  let s := if trrFull s rank then
      (match s.cave.trrs.find? fun t => decide (t.rank = rank) with
       | some t => issueTrr s t
       | none => s) else s
  let t : Trr := { rank := rank, bank := bank, row := row, rows := rowNeighbours s row }
  fset (finc { s with cave := { s.cave with trrs := s.cave.trrs ++ [t] } } F.rhTrrCnt) F.caveEventRhTrr 0 1

/-- The entry of a bank with the lowest count; the lowest entry number on a tie. -/
def lowestTrack (l : List RowTrack) : Option RowTrack :=
  l.foldl (fun b t => match b with
    | none => some t
    | some m => if t.count < m.count ∨ (t.count = m.count ∧ t.slot < m.slot) then some t else some m) none

/-- The lowest entry number not in use. -/
def freeSlot (l : List RowTrack) : Nat :=
  ((List.range 16).find? fun i => !(l.any fun t => decide (t.slot = i))).getD 0

/-- The tracker entry of a row after an activate, before the threshold is judged (R335). -/
def rowTrackOf (s : State) (rank bank row : Nat) : RowTrack :=
  let mine := s.cave.tracks.filter fun t => decide (t.rank = rank ∧ t.bank = bank)
  match mine.find? fun t => decide (t.row = row) with
  | some t => { t with count := t.count + 1 }
  | none =>
    if mine.length < 16 then { rank := rank, bank := bank, slot := freeSlot mine, row := row, count := 1 }
    else match lowestTrack mine with
      | some t => { t with row := row, count := t.count + 1 }
      | none => { rank := rank, bank := bank, slot := 0, row := row, count := 1 }

/-- An activate of a row (R335). -/
def activate (s : State) (rank bank row : Nat) : State :=
  let e := rowTrackOf s rank bank row
  let hit := decide (fget s F.rhCfgRhThresh ≤ e.count)
  let e' := if hit then { e with count := 0 } else e
  let rest := s.cave.tracks.filter fun t => !decide (t.rank = rank ∧ t.bank = bank ∧ t.slot = e.slot)
  let s := { s with cave := { s.cave with tracks := e' :: rest } }
  if hit then requestTrr s rank bank row else s

/-- An access opens a row of a physical rank. A row that is not the bank's last is activated; whether the bank's last row is
still open is not stated, so a free bit decides (log entry 24). -/
def openRowAt (s : State) (rank bank row : Nat) : State :=
  let key := bankKey rank bank
  let last := tget 0 s.cave.openRows key
  let s' := { s with cave := { s.cave with openRows := tset 0 s.cave.openRows key (row + 1) } }
  if last = row + 1 then
    let (f, s') := drawFree s'
    if f % 2 = 0 then s' else activate s' rank bank row
  else activate s' rank bank row

/-- An access to a Cave word opens its row. -/
def openRow (s : State) (wa : Nat) : State :=
  let (logical, bank, row, _) := mapAddr s.cave.mapOrder (32 * wa)
  openRowAt s (physRank s logical) bank row

/-- Opens the rows of `n` words from `wa`. -/
def openRowsOf (s : State) (wa n : Nat) : State := each (List.range n) s fun s i => openRow s (wa + i)

/-- A write opens its word's row, and the same row of rank 2 while its rank migrates (R366). -/
def openWrite (s : State) (wa : Nat) : State :=
  let (logical, bank, row, _) := mapAddr s.cave.mapOrder (32 * wa)
  let rank := physRank s logical
  let s := openRowAt s rank bank row
  if fget s F.caveStatusMigrating = 1 ∧ fget s F.miStatusMigSrc = rank then openRowAt s 2 bank row else s

/-- Opens the rows that a write of `n` words from `wa` touches. -/
def openWritesOf (s : State) (wa n : Nat) : State := each (List.range n) s fun s i => openWrite s (wa + i)

/-- An access to `n` words from `wa` must wait: it would raise a request that its rank's queue has no space for (R337). -/
def trrHeld (s : State) (wa n : Nat) : Bool :=
  (List.range n).any fun i =>
    let (logical, bank, row, _) := mapAddr s.cave.mapOrder (32 * (wa + i))
    let rank := physRank s logical
    trrFull s rank && decide (tget 0 s.cave.openRows (bankKey rank bank) ≠ row + 1) &&
      decide (fget s F.rhCfgRhThresh ≤ (rowTrackOf s rank bank row).count)

/-- Adds bytes to what a port has moved in the metering window and in the round (R324, R342 PORT_BW). -/
def moveBytes (s : State) (port n : Nat) : State :=
  { s with cave := { s.cave with
      metered := tmod 0 s.cave.metered port (· + n), moved := tmod 0 s.cave.moved port (· + n) } }

end Sys2Proof.Machine
end

