-- ==== Sys2Proof/Machine/Units.lean ====
section
/-! DEFINITION. Units: their management states, their mute bits, hardware faults and the crews in beamforming (R133, R154,
R156 to R161, R507). -/

namespace Sys2Proof.Machine

/-! Numbers of units in the order of R507 -/

def uTx (p : Nat) : Nat := p
def uRx (p : Nat) : Nat := 64 + p
def uBeam (d : Dir) (half beam : Nat) : Nat := (if d = .dl then 128 else 256) + 64 * half + beam
def uLo (g : Nat) : Nat := 384 + g
def uCrew (c : Nat) : Nat := 388 + c

/-- KIND and number of a unit as events carry them (R504). -/
def unitName (u : Nat) : Nat × Nat :=
  if u < 64 then (0, u) else if u < 128 then (1, u - 64) else if u < 256 then (2, u - 128)
  else if u < 384 then (3, u - 256) else if u < 388 then (4, u - 384) else (5, u - 388)

/-- An absent TX path: an odd one on the VK6432-AE (R3, R156). -/
def absentTx (s : State) (p : Nat) : Bool := decide (s.part = .vk6432) && decide (p % 2 = 1)

/-- The management state of a unit: 0 IN_SERVICE, 1 OUT_OF_SERVICE, 2 FAULTED, 3 ABSENT (R156, R507). -/
def unitState (s : State) (u : Nat) : Nat := if u < 64 && absentTx s u then 3 else tget 0 s.fab.units u

def muted (s : State) (u : Nat) : Bool := tget false s.fab.mutes u

/-- The unit works: IN_SERVICE and not muted (R33, R156). -/
def unitWorks (s : State) (u : Nat) : Bool := decide (unitState s u = 0) && !muted s u

def setUnit (s : State) (u st : Nat) : State := { s with fab := { s.fab with units := tset 0 s.fab.units u st } }

def setMute (s : State) (u : Nat) (m : Bool) : State := { s with fab := { s.fab with mutes := tset false s.fab.mutes u m } }

/-- TX paths send zero from the next converter sample on (R28, R226). -/
def quietTx (s : State) (paths : List Nat) : State :=
  let mute (t : Tbl (List Cplx)) : Tbl (List Cplx) := paths.foldl (fun t p => tmod [] t p fun l => l.map fun _ => { re := 0, im := 0 }) t
  { s with cal := { s.cal with txOut := mute s.cal.txOut, dac := mute s.cal.dac } }

/-- The TX paths that a unit's mute silences: its own, or the 16 of an LO group. -/
def quietedBy (u : Nat) : List Nat :=
  if u < 64 then [u] else if 384 ≤ u ∧ u < 388 then (List.range 16).map (16 * (u - 384) + ·) else []

/-- A hardware fault of a unit: its mute bit is set at once, and Cox will record it (R158). -/
def hwFault (s : State) (u fault : Nat) : State :=
  let s := quietTx (fset (setMute s u true) F.fabEventFault 0 1) (quietedBy u)
  if s.fab.faults.any (fun p => decide (p.1 = u)) then s
  else { s with fab := { s.fab with faults := s.fab.faults ++ [(u, fault)] } }

/-- Cox records the muted units as FAULTED and raises UNIT_FAULT for each (R158). -/
def recordFaults (s : State) : State :=
  let s' := each s.fab.faults s fun s p =>
    let (k, n) := unitName p.1
    raise (setUnit s p.1 2) 0x23 p.1 [(k : Int), (n : Int), (p.2 : Int)]
  { s' with fab := { s'.fab with faults := [] } }

/-- A unit that is FAULTED, or muted by a fault that Cox has not yet recorded. -/
def unitFaulted (s : State) (u : Nat) : Bool :=
  decide (unitState s u = 2) || s.fab.faults.any fun p => decide (p.1 = u)

/-- A path works when it and its LO group do. -/
def txWorks (s : State) (p : Nat) : Bool := unitWorks s (uTx p) && unitWorks s (uLo (p / 16))
def rxWorks (s : State) (p : Nat) : Bool := unitWorks s (uRx p) && unitWorks s (uLo (p / 16))

/-- The paths of a half (R40). -/
def halfPaths (s : State) (half : Nat) : List Nat :=
  if isSplit s then (List.range 32).map (· + 32 * half) else List.range 64

/-- A half whose LO groups are all held out of service or muted (R157). -/
def halfOut (s : State) (half : Nat) : Bool :=
  isSplit s && !unitWorks s (uLo (2 * half)) && !unitWorks s (uLo (2 * half + 1))

/-- A beam of a section works: below the configured count, IN_SERVICE and not muted (R156, R157). -/
def beamWorks (s : State) (d : Dir) (half beam : Nat) : Bool :=
  decide (beam < beamCount s d half) && unitWorks s (uBeam d half beam) && !halfOut s half

/-- Crew 31 is reserved: LISTEN and DENSE, and SERVICE on them (R42, R47, R154). -/
def crewReserved (s : State) : Bool := activeMode s.md.mode && (decide (effMode s = .listen) || decide (effMode s = .dense))

/-- The crews in beamforming service for a half, in ascending order (R133). -/
def beamCrews (s : State) (half : Nat) : List Nat :=
  if !activeMode s.md.mode then []
  else (List.range 32).filter fun c =>
    unitWorks s (uCrew c) && !(decide (c = 31) && crewReserved s) &&
      (if isSplit s then decide (c / 16 = half) else decide (half = 0))

/-- Renews the crews in force for a half, as its stroke does; outside SPLIT, both entries (R133, R159). -/
def renewCrews (half : Nat) (s : State) : State :=
  let l := if isSplit s then put s.fab.crews half (beamCrews s half) else [beamCrews s 0, []]
  fset { s with fab := { s.fab with crews := l } } F.fabStatusCrewsBf 0 ((l.map List.length).foldl (· + ·) 0)

/-- The crew that handles a PRB (R133): the one its number picks among the crews in force. -/
def crewOfPrb (s : State) (half prb : Nat) : Option Nat :=
  let l := nth [] s.fab.crews half
  if l = [] then none else l[prb % l.length]?

/-! One configuration per slot (R31, R32) -/

/-- The configuration in force. -/
def slotCfg (s : State) : SlotCfg :=
  { units := s.fab.units, mutes := s.fab.mutes, sector := s.fab.sector, recip := s.ws.recip, shifts := s.fab.shifts,
    crews := s.fab.crews, phaseComp := s.rf.phaseCompF, regZf := s.ws.regZf }

/-- A unit's management state and mute under an earlier or later configuration: a fault of the hardware acts at once (R158). -/
def overlay (s : State) (c : SlotCfg) : Tbl Nat × Tbl Bool :=
  let keep (u : Nat) : Bool := decide (tget 0 s.fab.units u = 2) || s.fab.faults.any fun p => decide (p.1 = u)
  (((s.fab.units ++ c.units).map Prod.fst).eraseDups).foldl (fun acc u =>
    if keep u || decide (tget 0 s.fab.units u = tget 0 c.units u) then acc
    else (tset 0 acc.1 u (tget 0 c.units u), tset false acc.2 u (tget false c.mutes u))) (s.fab.units, s.fab.mutes)

/-- The state as a slot under another configuration sees it. Only what it reads of a configuration differs. -/
def withCfg (s : State) (c : SlotCfg) : State :=
  let (u, m) := overlay s c
  { s with
    fab := { s.fab with units := u, mutes := m, sector := c.sector, shifts := c.shifts, crews := c.crews },
    ws := { s.ws with recip := c.recip, regZf := c.regZf }, rf := { s.rf with phaseCompF := c.phaseComp } }

/-- Slots from the one that the last stroke of a half opened to a tag's: negative before it, positive after it. -/
def slotsAhead (s : State) (half : Nat) (t : TimeTag) : Int :=
  let c : Int := slotCycle (gridMu s half)
  let d := ((slotOfTag (gridMu s half) t : Int) - (nth 0 s.fab.slotIn half : Nat)) % c
  if 2 * d < c then d else d - c

/-- A stroke of a half opens a slot: the configuration so far is kept for the slots before it. -/
def openSlotCfg (half : Nat) (slot : Nat) (s : State) : State :=
  { s with fab := { s.fab with slotIn := put s.fab.slotIn half slot, before := put s.fab.before half (slotCfg s) } }

/-- A section that met a unit out of service: MISMATCH_CNT, its event bit and UNIT_MISMATCH (R157). -/
def unitMismatch (s : State) (u : Nat) : State :=
  let (k, n) := unitName u
  raise (fset (finc s F.mismatchCnt) F.fabEventMismatch 0 1) 0x22 0 [(k : Int), (n : Int)]

end Sys2Proof.Machine
end

