-- ==== Sys2Proof/Machine/Symbols.lean ====
section
/-! DEFINITION. Start and cut instants of symbols, the mode's latencies and the numbers of the carrier (R107, R140, R141). All
instants are on `u` of R398 in 2⁻¹⁶ ns. -/

namespace Sys2Proof.Machine

/-- T_s: one fourteenth of a slot (R140). -/
def tSym (s : State) (half : Nat) : Nat := slotFp (gridMu s half) / 14

/-- t_FFT = N_FFT / 491.52 MHz. -/
def tFft (n : Nat) : Nat := n * 400000 / 3

/-- Start at the balls of symbol `l` of slot `n`. -/
def ballStart (s : State) (half : Nat) (n : Int) (l : Nat) : Int :=
  let mu := gridMu s half
  slotStart s half n + (unitsFp mu (symbolUnits mu n l) : Nat)

/-- End at the balls of symbol `l` of slot `n`. -/
def ballEnd (s : State) (half : Nat) (n : Int) (l : Nat) : Int :=
  let mu := gridMu s half
  slotStart s half n + (unitsFp mu (symbolUnits mu n (l + 1)) : Nat)

/-- The first symbol start of a half at or after an instant of `u`. -/
def symbolFrom (s : State) (half : Nat) (at' : Int) : Int :=
  let n := at' / (slotFp (gridMu s half) : Int)
  match (List.range 14).find? fun l => decide (at' ≤ ballStart s half n l) with
  | some l => ballStart s half n l
  | none => ballStart s half (n + 1) 0

/-- S_j (R140). -/
def startInstant (s : State) (d : Dir) (half : Nat) (n : Int) (l : Nat) : Int :=
  let f : Int := tFft (nFft s half)
  match d with
  | .dl => ballStart s half n l - ((tSym s half : Int) + f + 1000 * fp)
  | .ul => ballEnd s half n l + 600 * fp + f

/-- H_j = S_j + T_s (R140). -/
def cutInstant (s : State) (d : Dir) (half : Nat) (n : Int) (l : Nat) : Int :=
  startInstant s d half n l + tSym s half

/-- A PLL was out of lock during a span of `u` (R28). -/
def outOfLock (s : State) (a b : Int) : Bool :=
  (match s.pw.pllFrom with | some t => decide (t < b) | none => false) ||
    (match s.pw.pllSpan with | some (t, r) => decide (t < b ∧ a < r) | none => false)

/-- The symbol before symbol `l` of slot `n`. -/
def symbolBefore (n : Int) (l : Nat) : Int × Nat := if l = 0 then (n - 1, 13) else (n, l - 1)

/-- L_DL of R141 in 0.1 µs, rounded up, of a spacing and FFT size: 0.5 + T_s + t_FFT + 1.0 µs. -/
def latencyDl (scsKhz nfft : Nat) : Nat :=
  -- T_s = 1 ms / (14 × scs / 15); t_FFT = nfft / 491.52 MHz, over the common denominator 14 × scs × 49,152
  15 + ceilDiv (150000 * 49152 + nfft * 1000 * 14 * scsKhz) (14 * scsKhz * 49152)

/-- PRBs of the configured carrier (R96, R264): N_PRB in force. -/
def carrierPrbs (s : State) (half : Nat) : Nat := ofHalf s.rf.nPrbF (halfIn s half)

/-- Uplink mantissa width in force; 0 uncompressed. -/
def mantW (s : State) (half : Nat) : Nat := ofHalf s.md.full.cfg.mantW (halfIn s half)

end Sys2Proof.Machine
end

