-- ==== Sys2Proof/Machine/CaveQueues.lean ====
section
/-! DEFINITION. The queues of the Cave controller: entry writes and reads of P0, requests of P1 to P3, which access waits for which,
metering and panic (R36, R323 to R328, R331). -/

namespace Sys2Proof.Machine

/-- The owed count of a physical rank, as a field of REF_STATUS (R334). -/
def owedFld (rank : Nat) : Fld := if rank = 0 then F.refStatusOwedD0 else if rank = 1 then F.refStatusOwedD1 else F.refStatusOwedD2

/-- The bucket of a tag (R197). -/
def bucketOf (tag : Nat) : Nat := tag * 0x9E3779B1 % 2 ^ 32 / 2 ^ 13

/-- The Cave address of a way (R197, R321). -/
def wayAddr (bucket way : Nat) : Nat := bucket * 2304 + way * 288

/-- Two ranges of bytes share a code word. -/
def shareWord (a n b m : Nat) : Bool := decide (a / 32 < (b + m + 31) / 32 ∧ b / 32 < (a + n + 31) / 32)

/-! Requests of P1 to P3 (R323) -/

/-- Requests of a port and direction, oldest first: the first 64 stand in the queue, the others wait at their source (R323). -/
def portReqs (s : State) (port : Nat) (write : Bool) : List CaveReq :=
  s.cave.reqs.filter fun q => decide (q.port = port ∧ q.write = write)

/-- A request stands in its queue of 64. -/
def inQueue (s : State) (r : CaveReq) : Bool := ((portReqs s r.port r.write).take 64).any fun q => decide (q.id = r.id)

/-- The write requests of at most 4,096 bytes that bytes at an address make, numbered from `id` (R323). -/
def splitWrite (port : Nat) : Nat → Nat → Nat → List (Byte × Bool) → List CaveReq
  | 0, _, _, _ => []
  | n + 1, id, a, l =>
    { id := id, port := port, write := true, addr := a, len := (l.take 4096).length, data := l.take 4096 } ::
      splitWrite port n (id + 1) (a + 4096) (l.drop 4096)

/-- Bytes with their poison marks enter a port's write queue (R323). -/
def queueWrite (s : State) (port a : Nat) (l : List (Byte × Bool)) : State :=
  let n := ceilDiv l.length 4096
  { s with cave := { s.cave with nextReq := s.cave.nextReq + n,
                                 reqs := s.cave.reqs ++ splitWrite port n s.cave.nextReq a l } }

/-- Code words that `len` bytes at an address touch. -/
def codeWords (a len : Nat) : Nat := if len = 0 then 0 else (a + len - 1) / 32 - a / 32 + 1

/-- Bytes that a read brings go to the DMA channel whose request it was (R376). -/
def deliverRead (s : State) (id : Nat) (l : List (Byte × Bool)) : State :=
  { s with dma := s.dma.map fun (c, x) => (c, if x.req = some id then { x with req := none, got := l } else x) }

/-- Performs one request. -/
def serve (s : State) (r : CaveReq) (faults : List WordFault) : State :=
  let s := { s with cave := { s.cave with reqs := s.cave.reqs.filter fun q => decide (q.id ≠ r.id) } }
  let s := moveBytes s r.port (32 * codeWords r.addr r.len)
  if r.write then
    caveWrite (openWritesOf s (r.addr / 32) (codeWords r.addr r.len)) r.addr (r.data.map fun x => x.1) (r.data.any fun x => x.2)
      faults
  else
    let (l, s) := caveRead (openRowsOf s (r.addr / 32) (codeWords r.addr r.len)) r.port r.addr r.len faults
    deliverRead s r.id l

/-- A read request enters a port's queue (R323). -/
def queuePortRead (s : State) (port a len : Nat) : State :=
  { s with cave := { s.cave with
      nextReq := s.cave.nextReq + 1,
      reqs := s.cave.reqs ++ [{ id := s.cave.nextReq, port := port, write := false, addr := a, len := len, data := [] }] } }

/-- A port's write queue has places for the requests that `len` bytes make; else they wait at their source (R323). -/
def roomFor (s : State) (port len : Nat) : Bool := decide ((portReqs s port true).length + ceilDiv len 4096 ≤ 64)

/-- The write requests of a port older than `before`, up to the last that shares a code word with `len` bytes at `a` (R331). -/
def writesBefore (s : State) (port a len before : Nat) : List CaveReq :=
  let mine := (portReqs s port true).filter fun q => decide (q.id < before)
  (mine.reverse.dropWhile fun q => !shareWord q.addr q.len a len).reverse

/-- The requests of P1 to P3 that an access waits for (R331). -/
def portWritesBefore (s : State) (a len before : Nat) : List CaveReq :=
  [1, 2, 3].flatMap fun p => writesBefore s p a len before

/-! The P0 write queue (R200, R328, R331) -/

/-- WQ_LEVEL. -/
def wqLevel (s : State) : Nat := s.cave.writes.length

/-- Entry writes in order, those that wait in the Cox data region last (R328). -/
def entryWrites (s : State) : List EntryWrite := s.cave.writes ++ s.cave.waiting

/-- Waiting changes enter the queue as space frees (R328). -/
def refillWq (s : State) : State :=
  let room := 64 - s.cave.writes.length
  { s with cave := { s.cave with writes := s.cave.writes ++ s.cave.waiting.take room, waiting := s.cave.waiting.drop room } }

/-- The drain state after the level changed: a full queue is drained even under panic (R328). -/
def judgeDrain (s : State) : State :=
  let n := wqLevel s
  if n ≤ fget s F.p0CfgWqLo then { s with cave := { s.cave with draining := false, forced := false } }
  else if 64 ≤ n then
    let s' := if s.cave.forced then s else finc s F.p0ForcedDrainCnt
    { s' with cave := { s'.cave with draining := true, forced := true } }
  else if fget s F.p0CfgWqHi ≤ n then { s with cave := { s.cave with draining := true } }
  else s

/-- Queues the 288 bytes of an entry (R328). -/
def queueEntryBytes (s : State) (bucket way : Nat) (data : List Byte) : State :=
  let w : EntryWrite := { bucket := bucket, way := way, data := data, id := s.cave.nextReq }
  let s := { s with cave := { s.cave with nextReq := s.cave.nextReq + 1 } }
  let full := decide (64 ≤ s.cave.writes.length) || !s.cave.waiting.isEmpty
  if full then { s with cave := { s.cave with waiting := s.cave.waiting ++ [w] } }
  else judgeDrain { s with cave := { s.cave with writes := s.cave.writes ++ [w] } }

/-- Writes one entry to the DRAM, nine whole code words, after the older writes of other ports to them (R331). -/
def writeEntry (s : State) (w : EntryWrite) : State :=
  let a := wayAddr w.bucket w.way
  let s := each (portWritesBefore s a 288 w.id) s fun s q => serve s q []
  moveBytes (caveWrite (openWritesOf s (a / 32) 9) a w.data false) 0 288

/-- Drains the oldest `n` entry writes. -/
def drainWrites : Nat → State → State
  | 0, s => s
  | n + 1, s =>
    match s.cave.writes with
    | [] => s
    | w :: t => drainWrites n (refillWq (writeEntry { s with cave := { s.cave with writes := t } } w))

/-- Drains every entry write, the waiting ones too (R338, R339). -/
def drainAll (s : State) : State :=
  let s := drainWrites (entryWrites s).length s
  { s with cave := { s.cave with draining := false, forced := false } }

/-- How many entry writes stand in the queue up to the last older than `before` that shares a code word with `len` bytes at `a`
(R331). -/
def entriesBefore (s : State) (a len before : Nat) : Nat :=
  let l := (entryWrites s).filter fun w => decide (w.id < before)
  l.length - (l.reverse.takeWhile fun w => !shareWord (wayAddr w.bucket w.way) 288 a len).length

/-- An access to the Cave waits until the queued writes that share a code word with it, in any port's queue, have been written; a
read that waits is counted. A request waits for older ones only (R331). -/
def awaitWrites (s : State) (a len : Nat) (before : Nat := s.cave.nextReq) (read : Bool := true) : State :=
  let n := entriesBefore s a len before
  let ws := portWritesBefore s a len before
  if n = 0 ∧ ws = [] then s
  else
    let s := if read then finc s F.rawWaitCnt else s
    let s := if n = 0 then s else judgeDrain (drainWrites n s)
    each (portWritesBefore s a len before) s fun s q => serve s q []

/-- `len` bytes at `a` as the writes of P1 to P3 that still stand in their queues leave them. -/
def memLater (s : State) (a len : Nat) : List Byte :=
  memSlice ((s.cave.reqs.filter fun q => q.write && shareWord q.addr q.len a len).foldl
    (fun m q => memPutAll m q.addr (q.data.map fun x => x.1)) s.caveMem) a len

/-- A queued write of P1 to P3 covers a code word: the mark that it leaves, else the word's present mark (R353). -/
def markLater (s : State) (wa : Nat) : Bool :=
  match (s.cave.reqs.reverse.find? fun q => q.write && decide (q.addr ≤ 32 * wa ∧ 32 * wa + 32 ≤ q.addr + q.len)) with
  | some q => q.data.any fun x => x.2
  | none => tget false s.cavePoison wa

/-! P0 reads (R325, R327, R331) -/

/-- The P0 read queue: what does not fit its 1,024 places waits at its source (R323). -/
def readQueue (s : State) : List P0Read := s.ws.reads.take 1024

/-- A P0 read enters its queue. -/
def queueRead (s : State) (r : P0Read) : State :=
  { s with cave := { s.cave with nextReq := s.cave.nextReq + 1 },
           ws := { s.ws with reads := s.ws.reads ++ [{ r with entered := s.cave.nextReq }] } }

/-- A write may not pass an older P0 read of one of its code words (R331). -/
def heldByRead (s : State) (id a len : Nat) : Bool :=
  (readQueue s).any fun r => decide (r.entered < id) && shareWord (wayAddr (bucketOf r.user) 0) 2304 a len

/-- An entry write is held by an older P0 read. -/
def entryHeld (s : State) (w : EntryWrite) : Bool := heldByRead s w.id (wayAddr w.bucket w.way) 288

/-- An access that waits for queued writes meets one that an older P0 read holds (R331). -/
def drainHeld (s : State) (a len : Nat) (before : Nat := s.cave.nextReq) : Bool :=
  ((entryWrites s).take (entriesBefore s a len before)).any (entryHeld s) ||
    (portWritesBefore s a len before).any fun q => heldByRead s q.id q.addr q.len

/-- The P0 read of the earliest deadline, the first to enter on a tie (R325). -/
def nextRead (s : State) : Option P0Read :=
  (readQueue s).foldl (fun b r => match b with
    | none => some r
    | some m => if r.deadline < m.deadline then some r else some m) none

/-- The older P0 reads that hold an entry write for which a read waits (R331). -/
def blockers (s : State) (r : P0Read) : List P0Read :=
  let ahead := (entryWrites s).take (entriesBefore s (wayAddr (bucketOf r.user) 0) 2304 r.entered)
  (readQueue s).filter fun q => ahead.any fun w => decide (q.entered < w.id ∧ bucketOf q.user = w.bucket)

/-- The P0 read served next: the earliest deadline, after the oldest read that holds a write for which it waits (R325, R331; log entry
161). -/
def servedRead (s : State) : Option P0Read :=
  match nextRead s with
  | none => none
  | some r =>
    match (blockers s r).foldl (fun b q => match b with
        | none => some q
        | some m => if q.entered < m.entered then some q else some m) none with
    | some q => some q
    | none => some r

/-! Panic (R327) -/

/-- PF_LEVEL. -/
def pfLevel (s : State) : Nat := s.ws.prefetch.length

/-- The P0 read queue holds a request whose deadline lies within two symbol periods. -/
def urgentRead (s : State) : Bool :=
  (readQueue s).any fun r => decide (r.deadline ≤ uFp s + 2 * (tSym s (halfIn s r.half) : Nat))

/-- Asserts or ends panic (R327). -/
def judgePanic (s : State) : State :=
  if s.cave.panic then
    if fget s F.p0CfgPanicHi * 1024 ≤ pfLevel s * 100 ∨ !urgentRead s then { s with cave := { s.cave with panic := false } }
    else s
  else if pfLevel s * 100 < fget s F.p0CfgPanicLo * 1024 ∧ urgentRead s then
    let s := { s with cave := { s.cave with panic := true } }
    raise (fset (finc s F.p0PanicCnt) F.caveEventPanic 0 1) 0x48 0 [(pfLevel s : Int)]
  else s

/-! Metering (R36, R324) -/

/-- Bytes of a port's ceiling in 1 µs (R36). -/
def ceiling (port : Nat) : Nat := if port = 0 then 12000 else if port = 1 then 16000 else if port = 2 then 8000 else 4000

/-- Bytes at an address touch a physical rank. -/
def onRank (s : State) (rank a len : Nat) : Bool :=
  (List.range (codeWords a len)).any fun i => decide (rankOfWord s (a / 32 + i) = rank)

/-- A request touches a physical rank. -/
def touches (s : State) (rank : Nat) (r : CaveReq) : Bool := onRank s rank r.addr r.len

/-- P0 has work for a physical rank: a lookup that waits, or a queued entry write. -/
def p0Waits (s : State) (rank : Nat) : Bool :=
  ((readQueue s).any fun r => onRank s rank (wayAddr (bucketOf r.user) 0) 2304) ||
    s.cave.writes.any fun w => onRank s rank (wayAddr w.bucket w.way) 288

/-- A refresh waits for a physical rank. -/
def refreshWaits (s : State) (rank : Nat) : Bool := decide (fget s (owedFld rank) ≠ 0 ∨ tget 0 s.cave.refDue rank ≠ 0)

/-- A port that has moved its ceiling in the window is served only while no request of another port and no refresh waits for the rank;
P0 is never metered (R324). -/
def meterOpen (s : State) (rank port : Nat) : Bool :=
  decide (port = 0 ∨ tget 0 s.cave.metered port < ceiling port) ||
    (!(s.cave.reqs.any fun q => decide (q.port ≠ port) && inQueue s q && touches s rank q) && !p0Waits s rank && !refreshWaits s rank)

end Sys2Proof.Machine
end

