-- ==== Sys2Proof/Machine/Sensors.lean ====
section
/-! DEFINITION. Temperature sensors: sites, neighbours, substitution of broken ones, and the temperatures that other units use
(R461 to R464). Temperatures are in 0.1 °C. -/

namespace Sys2Proof.Machine

/-- A broken sensor (R464, R465). -/
def sensorBroken (s : State) (i : Nat) : Bool := s.th.broken.testBit i

/-- Die kind of a sensor: 0 RF, 1 digital, 2 DRAM (R462). -/
def sensorKind (i : Nat) : Nat := if i % 6 < 2 then 0 else if i % 6 < 4 then 1 else 2

/-- DRAM die of a DRAM sensor (R462). -/
def sensorDie (i : Nat) : Nat := if i ≤ 10 then 0 else if i ≤ 17 then 1 else 2

/-- Neighbours of a sensor (R463). -/
def neighbours (i : Nat) : List Nat :=
  let q := i / 6
  (List.range 24).filter fun j =>
    decide (j ≠ i) &&
      (if sensorKind i = 2 then
        (decide (sensorKind j = 2) && decide (sensorDie j = sensorDie i)) || decide (j = 6 * q + 2 ∨ j = 6 * q + 3)
      else decide (sensorKind j = sensorKind i) && decide (j / 6 = q ∨ j / 6 = (q + 1) % 4 ∨ j / 6 = (q + 3) % 4))

/-- Median of readings; for an even number the mean of the middle two, truncated. -/
def median (l : List Int) : Option Int :=
  let m := sortBy (fun a b => decide (a ≤ b)) l
  let n := m.length
  if n = 0 then none
  else if n % 2 = 1 then some (nth 0 m (n / 2))
  else some (Int.tdiv (nth 0 m (n / 2 - 1) + nth 0 m (n / 2)) 2)

/-- Readings of the valid sensors among some, under a set of broken ones. -/
def validReadings (vals : List Int) (broken : Nat) (l : List Nat) : List Int :=
  if vals = [] then [] else (l.filter fun j => !broken.testBit j).map fun j => nth 0 vals j

/-- The value of a sensor: its reading, or the substitute of R464. `start` are the sensors broken at the start of the round, which
its neighbour median leaves out (R463). -/
def sensorValueOf (vals : List Int) (start broken i : Nat) : Option Int :=
  if vals = [] then none
  else if !broken.testBit i then some (nth 0 vals i)
  else
    match median (validReadings vals start (neighbours i)) with
    | some m => some m
    | none =>
      (validReadings vals broken ((List.range 24).filter fun j => decide (sensorKind j = sensorKind i))).foldl
        (fun b x => match b with | none => some x | some y => some (max x y)) none

def sensorValue (s : State) (i : Nat) : Option Int := sensorValueOf s.th.values s.th.brokenAt s.th.broken i

/-- The highest value of some sensors; 125.0 °C where there is none (R461). -/
def highest (s : State) (l : List Nat) : Int :=
  ((l.filterMap (sensorValue s)).foldl (fun b x => match b with | none => some x | some y => some (max x y)) none).getD 1250

def groupTemp (s : State) (g : Nat) : Int := highest s [6 * g, 6 * g + 1]
def fabricTemp (s : State) : Int := highest s ((List.range 24).filter fun i => decide (i % 6 = 2 ∨ i % 6 = 3))
def dramTemp (s : State) (d : Nat) : Int := highest s ((List.range 24).filter fun i => decide (sensorKind i = 2 ∧ sensorDie i = d))

/-- Lowest VIN of the last complete round, in mV (R460); 0 before the first one, the model's choice (R51; log entry 157). -/
def lowestVin (s : State) : Nat := (nth 0 s.th.values 24).toNat

end Sys2Proof.Machine
end

