-- ==== Sys2Proof/Machine/Numbers.lean ====
section
/-! DEFINITION. The fixed-point arithmetic that the fabric, the estimator, weight formation and block floating point share
(R101, R135, R201, R202, R208). -/

namespace Sys2Proof.Machine

/-- The low `b` bits of a magnitude: the smallest `b ≤ fuel` whose range holds `x`; `fuel` where none does. -/
def bitsFrom (x : Int) : Nat → Nat → Nat
  | 0, b => b
  | n + 1, b => if -(2 ^ (b - 1) : Int) ≤ x ∧ x ≤ 2 ^ (b - 1) - 1 then b else bitsFrom x n (b + 1)

/-- bits_needed of R101: the smallest b ≥ 1 with −2^(b−1) ≤ x ≤ 2^(b−1) − 1, for |x| < 2^63. -/
def bitsNeeded (x : Int) : Nat := bitsFrom x 63 1

/-- The largest bits_needed of numbers, at least 1. -/
def bitsOfAll (l : List Int) : Nat := l.foldl (fun n x => max n (bitsNeeded x)) 1

/-- Arithmetic shift right: truncation towards minus infinity. -/
def asr (x : Int) (k : Nat) : Int := x / (2 ^ k : Nat)

/-- Shift right by a signed amount: left where it is negative. -/
def asrI (x : Int) (g : Int) : Int := if 0 ≤ g then asr x g.toNat else x * 2 ^ (-g).toNat

/-- sat16 of R135. -/
def sat16 (x : Int) : Int := clampI (-32768) 32767 x

/-- Whether sat16 clamps. -/
def clips16 (x : Int) : Bool := decide (x < -32768 ∨ 32767 < x)

namespace CplxOps

def mul (a b : Cplx) : Cplx := { re := a.re * b.re - a.im * b.im, im := a.re * b.im + a.im * b.re }
def add (a b : Cplx) : Cplx := { re := a.re + b.re, im := a.im + b.im }
def sub (a b : Cplx) : Cplx := { re := a.re - b.re, im := a.im - b.im }
def conj (a : Cplx) : Cplx := { re := a.re, im := -a.im }
def mapParts (f : Int → Int) (a : Cplx) : Cplx := { re := f a.re, im := f a.im }
def norm2 (a : Cplx) : Int := a.re * a.re + a.im * a.im
def zero : Cplx := { re := 0, im := 0 }
def sum (l : List Cplx) : Cplx := l.foldl add zero
def parts (l : List Cplx) : List Int := l.flatMap fun c => [c.re, c.im]

end CplxOps

/-- Element `i` of a row of complex values, zero beyond its end. -/
def cnth (l : List Cplx) (i : Nat) : Cplx := (l[i]?).getD CplxOps.zero

/-- Twelve complex values from 24 numbers. -/
def cplxOf : List Int → List Cplx
  | a :: b :: t => { re := a, im := b } :: cplxOf t
  | _ => []

/-! Block floating point (R98, R101) -/

/-- Exponent and mantissas of the 24 values of a PRB. -/
def compressPrb (v : List Int) (m : Nat) : Nat × List Int :=
  let e := bitsOfAll v - m
  (e, v.map fun x => asr x e)

/-- The values that an exponent and mantissas restore. -/
def decompressPrb (e : Nat) (mant : List Int) : List Int := mant.map fun x => x * 2 ^ e

/-- Bits of a number, most significant first. -/
def natBits (w n : Nat) : List Bool := (List.range w).map fun i => n.testBit (w - 1 - i)

/-- The number that bits spell. -/
def bitsNat (l : List Bool) : Nat := l.foldl (fun a b => 2 * a + (if b then 1 else 0)) 0

/-- Bits packed into bytes, most significant first. -/
def packBits (n : Nat) (l : List Bool) : List Byte :=
  (List.range n).map fun i => BitVec.ofNat 8 (bitsNat ((List.range 8).map fun j => (l[8 * i + j]?).getD false))

/-- Bytes of a PRB block at a mantissa width; 0 is uncompressed (R98). -/
def prbBytes (m : Nat) : Nat := if m = 0 then 48 else 3 * m + 1

/-- A PRB block (R98). -/
def encodePrb (v : List Int) (m : Nat) : List Byte :=
  if m = 0 then v.flatMap fun x => beBytes 2 (unsign 16 x)
  else
    let (e, mant) := compressPrb v m
    BitVec.ofNat 8 (e % 16) :: packBits (3 * m) (mant.flatMap fun x => natBits m (unsign m x))

/-- The 24 values of a PRB block (R98). -/
def decodePrb (b : List Byte) (m : Nat) : List Int :=
  if m = 0 then (List.range 24).map fun i => signed 16 (beNat (slice b (2 * i) 2))
  else
    let e := (nth (0 : Byte) b 0).toNat % 16
    let bits := (b.drop 1).flatMap fun x => natBits 8 x.toNat
    decompressPrb e ((List.range 24).map fun i => signed m (bitsNat ((bits.drop (m * i)).take m)))

/-! Channel vectors (R194, R201, R204) -/

/-- Normalizes vectors so that the largest real part needs exactly 15 bits (R201). -/
def normalize15 (a : List Cplx) : List Cplx :=
  let g : Int := (bitsOfAll (CplxOps.parts a) : Int) - 15
  a.map (CplxOps.mapParts fun x => asrI x g)

/-- round(32,767 × cos(2πq/16)) for q = 0 … 15, halves away from zero (R204). -/
def cosTable : List Int :=
  [32767, 30273, 23170, 12539, 0, -12539, -23170, -30273, -32767, -30273, -23170, -12539, 0, 12539, 23170, 30273]

/-- r[q] of R204. -/
def phaseRef (q : Nat) : Cplx := { re := nth 0 cosTable q, im := nth 0 cosTable ((q + 12) % 16) }

/-- The phase step of R204: the q that maximizes Re(c × r[q]), the lowest on a tie. -/
def bestPhase (c : Cplx) : Nat :=
  (List.range 16).foldl (fun b q =>
    if (CplxOps.mul c (phaseRef b)).re < (CplxOps.mul c (phaseRef q)).re then q else b) 0

/-- The blend of R204 of an old vector and an estimate. -/
def blend (old h : List Cplx) (k : Nat) : List Cplx :=
  let c := CplxOps.sum (List.zipWith (fun o x => CplxOps.mul (CplxOps.conj o) x) old h)
  let r := phaseRef (bestPhase c)
  normalize15 (List.zipWith (fun o x =>
    let h2 := CplxOps.mapParts (fun v => asr v 15) (CplxOps.mul x r)
    CplxOps.add o (CplxOps.mapParts (fun v => asr v k) (CplxOps.sub h2 o))) old h)

/-- Maximum-ratio weights of R208. -/
def mrc (h : List Cplx) : List Cplx := h.map fun c => CplxOps.mapParts (fun v => sat16 (2 * v)) (CplxOps.conj c)

/-- The downlink correction of R212. -/
def recipCorrect (w recip : List Cplx) : List Cplx :=
  List.zipWith (fun a r => CplxOps.mapParts (fun v => sat16 (asr v 14)) (CplxOps.mul a r)) w recip

/-- Coefficients from bytes: I then Q, 16 bits each (R102, R194). -/
def coefOf (b : List Byte) (n : Nat) : List Cplx :=
  (List.range n).map fun i =>
    { re := signed 16 (beNat (slice b (4 * i) 2)), im := signed 16 (beNat (slice b (4 * i + 2) 2)) }

/-- A complex value as a seat or sample word, and back (R163, R273). -/
def packCplx (c : Cplx) : Word := (BitVec.ofInt 16 c.re : BitVec 16) ++ (BitVec.ofInt 16 c.im : BitVec 16)
def unpackCplx (w : Word) : Cplx := { re := (w.extractLsb' 16 16).toInt, im := (w.extractLsb' 0 16).toInt }

/-- Coefficients as bytes. -/
def coefBytes (l : List Cplx) : List Byte :=
  l.flatMap fun c => beBytes 2 (unsign 16 c.re) ++ beBytes 2 (unsign 16 c.im)

/-! QUALITY (R202): floor(100 × log10(n / d)) by integer powers -/

/-- Whether `10^q ≤ (n/d)^100` for a signed q. -/
def qualityAtLeast (n d : Nat) (q : Int) : Bool :=
  if 0 ≤ q then decide (10 ^ q.toNat * d ^ 100 ≤ n ^ 100) else decide (d ^ 100 ≤ n ^ 100 * 10 ^ (-q).toNat)

/-- Bisection for the largest q with `qualityAtLeast`, from a step of 2^fuel. -/
def qualitySearch (n d : Nat) : Nat → Int → Int
  | 0, q => q
  | k + 1, q => if qualityAtLeast n d (q + 2 ^ k) then qualitySearch n d k (q + 2 ^ k) else qualitySearch n d k q

/-- floor(100 log10(n/d)) for positive `n`, `d`, clamped below at −4,096: within it for every ratio that sums of R201 reach. -/
def quality100 (n d : Nat) : Int := if n = 0 then -32768 else qualitySearch n d 13 (-4096)

end Sys2Proof.Machine
end

