-- ==== Sys2Proof/Machine/Signal.lean ====
section
/-! DEFINITION. The signal processing between the catch buffers and the converters: OFDM engines, cyclic prefix, NCOs and the
digital front ends (R259 to R268). -/

namespace Sys2Proof.Machine

/-! Exact rotations -/

/-- 2π in units of 2⁻⁶², rounded down. -/
def tau62 : Int := 28976077832308491369

/-- 1 + iθ/k × z in units of 2⁻⁶²: one step of the exponential series, from its last term inwards. -/
def expStep (theta : Int) (k : Nat) (z : Cplx) : Cplx :=
  let p (v : Int) : Int := theta * v / ((k * 2 ^ 62 : Nat) : Int)
  { re := 2 ^ 62 - p z.im, im := p z.re }

/-- e^(2πi n/d) in units of 2⁻⁶², from 40 terms of the exponential series: exact to some units (log entry 142). -/
def turn (n : Int) (d : Nat) : Cplx :=
  let r := n % (max 1 d : Nat)
  let c := if 2 * r ≤ d then r else r - d
  let theta := tau62 * c / (max 1 d : Nat)
  (List.range 40).foldl (fun z i => expStep theta (40 - i) z) { re := 2 ^ 62, im := 0 }

/-- A value rotated by a turn, in units of 2⁻⁶². -/
def rotated (n : Int) (d : Nat) (x : Cplx) : Cplx := CplxOps.mul x (turn n d)

/-! OFDM (R264 to R268) -/

/-- Samples at `F` of the cyclic prefix of symbol `l` of slot `n` (R265). -/
def cpLen (nfft mu : Nat) (n : Int) (l : Nat) : Nat :=
  144 * nfft / 2048 + (if longCp mu n l then 16 * nfft / 2048 * 2 ^ mu else 0)

/-- The symbol phase term of 38.211 clause 5.4 as a turn: minus f0 times the start of the symbol's useful part within its subframe
(R268; log entry 142). Numerator and denominator, f0 in Hz. -/
def phaseTurn (f0 : Int) (scsKhz mu : Nat) (n : Int) (l : Nat) : Int × Nat :=
  let first := n - n % (2 ^ mu : Nat)
  let before := (List.range (n - first).toNat).foldl (fun (a : Nat) (i : Nat) => a + symbolUnits mu (first + i) 14) 0
  let units := before + symbolUnits mu n l + 144 + (if longCp mu n l then 16 * 2 ^ mu else 0)
  (-(f0 * units), 2048 * scsKhz * 1000)

/-- The bin of subcarrier `i` of PRB `p` (R264). -/
def binOf (nfft nprb p i : Nat) : Nat := ((((12 * p + i : Nat) : Int) - 6 * nprb) % (max 1 nfft : Nat)).toNat

/-- Sum of x[k] × e^(± 2πi kt/N), turned by a phase, in units of 2⁻¹²⁴. -/
def dftAt (sign : Int) (x : List Cplx) (nfft t : Nat) (ph : Int × Nat) : Cplx :=
  let sum := ((List.range nfft).map fun k =>
    if cnth x k = CplxOps.zero then CplxOps.zero else rotated (sign * (k * t : Nat)) nfft (cnth x k)).foldl CplxOps.add CplxOps.zero
  CplxOps.mul sum (turn ph.1 ph.2)

/-- A value in units of 2⁻¹²⁴ shifted right further and floored, with the engine's own error of at most 2 LSB (R266). -/
def engineOut (shift : Nat) (v err : Cplx) : Cplx :=
  { re := asr v.re (124 + shift) + clampI (-2) 2 err.re, im := asr v.im (124 + shift) + clampI (-2) 2 err.im }

/-- Real parts of values that sat16 clamps. -/
def clampsOf (l : List Cplx) : Nat := ((CplxOps.parts l).filter clips16).length

/-- The downlink engine: a symbol's samples with its cyclic prefix from its bins, and the clamps (R264 to R266, R268). All bins zero
give zero samples (log entry 142). -/
def ofdmTx (bins : List Cplx) (nfft shift cp : Nat) (ph : Int × Nat) : List Cplx × Nat :=
  if bins.all fun c => decide (c = CplxOps.zero) then (List.replicate (cp + nfft) CplxOps.zero, 0)
  else
    let y := (List.range nfft).map fun t => engineOut shift (dftAt 1 bins nfft t ph) (Config.ofdmErr true bins nfft shift ph.1 t)
    let z := y.map (CplxOps.mapParts sat16)
    (z.drop (nfft - cp) ++ z, clampsOf y)

/-- The uplink engine: the bins of a window, and the clamps (R266 to R268). `adv`: the samples by which the window starts early. -/
def ofdmRx (win : List Cplx) (nfft shift adv : Nat) (ph : Int × Nat) : List Cplx × Nat :=
  if win.all fun c => decide (c = CplxOps.zero) then (List.replicate nfft CplxOps.zero, 0)
  else
    let y := (List.range nfft).map fun k =>
      let v := dftAt (-1) win nfft k ph
      let r := CplxOps.mapParts (fun z => asr z 62) (rotated ((k * adv : Nat) : Int) nfft v)
      engineOut shift r (Config.ofdmErr false win nfft shift ph.1 k)
    (y.map (CplxOps.mapParts sat16), clampsOf y)

/-- The subcarriers of a carrier in PRB order from the bins (R264). -/
def carrierOf (bins : List Cplx) (nfft nprb : Nat) : List Cplx :=
  (List.range (12 * nprb)).map fun j => cnth bins (binOf nfft nprb (j / 12) (j % 12))

/-- The bins of a symbol from its PRBs: every bin that none occupies is zero (R264). -/
def binsOf (l : List PrbData) (nfft nprb : Nat) : List Cplx :=
  let occ := l.flatMap fun d => (List.range 12).map fun i => (binOf nfft nprb d.prb i, cnth d.vals i)
  (List.range nfft).map fun k => ((occ.find? fun e => decide (e.1 = k)).map Prod.snd).getD CplxOps.zero

/-! Front ends (R259 to R262) -/

/-- The NCO word nearest to an offset: in units of the sample rate over 2³² (R262). -/
def ncoWord (hz : Int) (rateKhz : Nat) : Int := (2 * hz * 2 ^ 32 + (rateKhz * 1000 : Nat)) / ((2 * rateKhz * 1000 : Nat) : Int)

/-- A stream turned by an NCO whose first sample is number `n0` since the NCO restarted at phase zero; each part truncates. -/
def ncoShift (sign word n0 : Int) (l : List Cplx) : List Cplx :=
  l.mapIdx fun i x => CplxOps.mapParts (fun v => asr v 62) (rotated (sign * word * (n0 + i)) (2 ^ 32) x)

/-- Number of samples at a rate in a span of 2⁻¹⁶ ns, to the nearest. -/
def samplesIn (rateKhz : Nat) (span : Int) : Int := (2 * span * rateKhz + 1000000 * fp) / ((2 * 1000000 * fp : Nat) : Int)

/-- A 14-bit code left-justified in 16 bits (R259). -/
def adcWord (code : Int) : Int := 4 * clampI (-8192) 8191 code

/-- Parts at either extreme code (R259). -/
def extremeCodes (l : List Cplx) : Nat := ((CplxOps.parts l).filter fun v => decide (v ≤ -8192 ∨ 8191 ≤ v)).length

/-- The values of a filter by rate conversion, to a given length: what it computes is free within R260 (log entry 19). -/
def filtered (down : Bool) (draw ratio n : Nat) (l : List Cplx) : List Cplx :=
  (List.range n).map fun i => cnth (Config.rateFilter down draw ratio l) i

/-- The RX front end: NCO, decimation and the saturation of its last stage, with its clamps (R260). -/
def rxFrontEnd (draw ratio : Nat) (word n0 : Int) (adc : List Cplx) : List Cplx × Nat :=
  if adc.all fun c => decide (c = CplxOps.zero) then (List.replicate (adc.length / max 1 ratio) CplxOps.zero, 0)
  else
    let l := filtered true draw ratio (adc.length / max 1 ratio) (ncoShift (-1) word n0 adc)
    (l.map (CplxOps.mapParts sat16), clampsOf l)

/-- The TX front end after DIG_GAIN: interpolation with the saturation of its last stage, whose clamps count, then the NCO, whose products
truncate and, beyond 16 bits, clamp (R261; log entry 19). -/
def txFrontEnd (draw ratio : Nat) (word n0 : Int) (x : List Cplx) : List Cplx × Nat :=
  if x.all fun c => decide (c = CplxOps.zero) then (List.replicate (ratio * x.length) CplxOps.zero, 0)
  else
    let l := filtered false draw ratio (ratio * x.length) x
    ((ncoShift 1 word n0 (l.map (CplxOps.mapParts sat16))).map (CplxOps.mapParts sat16), clampsOf l)

end Sys2Proof.Machine
end

