-- ==== Sys2Proof/Machine/Rf.lean ====
section
/-! DEFINITION. RF paths: radio state machines, tuning and synthesizer calibration, TDD patterns, output power, compensation,
strobes and the PA bus (R222 to R258). -/

namespace Sys2Proof.Machine

/-! Radio states (R237, R238) -/

def rsmOff : Nat := 0
def rsmCal : Nat := 1
def rsmSettle : Nat := 2
def rsmLocked : Nat := 3

/-- RSM_STATE of a group. -/
def rsm (s : State) (g : Nat) : Nat := fget s F.rsmStatusState g

/-- Puts a group in a state; LOCK follows it. -/
def setRsm (s : State) (g st : Nat) : State :=
  fset (fset s F.rsmStatusState g st) F.rsmStatusLock g (if rsmLocked ≤ st then 1 else 0)

/-- The half that a group belongs to, and the half whose grid a change of some groups waits for (R40, R399). -/
def halfOfGroup (s : State) (g : Nat) : Nat := if isSplit s then g / 2 else 0

def gridOfGroups (s : State) (groups : Nat) : Nat :=
  if isSplit s ∧ groups % 4 = 0 ∧ groups ≠ 0 then 1 else 0

def gridOfPaths (s : State) (paths : Nat) : Nat :=
  if isSplit s ∧ paths % 2 ^ 32 = 0 ∧ paths ≠ 0 then 1 else 0

/-- A group holds a synthesizer calibration of this power cycle (R231). -/
def hasCal (s : State) (g : Nat) : Bool := (tget none s.rf.calTemp g).isSome

/-- A group enters SETTLE or CAL and will rejoin its pattern at a stroke (R243). -/
def enter (s : State) (g st : Nat) : State :=
  let s := setRsm s g st
  { s with rf := { s.rf with rejoin := tset false s.rf.rejoin g true } }

/-- A tune of one group at a stroke (R230, R238). A group in CAL stays there and calibrates at the new frequency. -/
def tuneGroup (freqKhz : Nat) (s : State) (g : Nat) : State :=
  let s := fset s F.loFreq g freqKhz
  let s := { s with rf := { s.rf with calFromOff := tset false s.rf.calFromOff g false } }
  let st := rsm s g
  if st = rsmCal then s
  else if !hasCal s g || (decide (st = rsmOff) && decide (fget s F.rsmStatusCalPend g = 1)) then enter s g rsmCal
  else enter s g rsmSettle

/-- A group begins a calibration; from OFF it returns there (R235). -/
def calGroup (s : State) (g : Nat) : State :=
  let off := decide (rsm s g = rsmOff)
  let s := { s with rf := { s.rf with
    calDue := tset false s.rf.calDue g false,
    calFromOff := if rsm s g = rsmCal then s.rf.calFromOff else tset false s.rf.calFromOff g off } }
  enter s g rsmCal

/-- A group goes to OFF. -/
def groupOff (s : State) (g : Nat) : State :=
  let s := setRsm s g rsmOff
  { s with rf := { s.rf with calFromOff := tset false s.rf.calFromOff g false, calDue := tset false s.rf.calDue g false,
                             rejoin := tset false s.rf.rejoin g false } }

/-- Bits of a set with one more unit. -/
def withBit (m n : Nat) : Nat := m ||| 2 ^ n

/-- Completion of a tune or a calibration: OK, or UNIT_FAULT with the lowest failed group (R230, R235). -/
def endRfOp (s : State) (op : LongOp) (failed : Nat) : State :=
  let code := if op.opcode = 0x0042 then 0x031 else 0x001
  match unitsOf failed 4 with
  | [] => completeAs s code op stOk 0 []
  | g :: _ => completeAs s code op stUnitFault g []

/-- A group has ended its part of the tunes and calibrations in progress (R230, R235). -/
def groupEnded (s : State) (g : Nat) (failed : Bool) : State :=
  let upd (o : LongOp × Nat × Nat × Nat) : LongOp × Nat × Nat × Nat :=
    if o.2.1.testBit g then (o.1, o.2.1, withBit o.2.2.1 g, if failed then withBit o.2.2.2 g else o.2.2.2) else o
  let ops := s.rf.ops.map upd
  let ended (o : LongOp × Nat × Nat × Nat) : Bool := decide (o.2.2.1 = o.2.1)
  let s := { s with rf := { s.rf with ops := ops.filter fun o => !ended o } }
  (ops.filter ended).foldl (fun s o => endRfOp s o.1 o.2.2.2) s

/-- Puts a tune or calibration in progress; one of no groups ends at once. -/
def beginRfOp (s : State) (op : LongOp) (groups : Nat) : State :=
  if groups = 0 then endRfOp s op 0 else { s with rf := { s.rf with ops := s.rf.ops ++ [(op, groups, 0, 0)] } }

/-- A due tune and a due calibration at their stroke (R230, R235). -/
def applyLoTune (s : State) (op : LongOp) (groups freqKhz : Nat) : State :=
  beginRfOp ((unitsOf groups 4).foldl (tuneGroup freqKhz) s) op groups

def applySynthCal (s : State) (op : LongOp) (groups : Nat) : State :=
  beginRfOp ((unitsOf groups 4).foldl calGroup s) op groups

/-- A group goes to OFF; its part of a tune or calibration in progress has failed. -/
def stopGroup (s : State) (g : Nat) : State := groupEnded (groupOff s g) g true

def applyLoOff (s : State) (groups : Nat) : State := (unitsOf groups 4).foldl stopGroup s

/-! Events of the synthesizers (R28, R158, R230, R231, R236, R238) -/

/-- Lock of a group: SETTLE to LOCKED. -/
def lockDetectedFx (g : Nat) (s : State) : State :=
  if 4 ≤ g ∨ rsm s g ≠ rsmSettle then s else groupEnded (setRsm s g rsmLocked) g false

/-- LOCK_DETECTED. -/
def execLockDetected (group : Nat) (s : State) : Out := .next (lockDetectedFx group s)

/-- Lock of a group is lost: the group and its 16 paths, TX and RX, are muted and become FAULTED (R28, R158). -/
def lockFault (s : State) (g fault : Nat) : State :=
  let s := hwFault s (uLo g) fault
  let s := (List.range 16).foldl (fun s i => if absentTx s (16 * g + i) then s else hwFault s (uTx (16 * g + i)) fault) s
  (List.range 16).foldl (fun s i => hwFault s (uRx (16 * g + i)) fault) s

/-- No lock 1 ms after SETTLE: OFF, as a lock loss. -/
def settleTimeoutFx (g : Nat) (s : State) : State :=
  if 4 ≤ g ∨ rsm s g ≠ rsmSettle then s else groupEnded (lockFault (groupOff s g) g 0x07) g true

/-- SETTLE_TIMEOUT. -/
def execSettleTimeout (group : Nat) (s : State) : Out := .next (settleTimeoutFx group s)

/-- A locked group loses lock: SETTLE, FAULTED. -/
def lossOfLockFx (g : Nat) (s : State) : State :=
  if 4 ≤ g ∨ rsm s g < rsmLocked then s else lockFault (enter s g rsmSettle) g 0x07

/-- LOSS_OF_LOCK. -/
def execLossOfLock (group : Nat) (s : State) : Out := .next (lossOfLockFx group s)

/-- A calibration ends: SETTLE, or OFF where it started there; without a band OFF and FAULTED (R231, R235, R236). -/
def synthCalEndFx (g : Nat) (bandFound : Bool) (s : State) : State :=
  if 4 ≤ g ∨ rsm s g ≠ rsmCal then s
  else if bandFound then
    let s := fset (finc s F.synthCalCnt g) F.rsmStatusCalPend g 0
    let s := endEpisode { s with rf := { s.rf with calTemp := tset none s.rf.calTemp g (some (groupTemp s g)) } } 0x30 g
    if tget false s.rf.calFromOff g then groupEnded (groupOff s g) g false else enter s g rsmSettle
  else groupEnded (hwFault (groupOff s g) (uLo g) 0x0C) g true

/-- SYNTH_CAL_END. -/
def execSynthCalEnd (group : Nat) (bandFound : Bool) (s : State) : Out := .next (synthCalEndFx group bandFound s)

/-! Temperature triggers and idle gaps (R232 to R234) -/

/-- The temperature trigger of a group, once per round (R232, R233). -/
def synthTrigger (s : State) (g : Nat) : State :=
  match tget none s.rf.calTemp g with
  | none => s
  | some t0 =>
    let d := fget s F.rsmCfgSynthDt g
    let move := groupTemp s g - t0
    if d ≠ 0 ∧ (10 * (d : Int) < move ∨ 10 * (d : Int) < -move) ∧ fget s F.rsmStatusCalPend g = 0 then
      raiseEpisode (fset s F.rsmStatusCalPend g 1) 0x30 g [(g : Int)]
    else s

/-- Slots of the grid in 5.4 ms, rounded up (R234). -/
def gapSlots (mu : Nat) : Nat := ceilDiv (54 * 2 ^ mu) 10

/-- A declaration starts at an instant of `u`: the single gap at its own, a repeating one every period from its own on (R234). -/
def gapStarts (q : IdleGap) (at' : Int) : Bool :=
  if q.period = 0 then decide (at' = q.anchor)
  else decide (q.anchor ≤ at' ∧ (at' - q.anchor) % ((q.period * 10 * 1000000 * fp : Nat) : Int) = 0)

/-- A declared gap begins: a pending calibration starts in it, while Cox runs (R29). A single gap is used up. -/
def idleGapStartFx (g id : Nat) (s : State) : State :=
  let half := halfOfGroup s g
  match (tget [] s.rf.gaps g).find? fun q => decide (q.id = id) with
  | none => s
  | some q =>
    if !gapStarts q (slotStart s half (strokeSlot s half)) then s
    else
      let s := if q.period ≠ 0 then s
        else { s with rf := { s.rf with gaps := tmod [] s.rf.gaps g fun l => l.filter fun r => decide (r.id ≠ id) } }
      if coxRuns s && activeMode s.md.mode && decide (s.md.mode ≠ .service) && decide (rsm s g ≠ rsmOff) &&
          decide (fget s F.rsmStatusCalPend g = 1) && decide (gapSlots (gridMu s half) ≤ q.slots) then calGroup s g else s

/-- IDLE_GAP_START. -/
def execIdleGapStart (group id : Nat) (s : State) : Out := .next (idleGapStartFx group id s)

/-! TDD (R239 to R243, R252, R253) -/

/-- Key of a group's pattern for a spacing. -/
def patternKey (g mu : Nat) : Nat := 4 * g + mu

def patternOf (s : State) (g mu : Nat) : Pattern := tget {} s.rf.patterns (patternKey g mu)

/-- The code of a symbol under a group's pattern; in LISTEN, DL is OFF and BOTH is UL (R239, R240). -/
def codeOf (s : State) (g : Nat) (n : Int) (symbol : Nat) : Nat :=
  let p := patternOf s g (gridMu s (halfOfGroup s g))
  let k := (n % (max 1 p.period : Nat)).toNat
  let c := nth 0 p.codes (14 * k + symbol)
  if effMode s = .listen then (if c = 1 then 0 else if c = 3 then 2 else c) else c

/-- The radio state of a code (R240). -/
def stateOfCode (c : Nat) : Nat := if c = 1 then 4 else if c = 2 then 5 else if c = 3 then 6 else 3

/-- A group follows its pattern: locked, rejoined, while the data plane of an active mode runs (R59, R240). -/
def followsPattern (s : State) (g : Nat) : Bool :=
  !planeStopped s && decide (rsmLocked ≤ rsm s g) && !tget false s.rf.rejoin g

def inTx (st : Nat) : Bool := decide (st = 4 ∨ st = 6)
def inRx (st : Nat) : Bool := decide (st = 5 ∨ st = 6)

/-- A section of a direction covers a symbol of a half. -/
def anySection (s : State) (d : Dir) (half : Nat) (tag : TimeTag) : Bool :=
  s.fh.sections.any fun x => decide (x.dir = d ∧ x.half = half ∧ x.symStart ≤ tag.symbol ∧ tag.symbol < x.symStart + x.symCnt) &&
    sameSlot x.slot tag

/-- One group at a symbol boundary (R240 to R243). -/
def boundaryOf (half : Nat) (tag : TimeTag) (s : State) (g : Nat) : State :=
  let c := codeOf s g (slotNear s half tag) tag.symbol
  let st := rsm s g
  let busy := decide (st = rsmCal ∨ st = rsmSettle)
  let s := if followsPattern s g then setRsm s g (stateOfCode c) else s
  let s := if busy && decide (c ≠ 0) then raise (finc s F.rfWithheldCnt g) 0x32 g [(g : Int)] else s
  let st := rsm s g
  let s := if anySection s .dl half tag && !inTx st && !(busy && decide (c = 1 ∨ c = 3)) then finc s F.tddDlConflictCnt g else s
  if anySection s .ul half tag && !inRx st && !(busy && decide (c = 2 ∨ c = 3)) then finc s F.tddUlConflictCnt g else s

/-- Groups of a half. -/
def groupsOf (s : State) (half : Nat) : List Nat := if isSplit s then [2 * half, 2 * half + 1] else [0, 1, 2, 3]

/-- The radio part of a symbol boundary. -/
def radioBoundary (half : Nat) (tag : TimeTag) (s : State) : State :=
  let s := (groupsOf s half).foldl (boundaryOf half tag) s
  let rx := (groupsOf s half).filter fun g => inRx (rsm s g)
  let deaf := (halfPaths s half).filter fun p => !rxWorks s p
  { s with rf := { s.rf with rxSymbols := ((half, tag, rx, deaf) :: s.rf.rxSymbols).take 8 } }

/-- Groups that received a symbol: those of its boundary, else those that receive now. -/
def groupsReceived (s : State) (half : Nat) (tag : TimeTag) : List Nat :=
  match s.rf.rxSymbols.find? fun e => decide (e.1 = half ∧ e.2.1 = tag) with
  | some e => e.2.2.1
  | none => (groupsOf s half).filter fun g => inRx (rsm s g)

/-- An RX path's samples of a symbol enter the OFDM engine: it was not muted when the symbol began at the balls (R226). -/
def rxHeard (s : State) (half : Nat) (tag : TimeTag) (p : Nat) : Bool :=
  match s.rf.rxSymbols.find? fun e => decide (e.1 = half ∧ e.2.1 = tag) with
  | some e => !e.2.2.2.contains p
  | none => rxWorks s p

/-- Whether a group's pattern has it in a direction at an instant of `u`. -/
def inDirAt (s : State) (g : Nat) (rx : Bool) (at' : Int) : Bool :=
  let half := halfOfGroup s g
  let n := at' / (slotFp (gridMu s half) : Int)
  let l := ((List.range 14).filter fun l => decide (ballStart s half n l ≤ at')).length - 1
  let c := codeOf s g n l
  if rx then decide (c = 2 ∨ c = 3) else decide (c = 1 ∨ c = 3)

/-- TX of a half is held muted by a PLL outage (R28). -/
def txHeld (s : State) (half : Nat) : Bool := if half = 0 then s.pw.txHeld.1 else s.pw.txHeld.2

/-- Whether a strobe is active: within LEAD before a run, in it, or within LAG after it; held inactive as R253 states. LEAD and
LAG are shorter than a symbol, so the runs that can matter are those at these three instants (R252). -/
def strobeActive (s : State) (n : Nat) : Bool :=
  let w := tget 0 s.rf.stbCfg n
  let g := getBits w 26 2
  let rx := w.getLsbD 29
  let paths := (List.range 16).map (16 * g + ·)
  let some' := if rx then paths.any fun p => unitWorks s (uRx p) && unitWorks s (uLo g)
    else !txHeld s (halfOfGroup s g) && paths.any fun p => !absentTx s p && unitWorks s (uTx p) && unitWorks s (uLo g)
  w.getLsbD 31 && followsPattern s g && some' && decide (tget 0 s.rf.loopback g ≠ 1 ∧ tget 0 s.rf.loopback g ≠ 2) &&
    (inDirAt s g rx (uFp s) || inDirAt s g rx (uFp s + (getBits w 12 12 * fp : Nat)) ||
      inDirAt s g rx (uFp s - (getBits w 0 12 * fp : Nat)))

/-- Level of the pin TDDSTBn. -/
def strobeLevel (s : State) (n : Nat) : Bool := if (tget 0 s.rf.stbCfg n).getLsbD 30 then !strobeActive s n else strobeActive s n

/-- A slot of another numerology that starts at the stroke of a half, where one does. -/
def slotAtStroke (s : State) (half mu : Nat) : Option Int :=
  let at' := slotStart s half (strokeSlot s half)
  if at' % (slotFp mu : Int) = 0 then some (at' / (slotFp mu : Int)) else none

/-- Loaded patterns whose pattern slot 0 falls at the stroke take effect (R239, R244). -/
def patternStroke (half : Nat) (s : State) : State :=
  let due (q : LongOp × Nat × Nat × Pattern) : Bool :=
    decide (gridOfGroups s q.2.1 = half) &&
      (match slotAtStroke s half q.2.2.1 with
       | some n => decide (n % (max 1 q.2.2.2.period : Nat) = 0)
       | none => false)
  let now := s.rf.pendingPatterns.filter due
  let s := { s with rf := { s.rf with pendingPatterns := s.rf.pendingPatterns.filter fun q => !due q } }
  now.foldl (fun s q =>
    let s := (unitsOf q.2.1 4).foldl (fun s g =>
      { s with rf := { s.rf with patterns := tset {} s.rf.patterns (patternKey g q.2.2.1) q.2.2.2 } }) s
    complete s q.1 stOk 0 []) s

/-- Groups that wait for a stroke rejoin their pattern, unless a new pattern of theirs is still to come (R243, R244). -/
def rejoinStroke (half : Nat) (s : State) : State :=
  (groupsOf s half).foldl (fun s g =>
    let waits := s.rf.pendingPatterns.any fun q => q.2.1.testBit g && decide (q.2.2.1 = gridMu s half)
    if rsmLocked ≤ rsm s g ∧ tget false s.rf.rejoin g ∧ !waits then
      { s with rf := { s.rf with rejoin := tset false s.rf.rejoin g false } }
    else s) s

/-! Output power (R245 to R248) -/

/-- floor(32,768 × 10^(−0.25 k / 20)) by integer powers: the largest d with d^80 × 10^k ≤ 32,768^80. -/
def digGain (k : Nat) : Nat :=
  (List.range 16).foldl (fun d i => let t := d + 2 ^ (15 - i); if t ^ 80 * 10 ^ k ≤ 32768 ^ 80 then t else d) 0

/-- Entry `i` of the default table (R245). -/
def defaultEntry (i : Nat) : Word :=
  let drv := min (i / 2) 63
  BitVec.ofNat 32 (drv * 65536 + (if i ≤ 2 * drv then 32768 else digGain (i - 2 * drv)))

/-- The power table of a group. -/
def tableOf (s : State) (g : Nat) : List Word := (tget none s.rf.tables g).getD ((List.range 160).map defaultEntry)

/-- N of a group's table. -/
def tableLen (s : State) (g : Nat) : Nat := match tget none s.rf.tables g with | some l => l.length | none => 160

/-- The actuator of a path is in bypass (R289). -/
def dpdBypassed (s : State) (p : Nat) : Bool := decide (fget s F.dpdStatusBypass p = 1)

/-- The index of R246 before its clamp. -/
def rawIndex (s : State) (p : Nat) : Int :=
  ((tget 159 s.rf.step p : Nat) : Int) + tget 0 s.rf.trim p + (if dpdBypassed s p then ((tget 24 s.rf.backoff (p / 16) : Nat) : Int) else 0)

/-- The effective index of a path at a stroke; a clamp counts once per change of the index (R246). -/
def powerIndex (s : State) (p : Nat) : State :=
  let raw := rawIndex s p
  let idx := (clampI 0 ((tableLen s (p / 16) : Int) - 1) raw).toNat
  let s := if idx ≠ tget 159 s.rf.effIdx p ∧ raw ≠ (idx : Int) then finc s F.pwrClampCnt else s
  { s with rf := { s.rf with effIdx := tset 159 s.rf.effIdx p idx } }

/-- Power indices of a half's present TX paths. -/
def powerStroke (half : Nat) (s : State) : State :=
  (halfPaths s half).foldl (fun s p => if absentTx s p then s else powerIndex s p) s

/-- The temperature band of R470. -/
def tempBand (t : Int) : Nat :=
  if t < 100 then 0 else if t < 450 then 1 else if t < 850 then 2 else if t < 950 then 3 else if t ≤ 1050 then 4
  else if t < 1100 then 5 else 6

/-- The points of a group's record around a frequency: the first of the two that bracket it (R248). -/
def compSegment (g freqKhz : Nat) : Option Nat :=
  (List.range 7).find? fun k => decide (Config.compPoint g k ≤ freqKhz ∧ freqKhz ≤ Config.compPoint g (k + 1))

/-- A coefficient interpolated linearly at a frequency, as a numerator over the denominator of all four; vin_coef knows no band (R248). -/
def compCoefAt (g band' freqKhz which : Nat) : Int × Nat :=
  let band := if which = 3 then 0 else band'
  match compSegment g freqKhz with
  | none => (Config.compBeyond g band which freqKhz, 1)
  | some k =>
    let a := Config.compPoint g k
    let d := max 1 (Config.compPoint g (k + 1) - a)
    (Config.compCoef g band which k * ((d - (freqKhz - a) : Nat) : Int) +
      Config.compCoef g band which (k + 1) * ((freqKhz - a : Nat) : Int), d)

/-- Numerator and denominator of the compensation target in µdB before its clamp, at a temperature in 0.1 °C and a lowest VIN in mV
(R248). -/
def compTarget (g band freqKhz : Nat) (t : Int) (vin : Nat) : Int × Nat :=
  let c := compCoefAt g band freqKhz
  let d := (c 0).2
  ((c 0).1 * (t * d - (c 1).1) + (c 2).1 * d + (c 3).1 * d * ((9000 - vin : Nat) : Int), d * d)

/-- The fine gain of a group in a round: the target of R248, clamped, rounded, and at most 0.10 dB a round. -/
def compRound (s : State) (g : Nat) : State :=
  let t := groupTemp s g
  let s := fset s F.compStatusBand g (tempBand t)
  if fget s F.rsmCfgCompEn g = 0 then s
  else
    let (n, d) := compTarget g (tempBand t) (fget s F.loFreq g) t (lowestVin s)
    let lim : Int := 3000000 * d
    let sat := decide (n < -lim ∨ lim < n)
    let step := Int.tdiv (clampI (-lim) lim n) (50000 * d)
    let gain := fgetI s F.compStatusGain g
    let s := fset s F.compStatusCompSat g (if sat then 1 else 0)
    let s := if sat then (if inEpisode s 0x33 g then s else raiseEpisode s 0x33 g [(g : Int)]) else endEpisode s 0x33 g
    { s with rf := { s.rf with gainNext := tset 0 s.rf.gainNext g (gain + clampI (-2) 2 (step - gain)) } }

/-- The fine gain that takes effect at a stroke; with COMP_EN = 0 it is 0 dB, and a clamped episode has ended (R248). -/
def compStroke (s : State) (g : Nat) : State :=
  if fget s F.rsmCfgCompEn g = 0 then
    let s := endEpisode s 0x33 g
    fset (fsetI { s with rf := { s.rf with gainNext := tset 0 s.rf.gainNext g 0 } } F.compStatusGain g 0) F.compStatusCompSat g 0
  else fsetI s F.compStatusGain g (tget 0 s.rf.gainNext g)

/-- Calibrations that wait for a stroke in STANDBY and SERVICE start, while Cox runs (R29, R233). -/
def calStroke (s : State) (g : Nat) : State :=
  if decide (s.md.mode = .standby ∨ s.md.mode = .service) && coxRuns s && decide (fget s F.rsmStatusCalPend g = 1) &&
      decide (rsm s g ≠ rsmOff ∧ rsm s g ≠ rsmCal) then calGroup s g
  else s

/-- Changes of data-plane state wait for the effective stroke of the mode change in preparation (R60). -/
def changesWait (s : State) : Bool := match s.md.prep with | some p => decide (p.target ≠ .dormant) | none => false

/-- The configuration of the data plane stands still: a mode change in preparation holds it (R60), or Cox restarts (R29). -/
def frozen (s : State) : Bool := changesWait s || !coxRuns s

/-- The strobe configurations of the groups whose grid is this half's come into force (R252, R399). -/
def strobeStroke (half : Nat) (s : State) : State :=
  (List.range 8).foldl (fun s n =>
    let w := rget s (F.tddStbCfgEn.addr n)
    if gridOfGroups s (2 ^ getBits w 26 2) = half then { s with rf := { s.rf with stbCfg := tset 0 s.rf.stbCfg n w } } else s) s

/-- The RF part of a stroke of a half, after its due changes. -/
def rfStroke (half : Nat) (s : State) : State :=
  let s := (groupsOf s half).foldl calStroke s
  let s := rejoinStroke half (if frozen s then s else patternStroke half s)
  if frozen s then s else strobeStroke half ((groupsOf s half).foldl compStroke s)

/-! The PA bus (R249 to R251) -/

/-- The bus shifts a transaction (R249). -/
def paBusy (s : State) : Bool := s.rf.paNow.isSome

/-- PA_BUS_CFG comes into force while the bus is idle (R249). -/
def paConfig (s : State) : State :=
  if paBusy s then s
  else { s with rf := { s.rf with paMode3 := decide (fget s F.paBusCfgMode3 = 1), paSck := fget s F.paBusCfgSckMhz } }

/-- Transactions go to the bus in order: the first at once when it is idle, the others after it (R250, R251). -/
def paSend (l : List PaXfer) (s : State) : State :=
  match s.rf.paNow, l with
  | none, x :: rest => { s with rf := { s.rf with paNow := some x, paRest := rest } }
  | _, l => { s with rf := { s.rf with paRest := s.rf.paRest ++ l } }

/-- The instant of a timed transaction on `u`, on half 0's grid (R250; DESIGN CHOICE, log entry 195). -/
def paInstant (s : State) (q : PaTimed) : Int := symbolStartFp s 0 q.tag + q.offsetNs * fp

/-- The queued transaction that comes first: by instant, then by arrival. -/
def paNext (s : State) : Option PaTimed :=
  s.rf.timed.foldl (fun b q => match b with
    | none => some q
    | some m => if paInstant s q < paInstant s m then some q else some m) none

/-- Starts the first timed transaction whose instant has come, when the bus is idle (R250). -/
def paTimedFx (s : State) : State :=
  if paBusy s then s
  else
    match paNext s with
    | none => s
    | some q =>
      if uFp s + (50 * fp : Nat) < paInstant s q then s
      else
        let late := q.late || decide (paInstant s q + (1000 * fp : Nat) < uFp s)
        let s := paSend [q.xfer] { s with rf := { s.rf with timed := s.rf.timed.erase q } }
        if late then finc s F.paLateCnt else s

/-- PA_TIMED_TRANSACTION. -/
def execPaTimedTransaction (s : State) : Out := .next (paTimedFx s)

/-- A transaction ends: the next of a sequence follows, else the bus is idle, PA_BUS_CFG takes effect and a waiting timed
transaction starts. -/
def paDoneFx (s : State) : State :=
  let t := { s with rf := { s.rf with paNow := none, paRest := [] } }
  if !paBusy s then s
  else if s.rf.paRest = [] then paTimedFx (paConfig t)
  else paSend s.rf.paRest t

/-- PA_TRANSACTION_DONE. -/
def execPaTransactionDone (s : State) : Out := .next (paDoneFx s)

/-- The safe sequence: the timed queue is discarded and the stored transactions are sent in full, in order. An empty one sends
nothing, discards nothing and raises nothing (DESIGN CHOICE, log entry 196). The number by which the event names its cause is not stated (log entry 40). -/
def safeSequence (s : State) : State :=
  if s.mram.safe = [] then s
  else
    let n := s.rf.timed.length
    let s := paSend s.mram.safe { s with rf := { s.rf with timed := [] } }
    let (f, s) := drawFree (fset s F.paBusStatusSafeSent 0 1)
    raise s 0x34 0 [(f % 2 ^ 32 : Nat), (n : Nat)]

/-! Commands (R225, R230, R234, R235, R238, R239, R245, R246, R248, R250, R254) -/

/-- A set that names a unit beyond `n`. -/
def beyond (set n : Nat) : Bool := decide (2 ^ n ≤ set)

/-- A set of TX paths that names an absent one (R5). -/
def namesAbsent (s : State) (paths : Nat) : Bool := (unitsOf paths 64).any (absentTx s)

/-- The set of groups that a tune may name in the present mode (R230). -/
def tuneSetOk (s : State) (groups : Nat) : Bool :=
  if s.md.mode = .standby ∨ s.md.mode = .service then true
  else if isSplit s then decide (groups = 3 ∨ groups = 12)
  else decide (groups = 15)

/-- Adds a due change of a long operation. -/
def dueLong (h : CmdHdr) (op grid : Nat) (c : Change) (s : State) : State :=
  { s with ccp := { s.ccp with due := s.ccp.due ++ [{ grid := grid, change := c, slot := s.ccp.nextSlot - 1, hdr := h, opcode := op }] } }

/-- LO_TUNE. -/
def execLoTune (h : CmdHdr) (groups freqKhz : Nat) (s : State) : Out :=
  .next (ccpRun h 0x0040 (.loTune h groups freqKhz) (fun _ s =>
    if beyond groups 4 || decide (freqKhz < 380000 ∨ 6000000 < freqKhz) || !tuneSetOk s groups then (s, fail stBadConfig)
    else (s, .accept (dueLong h 0x0040 (gridOfGroups s groups) (.loTune groups freqKhz)))) s)

/-- LO_OFF. -/
def execLoOff (h : CmdHdr) (groups : Nat) (s : State) : Out :=
  .next (ccpRun h 0x0041 (.loOff h groups) (fun id s =>
    if beyond groups 4 then (s, fail stBadConfig)
    else defer s h 0x0041 id (gridOfGroups s groups) (.loOff groups)) s)

/-- SYNTH_CAL. -/
def execSynthCal (h : CmdHdr) (groups : Nat) (s : State) : Out :=
  .next (ccpRun h 0x0042 (.synthCal h groups) (fun _ s =>
    if beyond groups 4 then (s, fail stBadConfig)
    else (s, .accept (dueLong h 0x0042 (gridOfGroups s groups) (.synthCal groups)))) s)

/-- The lowest declaration number free in every named group. With none the command is BUSY (DESIGN CHOICE, log entry 192). -/
def freeGapId (s : State) (groups : Nat) : Option Nat :=
  (List.range 4).find? fun i => (unitsOf groups 4).all fun g => !((tget [] s.rf.gaps g).any fun q => decide (q.id = i))

/-- The declared start on `u`: the nearest instance of the slot, and for a single gap that has passed the next one (R86, R234). -/
def gapAnchor (s : State) (half : Nat) (t : TimeTag) (period : Nat) : Int :=
  let a := slotStart s half (slotNear s half t)
  if period = 0 ∧ a ≤ uFp s then a + ((10240 * 1000000 * fp : Nat) : Int) else a

/-- IDLE_GAP: add, remove one, or remove all (R234). -/
def idleGapBody (q : IdleGapReq) (s : State) : State × Ans :=
  let gs := unitsOf q.groups 4
  let drop (f : IdleGap → Bool) : State :=
    gs.foldl (fun s g => { s with rf := { s.rf with gaps := tmod [] s.rf.gaps g fun l => l.filter f } }) s
  if beyond q.groups 4 || decide (2 < q.op) then (s, fail stBadConfig)
  else if q.op = 2 then (drop fun _ => false, ok)
  else if q.op = 1 then
    match q.id with
    | none => (s, fail stBadConfig)
    | some i => if 3 < i then (s, fail stBadConfig) else (drop fun r => decide (r.id ≠ i), ok)
  else
    match q.start, q.slots with
    | some t, some n =>
      let mu := gridMu s (gridOfGroups s q.groups)
      if !tagValid mu { t with symbol := 0 } || decide (n < gapSlots mu) || decide (1024 < q.period.getD 0) then (s, fail stBadConfig)
      else
        match (if gs.any fun g => decide (4 ≤ (tget [] s.rf.gaps g).length) then none else freeGapId s q.groups) with
        | none => (s, fail stBusy)
        | some i =>
          let d : IdleGap := { id := i, start := t, anchor := gapAnchor s (gridOfGroups s q.groups) t (q.period.getD 0), slots := n,
                               period := q.period.getD 0 }
          (gs.foldl (fun s g => { s with rf := { s.rf with gaps := tmod [] s.rf.gaps g (· ++ [d]) } }) s, okR [numTlv 1 i])
    | _, _ => (s, fail stBadConfig)

/-- IDLE_GAP. -/
def execIdleGap (h : CmdHdr) (q : IdleGapReq) (s : State) : Out :=
  .next (ccpRun h 0x0043 (.idleGap h q) (fun _ s => idleGapBody q s) s)

/-- Slots per frame times two, of a numerology (R239). -/
def twoFrames (mu : Nat) : Nat := 20 * 2 ^ mu

/-- TDD_PATTERN. -/
def execTddPattern (h : CmdHdr) (groups scsKhz period : Nat) (codes : List Nat) (s : State) : Out :=
  .next (ccpRun h 0x0044 (.tddPattern h groups scsKhz period codes) (fun _ s =>
    if beyond groups 4 || !decide (scsKhz ∈ [15, 30, 60, 120]) || decide (period = 0) ||
        decide (twoFrames (muOf scsKhz) % period ≠ 0) || decide (codes.length ≠ period) then (s, fail stBadConfig)
    else
      let p : Pattern := { period := period, codes := codes.flatMap fun w => (List.range 14).map fun i => w / 4 ^ i % 4 }
      (s, .accept fun s => { s with rf := { s.rf with
        pendingPatterns := s.rf.pendingPatterns ++ [({ hdr := h, opcode := 0x0044 }, groups, muOf scsKhz, p)] } })) s)

/-- RX_ATT_SET. -/
def execRxAttSet (h : CmdHdr) (paths attDb : Nat) (s : State) : Out :=
  .next (ccpRun h 0x0045 (.rxAttSet h paths attDb) (fun id s =>
    if beyond paths 64 || decide (30 < attDb) then (s, fail stBadConfig)
    else defer s h 0x0045 id (gridOfPaths s paths) (.rxAtt paths attDb)) s)

def applyRxAtt (s : State) (paths att : Nat) : State :=
  (unitsOf paths 64).foldl (fun s p => { s with rf := { s.rf with rxAtt := tset 0 s.rf.rxAtt p att } }) s

/-- POWER_TABLE_SET. -/
def execPowerTableSet (h : CmdHdr) (group : Nat) (entries : List Word) (backoff : Option Nat) (s : State) : Out :=
  .next (ccpRun h 0x0046 (.powerTableSet h group entries backoff) (fun id s =>
    if decide (4 ≤ group) || decide (entries.length = 0 ∨ 160 < entries.length) ||
        (entries.any fun w => decide (getBits w 22 10 ≠ 0 ∨ 0x8000 < getBits w 0 16)) || decide (80 < backoff.getD 0) then
      (s, fail stBadConfig)
    else defer s h 0x0046 id (gridOfGroups s (2 ^ group)) (.powerTable group entries backoff)) s)

/-- POWER_TABLE in force. A BYPASS_BACKOFF left out stays as it was (DESIGN CHOICE, log entry 194). -/
def applyPowerTable (s : State) (group : Nat) (entries : List Word) (backoff : Option Nat) : State :=
  { s with rf := { s.rf with
      tables := tset none s.rf.tables group (some entries),
      backoff := match backoff with | some b => tset 24 s.rf.backoff group b | none => s.rf.backoff } }

/-- POWER_STEP_SET. -/
def execPowerStepSet (h : CmdHdr) (paths : Nat) (step : Option Nat) (trim : Option Int) (s : State) : Out :=
  .next (ccpRun h 0x0047 (.powerStepSet h paths step trim) (fun id s =>
    if namesAbsent s paths then (s, fail stUnitAbsent)
    else if beyond paths 64 || decide (159 < step.getD 0) || decide (trim.getD 0 < -16 ∨ 15 < trim.getD 0) then (s, fail stBadConfig)
    else defer s h 0x0047 id (gridOfPaths s paths) (.powerStep paths step trim)) s)

def applyPowerStep (s : State) (paths : Nat) (step : Option Nat) (trim : Option Int) : State :=
  (unitsOf paths 64).foldl (fun s p => { s with rf := { s.rf with
    step := match step with | some v => tset 159 s.rf.step p v | none => s.rf.step,
    trim := match trim with | some v => tset 0 s.rf.trim p v | none => s.rf.trim } }) s

/-- A row of 64 numbers. -/
def row64 (f : Nat → Int) : List Int := (List.range 64).map f

/-- The declarations of every group as IDLE_GAP items, in the order of their groups (log entry 41). -/
def gapsBlock (s : State) : List Byte :=
  (List.range 4).flatMap fun g => (tget [] s.rf.gaps g).flatMap fun q =>
    (numTlvs [0] ++ [{ type := 2, value := beBytes 8 (2 ^ g) }, numTlv 3 (tagBits q.start), numTlv 4 q.slots, numTlv 5 q.period,
      numTlv 6 q.id]).flatMap tlvBytes

/-- RF_STATUS. TABLES holds the four blocks in the order of the groups (R429, R442; log entry 185). -/
def execRfStatus (h : CmdHdr) (clear : Option Nat) (s : State) : Out :=
  .next (ccpRun h 0x0048 (.rfStatus h clear) (fun _ s =>
    let rs : List Tlv :=
      [numsTlv 1 (row64 fun p => ((tget 0 s.rf.rxAtt p : Nat) : Int)), numsTlv 2 (row64 fun p => ((tget 159 s.rf.step p : Nat) : Int)),
       numsTlv 3 (row64 fun p => tget 0 s.rf.trim p), numsTlv 4 (row64 fun p => ((tget 159 s.rf.effIdx p : Nat) : Int)),
       numsTlv 5 (row64 fun p => ((tget 0 s.rf.adcOvr p : Nat) : Int)), numsTlv 6 (row64 fun p => ((tget 0 s.rf.dfeSat p : Nat) : Int)),
       numsTlv 7 (row64 fun p => ((tget 0 s.rf.ofdmSat p : Nat) : Int))] ++
      [{ type := 8, value := (List.range 4).flatMap fun g => (tableOf s g).flatMap fun w => beBytes 4 w.toNat },
       { type := 9, value := gapsBlock s }]
    let s := if clear.getD 0 = 0 then s else { s with rf := { s.rf with adcOvr := [], dfeSat := [], ofdmSat := [] } }
    (s, okR rs)) s)

/-- RF_COEF_READ. -/
def execRfCoefRead (h : CmdHdr) (group : Nat) (s : State) : Out :=
  .next (ccpRun h 0x0049 (.rfCoefRead h group) (fun _ s =>
    if 4 ≤ group then (s, fail stBadConfig) else (s, okR [{ type := 1, value := Config.factoryCoef group }])) s)

/-- One transaction within R249: chip select 0–7, 1 to 8 bytes. -/
def xferOk (x : PaXfer) : Bool := decide (x.cs < 8 ∧ 1 ≤ x.bytes.length ∧ x.bytes.length ≤ 8)

/-- PA_BUS (R250, R251). -/
def paBusBody (q : PaBusReq) (s : State) : State × Ans :=
  let x : PaXfer := { cs := q.cs.getD 0, bytes := q.bytes.getD [] }
  let given := q.cs.isSome && q.bytes.isSome
  if q.op = 0 then
    if !given || !xferOk x then (s, fail stBadConfig)
    else (paSend [x] s, okR [{ type := 1, value := slice q.miso 0 x.bytes.length }])
  else if q.op = 1 then
    match q.tag, q.offsetNs with
    | some t, some o =>
      if !given || !xferOk x || !tagValid (gridMu s 0) t || decide (o < -10000 ∨ 10000 < o) then (s, fail stBadConfig)
      else if 32 ≤ s.rf.timed.length then (s, fail stBusy)
      else
        let w : PaTimed := { xfer := x, tag := t, offsetNs := o, late := false }
        let w := { w with late := decide (paInstant s w < uFp s) }
        ({ s with rf := { s.rf with timed := s.rf.timed ++ [w] } }, ok)
    | _, _ => (s, fail stBadConfig)
  else if q.op = 2 then
    match q.sequence with
    | some l =>
      if 16 < l.length ∨ !l.all xferOk then (s, fail stBadConfig) else ({ s with mram := { s.mram with safe := l } }, ok)
    | none => (s, fail stBadConfig)
  else if q.op = 3 then (safeSequence s, ok)
  else (s, fail stBadConfig)

/-- PA_BUS. -/
def execPaBus (h : CmdHdr) (q : PaBusReq) (s : State) : Out :=
  .next (ccpRun h 0x004A (.paBus h q) (fun _ s => paBusBody q s) s)

/-- The switch lines of an ORX as they are set: under RF loopback SOURCE 0 and ENABLE are held (R254, R272). -/
def heldLines (s : State) (k l : Nat) : Nat := if tget 0 s.rf.loopback k = 3 then l / 64 * 64 + 16 + l % 16 else l

/-- ORX_SWITCH: all eight lines, AUX alone, SW_SETTLE (R254). -/
def orxSwitchBody (orx : Nat) (lines aux settleNs : Option Nat) (s : State) : State × Ans :=
  if decide (4 ≤ orx) || decide (255 < lines.getD 0) || decide (3 < aux.getD 0) || decide (10000 < settleNs.getD 0) then
    (s, fail stBadConfig)
  else
    let absent := match lines with
      | some l => decide (l / 32 % 2 = 0) && absentTx s (16 * orx + l % 16)
      | none => false
    if absent then (s, fail stUnitAbsent)
    else if (lines.isSome || aux.isSome) && !(tget [] s.cap.orxBusy orx).isEmpty then (s, fail stBusy)
    else
      let s := match lines with | some l => fset s F.orxSwState orx (heldLines s orx l) | none => s
      let s := match aux with | some a => fset s F.orxSwState orx (fget s F.orxSwState orx % 64 + 64 * a) | none => s
      let s := match settleNs with
        | some n => { s with rf := { s.rf with swSettle := tset 500 s.rf.swSettle orx n } }
        | none => s
      (s, ok)

/-- ORX_SWITCH. -/
def execOrxSwitch (h : CmdHdr) (orx : Nat) (lines aux settleNs : Option Nat) (s : State) : Out :=
  .next (ccpRun h 0x004B (.orxSwitch h orx lines aux settleNs) (fun _ s => orxSwitchBody orx lines aux settleNs s) s)

/-! Path faults (R158, R226) -/

/-- Fault codes of a TX path and of an RX path (R504). -/
def txFaults : List Nat := [0x01, 0x02, 0x03, 0x04]
def rxFaults : List Nat := [0x03, 0x05, 0x06]

/-- TX_PATH_FAULT. -/
def execTxPathFault (path fault : Nat) (s : State) : Out :=
  .next (if decide (path < 64) && !absentTx s path && txFaults.contains fault then hwFault s (uTx path) fault else s)

/-- RX_PATH_FAULT. -/
def execRxPathFault (path fault : Nat) (s : State) : Out :=
  .next (if decide (path < 64) && rxFaults.contains fault then hwFault s (uRx path) fault else s)

end Sys2Proof.Machine
end

