-- ==== Sys2Proof/Machine/Capture.lean ====
section
/-! DEFINITION. The capture engine: rings, blocks, triggers and the busy rule (R269 to R287), the loopback command (R272) and the
carrier command (R505). -/

namespace Sys2Proof.Machine

/-! Rings (R273, R274, R276, R282) -/

def ringFree : Nat := 0
def ringIdle : Nat := 1
def ringArmed : Nat := 2
def ringRunning : Nat := 3

def ringState (s : State) (r : Nat) : Nat := fget s F.capStatusState r
def setRing (s : State) (r st : Nat) : State := fset s F.capStatusState r st

/-- What a ring holds beside its registers. -/
def ringOf (s : State) (r : Nat) : Ring := tget {} s.cap.rings r
def putRing (s : State) (r : Nat) (x : Ring) : State := { s with cap := { s.cap with rings := tset {} s.cap.rings r x } }

/-- STOP_REASON codes (R287). -/
def stopLength : Nat := 1
def stopHost : Nat := 2
def stopFull : Nat := 3
def stopRate : Nat := 4
def stopBandwidth : Nat := 5
def stopDormant : Nat := 6
def stopMissed : Nat := 7

/-- The ORX that a ring captures, where its source is one (R273). -/
def ringOrx (s : State) (r : Nat) : Option Nat :=
  if fget s F.capCfgSource r < 4 then some (fget s F.capCfgSource r) else none

/-- Sample rate of a ring's source in kSPS (R273). -/
def ringKsps (s : State) (r : Nat) : Nat :=
  let src := fget s F.capCfgSource r
  if src < 4 then 1966080 / 2 ^ fget s F.capCfgOrxDec r
  else if src = 4 then 491520
  else ofHalf s.md.full.cfg.rateKsps (halfIn s (fget s F.capCfgPath r / 32))

def ringActive (s : State) (r : Nat) : Bool := decide (ringArmed ≤ ringState s r)

/-- Rate of a ring in kB/s. -/
def ringRate (s : State) (r : Nat) : Nat := 4 * ringKsps s r

def sumN (l : List Nat) : Nat := l.foldl (· + ·) 0

/-- Rate in kB/s of the ARMED and RUNNING rings, Cox's own counted as R274 states. -/
def captureRate (s : State) : Nat :=
  sumN (((List.range 14).filter (ringActive s)).map (ringRate s)) +
    (if activeMode s.md.mode && decide (s.md.mode ≠ .service) then 7864320
     else sumN (([14, 15].filter (ringActive s)).map (ringRate s)))

/-- The P1 ceiling in kB/s (R36). -/
def p1Ceiling : Nat := 16000000

/-- The rings that follow a ring (R285). -/
def followers (s : State) (r : Nat) : List Nat :=
  (List.range 16).filter fun q =>
    decide (q ≠ r ∧ ringState s q ≠ ringFree ∧ fget s F.capCfgLinkEn q = 1 ∧ fget s F.capCfgLeader q = r)

/-- The ring whose trigger a ring obeys: its leader's, or its own. -/
def triggerRing (s : State) (r : Nat) : Nat := if fget s F.capCfgLinkEn r = 1 then fget s F.capCfgLeader r else r

/-- LENGTH that runs until the ring is stopped (R281). -/
def endless : Nat := 0xFFFFFFFF

/-! Blocks (R277 to R280) -/

/-- Address of a block of the pool. -/
def blockAddr (n : Nat) : Nat := 0x60000000 + 65536 * n

/-- The 64 header bytes of a block (R277). Before its data are written COMPLETE is 0 (R278), and
so are VALID_BYTES and the flags: the model's choice (log entry 176). -/
def blockHeader (s : State) (b : StagedBlock) (seq : Nat) (complete : Bool := true) : List Byte :=
  let path := if fget s F.capCfgSource b.ring < 4 then 0 else fget s F.capCfgPath b.ring
  let flag (c : Bool) (n : Nat) : Nat := if c && complete then n else 0
  beBytes 4 seq ++
    [BitVec.ofNat 8 b.ring, BitVec.ofNat 8 (fget s F.capCfgSource b.ring), BitVec.ofNat 8 path,
     BitVec.ofNat 8 (flag b.first 128 + flag b.last 64 + flag b.gap 32 + flag true 8)] ++
    beBytes 2 b.capSeq ++ [0, 0] ++ beBytes 2 (if complete then 4 * b.samples.length else 0) ++ [0, 0] ++ beBytes 8 b.sampleIdx ++
    beBytes 3 (tagBits b.tag) ++ [0] ++ beBytes 4 b.sampleOff ++ beBytes 6 b.uptime ++ List.replicate 26 0

/-- Bytes of samples, most significant byte first (R273). -/
def sampleBytes (l : List Word) : List Byte := l.flatMap fun w => beBytes 4 w.toNat

/-- An ORX is busy (R271), and so it is powered (R269). -/
def orxInUse (s : State) (k : Nat) : Bool := !(tget [] s.cap.orxBusy k).isEmpty

/-- ORX_ATT of an observation receiver, in dB. What it and the corrections make of the input is in the samples that reach the model (R269;
log entry 167). -/
def orxAttOf (s : State) (k : Nat) : Nat := tget 10 s.cap.orxAtt k

/-- Frees the ORX that a ring uses, for that ring. -/
def freeOrx (s : State) (r : Nat) : State :=
  (List.range 4).foldl (fun s k =>
    if (tget [] s.cap.orxBusy k).contains r then
      { s with cap := { s.cap with orxBusy := tmod [] s.cap.orxBusy k fun l => l.filter fun q => decide (q ≠ r) } } else s) s

/-- The last staged block of a ring becomes its final block. -/
def markLast (r : Nat) (l : List StagedBlock) : List StagedBlock :=
  match l.reverse.findIdx? fun b => decide (b.ring = r) with
  | some i => l.modify (l.length - 1 - i) fun b => { b with last := true }
  | none => l

/-- Takes one staged block of a ring to its place in the pool: its header with COMPLETE = 0, its data, its header again. `false`: the
ring was full and stops (R278). -/
def writeBlock (s : State) (b : StagedBlock) : State × Bool :=
  let r := b.ring
  let wr := fget s F.capWrCnt r
  let nblk := fget s F.capAreaNblk r
  let full := decide ((wr + 2 ^ 32 - fget s F.capRdCnt r) % 2 ^ 32 = nblk)
  if full && decide (fget s F.capCfgStopFull r = 1) then (s, false)
  else
    let s := if full then
        raise (fset (finc s F.capOvrCnt r) F.capRdCnt r ((fget s F.capRdCnt r + 1) % 2 ^ 32)) 0x3A r [(r : Int)]
      else s
    let a := blockAddr (fget s F.capAreaBaseBlk r + wr % max 1 nblk)
    let write (s : State) (a : Nat) (l : List Byte) : State := queueWrite s 1 a (l.map fun b => (b, false))
    let s := write (write (write s a (blockHeader s b wr false)) (a + 64) (sampleBytes b.samples)) a (blockHeader s b wr)
    (fset s F.capWrCnt r ((wr + 1) % 2 ^ 32), true)

/-- The oldest staged block of a ring, and the rest. -/
def takeStaged (s : State) (r : Nat) : Option (StagedBlock × State) :=
  match s.cap.staging.find? fun b => decide (b.ring = r) with
  | some b => some (b, { s with cap := { s.cap with staging := s.cap.staging.eraseP fun b => decide (b.ring = r) } })
  | none => none

/-- Discards what a ring has in staging. -/
def dropStaged (s : State) (r : Nat) : State :=
  { s with cap := { s.cap with staging := s.cap.staging.filter fun b => decide (b.ring ≠ r) } }

/-- A ring comes to IDLE with a reason; the stops of R275, FULL and MISSED raise CAP_STOPPED (R286). -/
def ringStops (s : State) (r reason : Nat) : State :=
  let s := fset (setRing (freeOrx s r) r ringIdle) F.capStatusStopReason r reason
  let s := putRing s r { ringOf s r with levelWait := false }
  if 3 ≤ reason then raise s 0x39 0 [(r : Int), (reason : Int)] else s

/-- Writes the oldest staged block of a ring; a full ring that may not overwrite stops (R278). -/
def writeNext (s : State) (r : Nat) : State :=
  match takeStaged s r with
  | none => s
  | some (b, s) =>
    match writeBlock s b with
    | (s, true) => s
    | (s, false) => ringStops (dropStaged s r) r stopFull

/-- Writes every staged block of a ring. -/
def flushRing (s : State) (r : Nat) : State :=
  (List.range (s.cap.staging.filter fun b => decide (b.ring = r)).length).foldl (fun s _ => writeNext s r) s

/-- Stops an ARMED or RUNNING ring: a running one first writes its current block as its final block (R275, R282). -/
def stopRing (s : State) (r reason : Nat) : State :=
  if !ringActive s r then s
  else
    let s := if ringState s r = ringRunning then
        flushRing { s with cap := { s.cap with staging := markLast r s.cap.staging } } r else s
    if ringActive s r then ringStops s r reason else s

/-- The half whose numerology a ring's tags use. -/
def ringHalf (s : State) (r : Nat) : Nat :=
  let src := fget s F.capCfgSource r
  halfIn s ((if src < 4 then 16 * src else fget s F.capCfgPath r) / 32)

/-- The uptime count at an instant of `u`: the present count, less the 125 µs boundaries passed since (R400). -/
def uptimeOf (s : State) (at' : Int) : Nat :=
  let step : Int := (125000 * fp : Nat)
  ((s.tm.uptime : Int) + at' / step - uFp s / step).toNat

/-- The tag and the sample offset of sample `k` of a capture that began at `t` (R277). -/
def samplePlace (s : State) (half ksps : Nat) (t : Int) (k : Nat) : TimeTag × Nat :=
  let ms := 1000000 * fp
  let at' := t + (k * ms / max 1 ksps : Nat)
  let near := at' + (ms / (2 * max 1 ksps) : Nat)
  let n := near / (slotFp (gridMu s half) : Int)
  let l := ((List.range 14).filter fun l => decide (ballStart s half n l ≤ near)).length - 1
  (tagOfSlot (gridMu s half) n l, (samplesIn ksps (at' - ballStart s half n l)).toNat)

/-- A sample as a ring stores it (R273). -/
def sampleWord (c : Cplx) : Word := BitVec.ofNat 32 (unsign 16 c.re * 65536 + unsign 16 c.im)

/-- The samples that a path's chain has had at a source's tap in a symbol (R273). -/
def tapOf (s : State) (src p half : Nat) (tag : TimeTag) : Option (List Cplx) :=
  if src < 6 then
    ((tget [] s.rf.rxTaps p).find? fun t => decide (t.half = half ∧ t.tag = tag)).map fun t => if src = 4 then t.adc else t.fe
  else ((tget [] s.cal.txTaps p).find? fun t => decide (t.half = half ∧ t.tag = tag)).map fun t => if src = 6 then t.actIn else t.actOut

/-- The samples at a tap from a symbol of slot `n` on, while the taps reach. -/
def tapStream (s : State) (src p half : Nat) : Nat → Int → Nat → List Cplx
  | 0, _, _ => []
  | k + 1, n, l =>
    match tapOf s src p half (tagOfSlot (gridMu s half) n l) with
    | none => []
    | some t => t ++ (if l < 13 then tapStream s src p half k n (l + 1) else tapStream s src p half k (n + 1) 0)

/-- The words that a ring captures: of a path source what its chain has had at the tap, before any mute; of a converter source, and
where no tap reaches, the event's samples, a converter's codes left-justified (R259, R269, R273; log entry 167). -/
def capturedWords (s : State) (r : Nat) (tag : TimeTag) (off : Nat) (samples : List Word) : List Word :=
  let src := fget s F.capCfgSource r
  let code (w : Word) : Word :=
    if src = 4 then w &&& 0xFFFCFFFC#32 else if src < 4 ∧ fget s F.capCfgOrxDec r = 0 then w &&& 0xFFF0FFF0#32 else w
  if src < 4 then samples.map code
  else
    let half := ringHalf s r
    let l := ((tapStream s src (fget s F.capCfgPath r) half 64 (slotNear s half tag) tag.symbol).drop off).take samples.length
    l.map sampleWord ++ (samples.drop l.length).map code

/-- The rings that capture together from one trigger: a leader's or a follower's group (R285). -/
def captureGroup (s : State) (r : Nat) : List Nat :=
  (List.range 16).filter fun q => decide (triggerRing s q = triggerRing s r ∧ ringState s q = ringRunning) || decide (q = r)

/-- Real parts of ADC words at either extreme code (R259). -/
def extremeWords (l : List Word) : Nat :=
  sumN (l.map fun w => (if w.extractLsb' 18 14 = 0x2000#14 ∨ w.extractLsb' 18 14 = 0x1FFF#14 then 1 else 0) +
    (if w.extractLsb' 2 14 = 0x2000#14 ∨ w.extractLsb' 2 14 = 0x1FFF#14 then 1 else 0))

/-- The ADCs of a captured path count their extreme codes where no RX chain runs to count them (R259). -/
def countExtremes (s : State) (r : Nat) (samples : List Word) : State :=
  if fget s F.capCfgSource r = 4 ∧ planeStopped s then
    { s with rf := { s.rf with adcOvr := tmod 0 s.rf.adcOvr (fget s F.capCfgPath r) fun k => satN 32 (k + extremeWords samples) } }
  else s

/-- A source completes a block's worth of samples: it enters staging, or is discarded and leaves a gap; FIRST then waits for the
next block written (R280; DESIGN CHOICE, log entry 197). Where the capture's first sample lies is known from its trigger, or from its
first block; a leader and its followers have it at one instant (R285). -/
def blockStagedFx (r : Nat) (tag : TimeTag) (off : Nat) (samples : List Word) (s : State) : State :=
  let x := ringOf s r
  let len := fget s F.capLen r
  if 16 ≤ r ∨ ringState s r ≠ ringRunning ∨ x.levelWait ∨ samples = [] ∨ 16368 < samples.length ∨
      (len ≠ endless ∧ len < x.taken + samples.length) then s
  else
    let ksps := ringKsps s r
    let start := x.start.getD (symbolStartFp s (ringHalf s r) tag + ((off * fp * 1000000 / max 1 ksps : Nat) : Int))
    let (tag, off) := if x.start.isNone then (tag, off) else samplePlace s (ringHalf s r) ksps start x.taken
    let last := decide (len ≠ endless ∧ x.taken + samples.length = len)
    let s := (captureGroup s r).foldl (fun s q => putRing s q { ringOf s q with start := (ringOf s q).start.or (some start) }) s
    let s := countExtremes (if last then freeOrx s r else s) r samples
    let x := { x with start := some start, taken := x.taken + samples.length }
    if s.cap.staging.length < 8 then
      let at' := symbolStartFp s (ringHalf s r) tag + ((off * fp * 1000000 / max 1 ksps : Nat) : Int)
      let b : StagedBlock :=
        { ring := r, capSeq := fget s F.capStatusCaptureSeq r, first := x.firstNext, last := last, gap := x.gapNext,
          sampleIdx := x.taken - samples.length, tag := tag, sampleOff := off, uptime := uptimeOf s at',
          samples := capturedWords s r tag off samples }
      putRing { s with cap := { s.cap with staging := s.cap.staging ++ [b] } } r { x with firstNext := false, gapNext := false }
    else raise (putRing (finc s F.capGapCnt r) r { x with gapNext := true }) 0x3B 0 [(r : Int)]

/-- CAPTURE_BLOCK_STAGED. -/
def execCaptureBlockStaged (ring : Nat) (tag : TimeTag) (sampleOff : Nat) (samples : List Word) (s : State) : Out :=
  .next (blockStagedFx ring tag sampleOff samples s)

/-- P1's write queue has places for the requests of the block that a ring writes next; else the block waits in staging (R280, R323). -/
def blockRoom (s : State) (r : Nat) : Bool :=
  match s.cap.staging.find? fun b => decide (b.ring = r) with
  | none => true
  | some b => decide ((portReqs s 1 true).length + 2 + ceilDiv (sampleBytes b.samples).length 4096 ≤ 64)

/-- CAPTURE_BLOCK_WRITTEN. -/
def execCaptureBlockWritten (ring : Nat) (s : State) : Out := .next (if blockRoom s ring then writeNext s ring else s)

/-- A capture has reached LENGTH: the ring goes to IDLE, to ARMED, or waits for its level to fall (R281, R282). -/
def captureEndFx (r : Nat) (s : State) : State :=
  let x := ringOf s r
  if 16 ≤ r ∨ ringState s r ≠ ringRunning ∨ x.levelWait ∨ fget s F.capLen r = endless ∨ x.taken ≠ fget s F.capLen r then s
  else
    let t := triggerRing s r
    let trig := fget s F.capCfgTrig t
    let s := fset (freeOrx s r) F.capStatusStopReason r stopLength
    let s := if trig = 2 then putRing s r { x with levelWait := true }
      else setRing s r (if trig = 0 ∨ (trig = 1 ∧ fget s F.capTrig2Period t = 0) then ringIdle else ringArmed)
    raise s 0x38 r [(r : Int), (fget s F.capStatusCaptureSeq r : Nat)]

/-- CAPTURE_END. -/
def execCaptureEnd (ring : Nat) (s : State) : Out := .next (captureEndFx ring s)

/-! Triggers (R281 to R285) -/

/-- A ring cannot take a trigger: it is RUNNING, or its ORX is busy (R283). -/
def ringBlocked (s : State) (r : Nat) : Bool :=
  decide (ringState s r = ringRunning) ||
    (match ringOrx s r with
     | some k => orxInUse s k
     | none => false)

/-- A ring starts to capture, its first sample at an instant where the trigger tells it; an ORX becomes busy and its switch lines are
driven (R254, R271, R281, R282). -/
def startRing (s : State) (r : Nat) (start : Option Int) : State :=
  let s := fset (setRing s r ringRunning) F.capStatusCaptureSeq r ((fget s F.capStatusCaptureSeq r + 1) % 65536)
  let s := putRing s r { start := start, nextAt := (ringOf s r).nextAt }
  match ringOrx s r with
  | some k =>
    let old := fget s F.orxSwState k
    fset { s with cap := { s.cap with orxBusy := tmod [] s.cap.orxBusy k (· ++ [r]) } } F.orxSwState k
      (old / 64 * 64 + 16 + fget s F.capCfgPath r % 16)
  | none => s

/-- A trigger of a ring fires: it and its armed followers start at one instant, or the trigger is lost for all (R283, R285). Whether it
was taken. Triggers of one stream tick stand in the queue in the order of R284 (log entry 168). -/
def fire (s : State) (r : Nat) (start : Option Int) : State × Bool :=
  let all := r :: (followers s r).filter fun q => ringActive s q
  if all.any (ringBlocked s) then
    let trig := fget s F.capCfgTrig r
    let s := finc s F.capLostCnt r
    if trig = 3 ∨ trig = 4 then
      match ringOrx s r with
      | some k => if orxInUse s k then (raise (finc s F.urgentDropCnt k) 0x3C k [(k : Int)], false) else (s, false)
      | none => (s, false)
    else if trig = 1 ∧ fget s F.capTrig2Period r = 0 then
      ((all.filter fun q => decide (ringState s q = ringArmed)).foldl (fun s q => ringStops s q stopMissed) s, false)
    else (s, false)
  else (all.foldl (fun s q => startRing s q start) s, true)

/-- Length of 1,024 frames, and of one, in 2⁻¹⁶ ns. -/
def frameFp : Int := (10000000 * fp : Nat)

/-- The instant of a TIME ring's TAG and OFFSET that comes next (R281). -/
def timeInstant (s : State) (r : Nat) : Int :=
  let tag := tagOfBits (fget s F.capTrigTag r)
  let t := symbolStartFp s (ringHalf s r) tag +
    signed 16 (fget s F.capTrig2Offset r) * (1000000 * fp : Nat) / ((max 1 (ringKsps s r) : Nat) : Int)
  if t < uFp s then t + 1024 * frameFp else t

/-- The instant at which a TIME ring's trigger fires, and its next occurrence PERIOD frames later. -/
def timeOccurrence (s : State) (r : Nat) : Int × Option Int :=
  let t := (ringOf s r).nextAt.getD (timeInstant s r)
  let n := fget s F.capTrig2Period r
  (t, if n = 0 then none else some (t + n * frameFp))

/-- SW_SETTLE + 2 µs of a ring's source, in 2⁻¹⁶ ns, and the first symbol start that lies so far off (R281). -/
def hostDelay (s : State) (g : Nat) : Int := ((tget 500 s.rf.swSettle g + 2000) * fp : Nat)

def hostStart (s : State) (r : Nat) : Int :=
  let g := (ringOrx s r).getD (fget s F.capCfgPath r / 16)
  symbolFrom s (ringHalf s r) (uFp s + hostDelay s g)

/-- A trigger of a kind may fire on a ring: its own ring, ARMED or RUNNING. -/
def mayFire (s : State) (r trig : Nat) : Bool :=
  decide (r < 16) && ringActive s r && decide (fget s F.capCfgLinkEn r = 0) && decide (fget s F.capCfgTrig r = trig) &&
    !(ringOf s r).levelWait

/-- IMMEDIATE_TRIGGER. -/
def execImmediateTrigger (ring : Nat) (s : State) : Out :=
  .next (if mayFire s ring 0 && decide (ringState s ring = ringArmed) then (fire s ring none).1 else s)

/-- TIME_TRIGGER. -/
def execTimeTrigger (ring : Nat) (s : State) : Out :=
  .next (if mayFire s ring 1 then
    let (t, next) := timeOccurrence s ring
    (fire (putRing s ring { ringOf s ring with nextAt := next }) ring (some t)).1 else s)

/-- LEVEL_TRIGGER: `powerDb` is the window's mean power in −dBFS. -/
def execLevelTrigger (ring powerDb : Nat) (s : State) : Out :=
  .next (if mayFire s ring 2 && decide (powerDb ≤ fget s F.capTrigLevel ring) then (fire s ring none).1 else s)

/-- LEVEL_REARM: a window 3 dB below the threshold returns the ring and its followers to ARMED. -/
def execLevelRearm (ring powerDb : Nat) (s : State) : Out :=
  .next (if decide (ring < 16) && (ringOf s ring).levelWait && decide (fget s F.capTrigLevel ring + 3 ≤ powerDb) then
    (ring :: (followers s ring).filter fun q => (ringOf s q).levelWait).foldl
      (fun s q => putRing (setRing s q ringArmed) q { ringOf s q with levelWait := false }) s
  else s)

/-! Commands -/

/-- Two block ranges overlap. -/
def rangesMeet (a n b m : Nat) : Bool := decide (a < b + m ∧ b < a + n)

/-- The checks of R276 on a configuration: BASE_BLK, NBLK, LENGTH and the trigger code. -/
def configOk (s : State) (r base nblk len trig : Nat) : Bool :=
  decide (2 ≤ nblk ∧ base + nblk ≤ 40960 ∧ len ≠ 0 ∧ trig < 4) &&
    !((List.range 16).any fun q => decide (q ≠ r ∧ ringState s q ≠ ringFree) &&
      rangesMeet base nblk (fget s F.capAreaBaseBlk q) (fget s F.capAreaNblk q))

/-- Writes the five configuration registers of a ring, their reserved bits 0. -/
def putConfig (s : State) (r : Nat) (cfg area len trig trig2 : Word) : State :=
  let b := 0x600000 + 0x40 * r
  rput (rput (rput (rput (rput s b (cfg &&& 0xFF073F07#32)) (b + 4) area) (b + 8) len) (b + 12) trig) (b + 16) (trig2 &&& 0x07FFFFFF#32)

/-- Channels 0 to 7, 12 and 13, and channel 15 while no ring is ARMED or RUNNING (R374). -/
def dmaHostChans (s : State) : List Nat :=
  (List.range 16).filter fun c => decide (c < 8) || decide (c = 12) || decide (c = 13) ||
    (decide (c = 15) && !((List.range 16).any (ringActive s)))

/-- A host DMA channel's destination, of its active set while it runs or of an armed shadow set, meets blocks of the pool
(R375). -/
def hostDmaMeets (s : State) (base nblk : Nat) : Bool :=
  let meets (space addr fix es len : Nat) : Bool :=
    decide (space = 0 ∧ len ≠ 0) &&
      rangesMeet (blockAddr base) (65536 * nblk) addr (if fix = 1 then (if es = 1 then 32 else 4) else len)
  (dmaHostChans s).any fun c =>
    (decide (fget s F.dmaStatusState c = 1) &&
      meets (fget s F.dmaCtrlDstSpace c) (fget s F.dmaDst c) (fget s F.dmaCtrlDstFix c) (fget s F.dmaCtrlEsize c) (fget s F.dmaLen c)) ||
    (decide (fget s F.dmaStatusShadowValid c = 1) &&
      meets (fget s F.dmaShCtrlDstSpace c) (fget s F.dmaShDst c) (fget s F.dmaShCtrlDstFix c) (fget s F.dmaShCtrlEsize c)
        (fget s F.dmaShLen c))

/-- A source names an absent TX path: an actuator's, or one that an ORX would observe through its TX coupler (R5, R254, R273). -/
def sourceAbsent (s : State) (src path : Nat) : Bool :=
  absentTx s (if src < 4 then 16 * src + path % 16 else path) && decide (src < 4 ∨ 6 ≤ src)

/-- CAP_CONFIG. -/
def execCapConfig (h : CmdHdr) (ring : Nat) (cfg area len trig trig2 : Word) (s : State) : Out :=
  .next (ccpRun h 0x0060 (.capConfig h ring cfg area len trig trig2) (fun _ s =>
    let src := getBits cfg 0 3
    if 13 < ring then (s, fail stBadConfig)
    else if sourceAbsent s src (getBits cfg 8 6) then (s, fail stUnitAbsent)
    else if !configOk s ring (getBits area 16 16) (getBits area 0 16) len.toNat (getBits cfg 16 3) || decide (60 < getBits trig 24 8) then
      (s, fail stBadConfig)
    else if ringActive s ring || hostDmaMeets s (getBits area 16 16) (getBits area 0 16) then (s, fail stBusy)
    else
      let s := putConfig (dropStaged s ring) ring cfg area len trig trig2
      (putRing (setRing (fset (fset s F.capWrCnt ring 0) F.capRdCnt ring 0) ring ringIdle) ring {}, ok)) s)

/-- Whether the registers of a ring still hold what R276 accepts: register writes may have changed them since. -/
def regsOk (s : State) (r : Nat) : Bool :=
  configOk s r (fget s F.capAreaBaseBlk r) (fget s F.capAreaNblk r) (fget s F.capLen r) (fget s F.capCfgTrig r)

/-- CAP_ARM. -/
def execCapArm (h : CmdHdr) (ring : Nat) (s : State) : Out :=
  .next (ccpRun h 0x0061 (.capArm h ring) (fun _ s =>
    let fs := followers s ring
    if 13 < ring then (s, fail stBadConfig)
    else if fget s F.capCfgLinkEn ring = 1 then (s, fail stBadConfig)
    else if ringState s ring ≠ ringIdle then (s, fail stBusy)
    else if decide (fget s F.dmaStatusState 15 = 1) && !((List.range 16).any (ringActive s)) then (s, fail stBusy)
    else if (fs.any fun q => decide (ringState s q ≠ ringIdle) || !(followers s q).isEmpty) ||
        decide (1024 < fget s F.capTrig2Period ring) || !((ring :: fs).all (regsOk s)) then (s, fail stBadConfig)
    else if (ring :: fs).any fun q => sourceAbsent s (fget s F.capCfgSource q) (fget s F.capCfgPath q) then (s, fail stUnitAbsent)
    else
      let s' := (ring :: fs).foldl (fun s q =>
        putRing (setRing s q ringArmed) q { nextAt := if fget s F.capCfgTrig q = 1 then some (timeInstant s q) else none }) s
      if p1Ceiling < captureRate s' then (s, fail stCaptureBw) else (s', ok)) s)

/-- CAP_TRIGGER. -/
def execCapTrigger (h : CmdHdr) (ring : Nat) (s : State) : Out :=
  .next (ccpRun h 0x0062 (.capTrigger h ring) (fun _ s =>
    if 13 < ring ∨ !mayFire s ring 3 then (s, fail stBadConfig)
    else match fire s ring (some (hostStart s ring)) with
      | (s, true) => (s, ok)
      | (s, false) => (s, fail stBusy)) s)

/-- CAP_STOP: a ring that is neither ARMED nor RUNNING gives it nothing to stop. -/
def execCapStop (h : CmdHdr) (ring : Nat) (s : State) : Out :=
  .next (ccpRun h 0x0063 (.capStop h ring) (fun _ s =>
    if 13 < ring then (s, fail stBadConfig)
    else if !ringActive s ring then (s, fail stBadState)
    else (stopRing s ring stopHost, ok)) s)

/-- CAP_RELEASE. -/
def execCapRelease (h : CmdHdr) (ring : Nat) (s : State) : Out :=
  .next (ccpRun h 0x0064 (.capRelease h ring) (fun _ s =>
    if 13 < ring then (s, fail stBadConfig)
    else if ringState s ring ≠ ringIdle then (s, fail stBadState)
    else (setRing s ring ringFree, ok)) s)

/-- The offset of the first poisoned byte of data read, where there is one (R446). -/
def firstMarked (l : List (Byte × Bool)) : Option Nat := l.findIdx? fun b => b.2

/-- CAP_READ: the data, moved through P3, or MEM_POISON with the offset of the poisoned word within it (R279, R374, R376, R446; log
entry 82). -/
def execCapRead (h : CmdHdr) (ring block offset length : Nat) (faults : List WordFault) (s : State) : Out :=
  .next (ccpRun h 0x0065 (.capRead h ring block offset length faults) (fun _ s =>
    if decide (13 < ring) || decide (fget s F.capAreaNblk ring ≤ block) || decide (length < 4 ∨ 8180 < length) ||
        decide (65536 < offset + length) then (s, fail stBadConfig)
    else
      let a := blockAddr (fget s F.capAreaBaseBlk ring + block) + offset
      let n := codeWords a length
      let (l, s) := caveRead (moveBytes (openRowsOf (awaitWrites s a length) (a / 32) n) 3 (32 * n)) 3 a length faults
      match firstMarked l with
      | some k => (s, .done stMemPoison 0 [numTlv 1 k] false)
      | none => (s, okR [{ type := 1, value := l.map fun b => b.1 }])) s)

/-- A host write to CAP_RD_CNT takes effect within the unread range only (R278). -/
def capRdCntFx (r value : Nat) (s : State) : State :=
  let rd := fget s F.capRdCnt r
  if 13 < r then s
  else if (value + 2 ^ 32 - rd) % 2 ^ 32 ≤ (fget s F.capWrCnt r + 2 ^ 32 - rd) % 2 ^ 32 then fset s F.capRdCnt r value
  else s

/-- CAP_RD_CNT_WRITE. -/
def execCapRdCntWrite (ring : Nat) (value : Word) (s : State) : Out := .next (capRdCntFx ring value.toNat s)

/-! Stops that the modes bring (R275) -/

/-- Stops host rings in descending number until the rest fit beside Cox's own. -/
def fitRings (s : State) : State :=
  (List.range 14).reverse.foldl (fun s r =>
    if p1Ceiling < captureRate s ∧ ringActive s r then stopRing s r stopBandwidth else s) s

/-- Stops the rings on front-end and actuator sources of paths whose `F` has changed. -/
def rateStops (before after : Nat → Nat) (s : State) : State :=
  (List.range 16).foldl (fun s r =>
    let p := fget s F.capCfgPath r
    if 5 ≤ fget s F.capCfgSource r ∧ before p ≠ after p then stopRing s r stopRate else s) s

/-- Stops every ring for DORMANT. -/
def dormantStops (s : State) : State := (List.range 16).foldl (fun s r => stopRing s r stopDormant) s

/-! Loopback (R272) -/

/-- LOOPBACK_SET. -/
def execLoopbackSet (h : CmdHdr) (groups code : Nat) (s : State) : Out :=
  .next (ccpRun h 0x004C (.loopbackSet h groups code) (fun id s =>
    if beyond groups 4 || decide (3 < code) then (s, fail stBadConfig)
    else defer s h 0x004C id (gridOfGroups s groups) (.loopback groups code)) s)

/-- A diversion comes into force; RF sets SOURCE 0 and ENABLE on the group's switch lines, which name the path as they did. -/
def applyLoopback (s : State) (groups code : Nat) : State :=
  (unitsOf groups 4).foldl (fun s g =>
    let s := { s with rf := { s.rf with loopback := tset 0 s.rf.loopback g code } }
    let old := fget s F.orxSwState g
    if code = 3 then fset s F.orxSwState g (old / 64 * 64 + 16 + old % 16) else s) s

/-! The carrier command (R505) -/

/-- A value of a per-half item in its widest range. -/
def halvesIn (q : Option Halves) (lo hi : Int) : Bool :=
  match q with
  | none => true
  | some v => decide (lo ≤ v.h0 ∧ v.h0 ≤ hi) && (match v.h1 with | some x => decide (lo ≤ x ∧ x ≤ hi) | none => true)

/-- A per-half item lacks the second number that SPLIT requires (R429). -/
def lacksHalf (split : Bool) (q : Option Halves) : Bool :=
  match q with
  | some v => split && v.h1.isNone
  | none => false

/-- The TYPE of the first item at fault. -/
def firstAt (l : List (Nat × Bool)) : Option Nat := (l.find? fun p => p.2).map fun p => p.1

/-- Stores a per-half item: outside SPLIT the second number is ignored. -/
def takeHalves (split : Bool) (old : Int × Int) (q : Option Halves) : Int × Int :=
  match q with
  | none => old
  | some v => (v.h0, if split then v.h1.getD old.2 else old.2)

def natPair (p : Int × Int) : Nat × Nat := (p.1.toNat, p.2.toNat)
def intPair (p : Nat × Nat) : Int × Int := ((p.1 : Int), (p.2 : Int))

/-- CARRIER_SET. -/
def carrierBody (q : CarrierReq) (s : State) : State × Ans :=
  let split := isSplit s
  match firstAt [(1, lacksHalf split q.ncoHz), (2, lacksHalf split q.nPrb), (3, lacksHalf split q.shiftDl),
      (4, lacksHalf split q.shiftUl), (5, lacksHalf split q.fftAdv)] with
  | some t => (s, fail stBadParam t)
  | none =>
    let lim (v : Option Halves) : Option Halves := if split then v else v.map fun x => { x with h1 := none }
    if !(halvesIn (lim q.ncoHz) (-30720000) 30720000 && halvesIn (lim q.nPrb) 0 273 && halvesIn (lim q.shiftDl) (-1) 12 &&
        halvesIn (lim q.shiftUl) (-1) 12 && halvesIn (lim q.fftAdv) (-1) 288 && decide (q.phaseComp.getD 0 ≤ 1)) then
      (s, fail stBadConfig)
    else
      ({ s with rf := { s.rf with
          nco := takeHalves split s.rf.nco q.ncoHz, nPrb := natPair (takeHalves split (intPair s.rf.nPrb) q.nPrb),
          ofdmDl := takeHalves split s.rf.ofdmDl q.shiftDl, ofdmUl := takeHalves split s.rf.ofdmUl q.shiftUl,
          fftAdv := takeHalves split s.rf.fftAdv q.fftAdv } }, ok)

/-- CARRIER_SET: the items wait for the next mode entry (R505); PHASE_COMP, and with it the reply, for the next stroke (R31, R268). -/
def execCarrierSet (h : CmdHdr) (q : CarrierReq) (s : State) : Out :=
  .next (ccpRun h 0x0012 (.carrierSet h q) (fun id s =>
    match q.phaseComp, carrierBody q s with
    | some v, (t, .done 0 0 [] false) => defer t h 0x0012 id 0 (.phaseComp v)
    | _, r => r) s)

end Sys2Proof.Machine
end

