-- ==== Sys2Proof/Machine/Dpd.lean ====
section
/-! DEFINITION. Pre-distortion: the actuator, the model bank, model selection at strokes, the DPD commands, and the MRAM copies of
calibration (R288 to R296, R313 to R316). -/

namespace Sys2Proof.Machine

/-! The actuator (R288, R289) -/

/-- The floor of the square root of a number below 2^34. -/
def isqrt (n : Nat) : Nat := (List.range 17).foldl (fun r i => let t := r + 2 ^ (16 - i); if t * t ≤ n then t else r) 0

/-- amp of R288. -/
def amp (v : Cplx) : Nat := min 31 (isqrt (CplxOps.norm2 v).toNat / 1024)

/-- L[m][a] of a set; the empty set is bypass (R289). -/
def lutAt (lut : List Cplx) (m a : Nat) : Cplx :=
  if lut = [] then (if m = 0 then { re := 16384, im := 0 } else CplxOps.zero) else cnth lut (32 * m + a)

/-- A 40-bit register part. -/
def wrap40 (x : Int) : Int := signed 40 (unsign 40 x)

/-- One output sample from the last eight inputs, the newest first, and its clamps. -/
def actuate1 (lut xs : List Cplx) : Cplx × Nat :=
  let acc := (List.range 8).foldl (fun a m =>
    let v := cnth xs m
    CplxOps.mapParts wrap40 (CplxOps.add a (CplxOps.mul v (lutAt lut m (amp v))))) CplxOps.zero
  let y := CplxOps.mapParts (fun z => asr z 14) acc
  (CplxOps.mapParts sat16 y, (if clips16 y.re then 1 else 0) + (if clips16 y.im then 1 else 0))

/-- The actuator on a run of samples: the outputs, the clamps, and the history it leaves. -/
def actuate (lut : List Cplx) : List Cplx → List Cplx → List Cplx × Nat × List Cplx
  | hist, [] => ([], 0, hist)
  | hist, x :: xs =>
    let h := (x :: hist).take 8
    let (y, n) := actuate1 lut h
    let (ys, m, last) := actuate lut (h.take 7) xs
    (y :: ys, n + m, last)

/-! The model bank (R291) -/

/-- A slot of a path's bank. -/
def slotOf (s : State) (p k : Nat) : DpdRecord := tget {} s.cal.bank (8 * p + k)

def putSlot (s : State) (p k : Nat) (r : DpdRecord) : State :=
  { s with cal := { s.cal with bank := tset {} s.cal.bank (8 * p + k) r } }

/-- The 1,056 bytes of a record (R291). -/
def recordBytes (r : DpdRecord) : List Byte :=
  [BitVec.ofNat 8 ((if r.valid then 128 else 0) + (if r.prov then 64 else 0)), 0] ++ beBytes 2 r.trainIdx ++
    beBytes 4 r.freqKhz ++ beBytes 2 (unsign 16 r.nmse) ++ beBytes 2 (unsign 16 r.temp) ++ beBytes 6 r.lastUse ++
    beBytes 6 r.trained ++ List.replicate 8 0 ++ (coefBytes r.lut).take 1024 ++ List.replicate (1024 - 4 * r.lut.length) 0

/-- The record that bytes spell. -/
def recordFrom (b : List Byte) : DpdRecord :=
  let b0 := (nth (0 : Byte) b 0).toNat
  if b0 < 128 then {}
  else
    { valid := true, prov := decide (b0 / 64 % 2 = 1), trainIdx := beNat (slice b 2 2), freqKhz := beNat (slice b 4 4),
      nmse := signed 16 (beNat (slice b 8 2)), temp := signed 16 (beNat (slice b 10 2)), lastUse := beNat (slice b 12 6),
      trained := beNat (slice b 18 6), lut := coefOf (b.drop 32) 256,
      reservedZero := decide (b0 % 64 = 0 ∧ nth (0 : Byte) b 1 = 0) && (slice b 24 8).all fun x => decide (x = 0) }

/-! Clusters (R302, R313) -/

/-- A cluster's number. -/
def clusterOf (kind inst : Nat) : Nat := 64 * kind + inst

/-- A present cluster (R302). -/
def clusterPresent (s : State) (c : Nat) : Bool :=
  if c < 4 then true
  else if c < 64 then false
  else if c < 192 then true
  else if c < 448 then !absentTx s (c % 64) else false

def presentClusters (s : State) : List Nat := (List.range 448).filter (clusterPresent s)

def cluster (s : State) (c : Nat) : Cluster := tget {} s.cal.clusters c
def putCluster (s : State) (c : Nat) (x : Cluster) : State :=
  { s with cal := { s.cal with clusters := tset {} s.cal.clusters c x } }

/-- The LO group whose temperature a cluster has, and the half it belongs to. -/
def clusterGroup (c : Nat) : Nat := if c < 4 then c else c % 64 / 16
def clusterHalf (s : State) (c : Nat) : Nat := halfOfGroup s (clusterGroup c)

/-- Codes of a kind other than DAC_MM, in the order of R303: ORX_IL has ten, the others two. -/
def kindCodes (kind : Nat) : Nat := if kind = 0 then 10 else 2

/-- The 16 payload bytes of a cluster's codes; DAC_MM gives four cells per DAC, 0xFF unused (log entry 42). -/
def codesPayload (kind : Nat) (codes : List Int) : List Byte :=
  let l : List Int :=
    if kind = 5 then
      let dac (q : Int) : List Int := ((codes.filter fun c => decide (c / 64 = q)).map (· - 64 * q) ++ [255, 255, 255, 255]).take 4
      dac 0 ++ dac 1
    else codes
  (l.map fun c => BitVec.ofNat 8 (unsign 8 c)).take 16 ++ List.replicate (16 - l.length) 0

/-- The codes that payload bytes spell. -/
def payloadCodes (kind : Nat) (b : List Byte) : List Int :=
  if kind = 5 then
    (((b.take 4).filter fun x => decide (x ≠ 0xFF)).map fun x => (x.toNat : Int)) ++
      ((((b.drop 4).take 4).filter fun x => decide (x ≠ 0xFF)).map fun x => (64 + x.toNat : Int))
  else (List.range (kindCodes kind)).map fun i => signed 8 (nth (0 : Byte) b i).toNat

/-- Payload bytes of a cluster (R313). -/
def payloadLen (c : Nat) : Nat := if 384 ≤ c then 8448 else 16

/-- Queues the store of a cluster (R314). -/
def queueStore (s : State) (c : Nat) : State :=
  if s.cal.stores.contains c then s else { s with cal := { s.cal with stores := s.cal.stores ++ [c] } }

/-! Placement and selection (R292 to R294, R298, R311) -/

def absDiff (a b : Nat) : Nat := if a ≤ b then b - a else a - b

/-- The first element of a list with the least key. -/
def leastBy {α : Type} (key : α → Nat) (l : List α) : Option α :=
  l.foldl (fun b x => match b with
    | none => some x
    | some y => if key x < key y then some x else some y) none

/-- A path's slot in force, where it is not in bypass. -/
def slotInForce (s : State) (p : Nat) : Option Nat :=
  if dpdBypassed s p then none else some (fget s F.dpdStatusSlot p)

/-- The slot that an accepted model takes (R294). -/
def placeFor (s : State) (p : Nat) (r : DpdRecord) : Option Nat :=
  let near := (List.range 8).filter fun k => (slotOf s p k).valid && decide (absDiff (slotOf s p k).freqKhz r.freqKhz ≤ 5000)
  match leastBy (fun k => absDiff (slotOf s p k).freqKhz r.freqKhz) near with
  | some k => some k
  | none =>
    match (List.range 8).find? fun k => !(slotOf s p k).valid with
    | some k => some k
    | none => leastBy (fun k => (slotOf s p k).lastUse) ((List.range 8).filter fun k => decide (some k ≠ slotInForce s p))

/-- Places an accepted model. -/
def placeModel (s : State) (q : Nat × DpdRecord) : State :=
  match placeFor s q.1 q.2 with
  | some k => putSlot (bufWrite bufDpd s [q.1, k]) q.1 k q.2
  | none => s

/-- Carrier centre of a path in kHz (R262, R292). -/
def carrierKhz (s : State) (p : Nat) : Nat :=
  ((fget s F.loFreq (p / 16) : Int) + ofHalf s.rf.ncoF (halfOfGroup s (p / 16)) / 1000).toNat

/-- The drive index of R292. -/
def driveIdx (s : State) (p : Nat) : Nat :=
  (clampI 0 ((tableLen s (p / 16) : Int) - 1) (((tget 159 s.rf.step p : Nat) : Int) + tget 0 s.rf.trim p)).toNat

/-- Bypass reasons (R318). -/
def bypNoModel : Nat := 1
def bypOffLevel : Nat := 2
def bypHost : Nat := 3
def bypPoor : Nat := 4
def bypHold : Nat := 5

/-- One usable slot before another: the nearer frequency, then the later TRAINED, then the lower slot (R292). -/
def slotBefore (s : State) (p fc a b : Nat) : Bool :=
  let d (k : Nat) : Nat := absDiff (slotOf s p k).freqKhz fc
  decide (d a < d b) || (decide (d a = d b) && decide ((slotOf s p b).trained < (slotOf s p a).trained))

/-- select of R292: the slot, or the bypass reason. A POOR outcome puts its path in bypass at the next stroke; from then on R292
selects again, and while it gives no model the reason stays POOR (R298; log entry 84). -/
def selectModel (s : State) (p : Nat) : Nat ⊕ Nat :=
  if tget false s.cal.forced p then .inr bypHost
  else if tget false s.cal.hold p then .inr bypHold
  else if tget false s.cal.poor p && !dpdBypassed s p then .inr bypPoor
  else
    let fc := carrierKhz s p
    let near := (List.range 8).filter fun k => (slotOf s p k).valid && decide (absDiff (slotOf s p k).freqKhz fc ≤ 20000)
    let usable := near.filter fun k =>
      (slotOf s p k).prov || decide (absDiff (slotOf s p k).trainIdx (driveIdx s p) ≤ s.cal.idxTol)
    match usable.foldl (fun b k => match b with
        | none => some k
        | some j => if slotBefore s p fc k j then some k else some j) none with
    | some k => .inl k
    | none => .inr (if tget false s.cal.poor p then bypPoor else if near = [] then bypNoModel else bypOffLevel)

/-- Cox reads a path's bank: a slot with a poisoned word is cleared, and counted (R296). -/
def readBank (s : State) (p : Nat) : State :=
  each (List.range 8) s fun s k =>
    if (slotOf s p k).valid && bufMarked s bufDpd [p, k] then
      finc (finc (queueStore (putSlot (bufWrite bufDpd s [p, k]) p k {}) (clusterOf 6 p)) F.dpdPoisonCnt) F.poisonReadCnt
    else s

/-- A path takes its model or goes to bypass, and the model that is in force notes the use (R290 to R292). -/
def selectPath (s : State) (p : Nat) : State :=
  if absentTx s p then s
  else
    let s := readBank s p
    let s := fset s F.dpdStatusDriveIdx p (driveIdx s p)
    if rsm s (p / 16) < rsmLocked then
      (match slotInForce s p with
       | some k => putSlot s p k { slotOf s p k with lastUse := s.tm.uptime }
       | none => s)
    else
      match selectModel s p with
      | .inl k =>
        let r := slotOf s p k
        let s := putSlot s p k { r with lastUse := s.tm.uptime }
        let s := fset (fset (fset s F.dpdStatusBypass p 0) F.dpdStatusBypReason p 0) F.dpdStatusProv p (if r.prov then 1 else 0)
        let s := fset (fset s F.dpdStatusSlot p k) F.dpdStatusTrainIdx p r.trainIdx
        { s with cal := { s.cal with lutInForce := tset [] s.cal.lutInForce p r.lut, poor := tset false s.cal.poor p false } }
      | .inr reason =>
        let entered := !dpdBypassed s p && decide (reason = bypNoModel ∨ reason = bypOffLevel ∨ reason = bypPoor)
        let s := fset (fset (fset s F.dpdStatusBypass p 1) F.dpdStatusBypReason p reason) F.dpdStatusProv p 0
        let s := fset (fset s F.dpdStatusSlot p 0) F.dpdStatusTrainIdx p 0
        let s := { s with cal := { s.cal with lutInForce := tset [] s.cal.lutInForce p [] } }
        if entered then raise s 0x42 0 [(p : Int), (reason : Int)] else s

/-- Values that take effect at a stroke give their cluster its tag and uptime count (R318). -/
def noteEffect (s : State) (half c : Nat) : State :=
  let t := tagOfSlot (gridMu s half) (strokeSlot s half) 0
  putCluster s c { cluster s c with lastTag := tagBits t, lastUpt := s.tm.uptime }

/-- Results of accepted runs of a half take effect (R294, R303, R311), and rejected models leave the bank (R298). -/
def resultsStroke (half : Nat) (s : State) : State :=
  let mineP (p : Nat) : Bool := decide (halfOfGroup s (p / 16) = half)
  let mineC (c : Nat) : Bool := decide (clusterHalf s c = half)
  let banked := s.cal.banked.filter fun q => mineP q.1
  let cleared := s.cal.cleared.filter fun q => mineP q.1
  let codes := s.cal.newCodes.filter fun q => mineC q.1
  let s := { s with cal := { s.cal with
    banked := s.cal.banked.filter fun q => !banked.contains q,
    cleared := s.cal.cleared.filter fun q => !cleared.contains q,
    newCodes := s.cal.newCodes.filter fun q => !codes.contains q } }
  let s := cleared.foldl (fun s q => queueStore (putSlot s q.1 q.2 {}) (clusterOf 6 q.1)) s
  let s := banked.foldl (fun s q => noteEffect (placeModel s q) half (clusterOf 6 q.1)) s
  codes.foldl (fun s q => noteEffect (putCluster s q.1 { cluster s q.1 with codes := q.2 }) half q.1) s

/-- Model selection of a half's paths at a stroke. -/
def selectStroke (half : Nat) (s : State) : State := (halfPaths s half).foldl selectPath s

/-! DPD commands (R291, R295, R298, R300) -/

def applyDpdBypass (s : State) (paths : Nat) (force : Bool) : State :=
  (unitsOf paths 64).foldl (fun s p =>
    { s with cal := { s.cal with forced := tset false s.cal.forced p force,
                                 hold := if force then s.cal.hold else tset false s.cal.hold p false } }) s

def applyDpdSlot (s : State) (p k : Nat) (r : DpdRecord) : State :=
  queueStore (putSlot (bufWrite bufDpd s [p, k]) p k r) (clusterOf 6 p)

/-- DPD_BYPASS_CMD. -/
def execDpdBypassCmd (h : CmdHdr) (paths force : Nat) (s : State) : Out :=
  .next (ccpRun h 0x0050 (.dpdBypassCmd h paths force) (fun id s =>
    if namesAbsent s paths then (s, fail stUnitAbsent)
    else if beyond paths 64 || decide (1 < force) then (s, fail stBadConfig)
    else defer s h 0x0050 id (gridOfPaths s paths) (.dpdBypass paths (decide (force = 1)))) s)

/-- TRAIN_EN of a path is written; a change from 0 to 1 clears HOLD at the next round (R298, R312). -/
def putTrainEn (s : State) (p en : Nat) : State :=
  let up := decide (fget s F.dpdStatusTrainEn p = 0 ∧ en = 1)
  let s := fset s F.dpdStatusTrainEn p en
  if up then { s with cal := { s.cal with trainRise := tset false s.cal.trainRise p true } } else s

/-- DPD_TRAIN_EN. -/
def execDpdTrainEn (h : CmdHdr) (paths en : Nat) (s : State) : Out :=
  .next (ccpRun h 0x0051 (.dpdTrainEn h paths en) (fun _ s =>
    if namesAbsent s paths then (s, fail stUnitAbsent)
    else if beyond paths 64 || decide (1 < en) then (s, fail stBadConfig)
    else ((unitsOf paths 64).foldl (fun s p => putTrainEn s p en) s, ok)) s)

/-- TRAIN_EN_WRITE: a write of DPD_STATUS sets its one RW bit; an absent path ignores it (R318). -/
def execTrainEnWrite (path : Nat) (value : Word) (s : State) : Out :=
  .next (if 64 ≤ path ∨ absentTx s path then s else putTrainEn s path (getBits value 22 1))

/-- The status of a path and slot that a command names. -/
def slotCheck (s : State) (p k : Nat) : Option Nat :=
  if 64 ≤ p then some stBadConfig
  else if absentTx s p then some stUnitAbsent
  else if 8 ≤ k then some stBadConfig else none

/-- DPD_SLOT_READ: an uncorrectable read, of a word that is poisoned or one that the event finds so, clears the slot and counts
(R296, R446). -/
def execDpdSlotRead (h : CmdHdr) (path slot : Nat) (poisonAt : Option Nat) (s : State) : Out :=
  .next (ccpRun h 0x0052 (.dpdSlotRead h path slot poisonAt) (fun _ s =>
    match slotCheck s path slot with
    | some st => (s, fail st)
    | none =>
      match poisonAt.or (bufFirstMarked s bufDpd [path, slot]) with
      | some k =>
        let s := finc (finc (applyDpdSlot s path slot {}) F.dpdPoisonCnt) F.poisonReadCnt
        (s, .done stMemPoison 0 [numTlv 1 (k % 1056 / 8 * 8 : Nat)] false)
      | none => (s, okR [{ type := 1, value := recordBytes (slotOf s path slot) }])) s)

/-- The beam-side rate of a path's half in kSPS. -/
def rateOfPath (s : State) (p : Nat) : Nat := ofHalf s.md.full.cfg.rateKsps (halfOfGroup s (p / 16))

/-- A record that R295 accepts. -/
def recordOk (s : State) (p : Nat) (r : DpdRecord) : Bool :=
  r.valid && r.reservedZero && decide (r.trainIdx ≤ 159 ∧ 380000 ≤ r.freqKhz + rateOfPath s p / 16 ∧
    r.freqKhz ≤ 6000000 + rateOfPath s p / 16)

/-- DPD_SLOT_WRITE. -/
def execDpdSlotWrite (h : CmdHdr) (path slot : Nat) (record : DpdRecord) (s : State) : Out :=
  .next (ccpRun h 0x0053 (.dpdSlotWrite h path slot record) (fun id s =>
    match slotCheck s path slot with
    | some st => (s, fail st)
    | none =>
      if !recordOk s path record then (s, fail stBadConfig)
      else defer s h 0x0053 id (halfOfGroup s (path / 16)) (.dpdSlot path slot record)) s)

/-- DPD_SLOT_CLEAR. -/
def execDpdSlotClear (h : CmdHdr) (path slot : Nat) (s : State) : Out :=
  .next (ccpRun h 0x0054 (.dpdSlotClear h path slot) (fun id s =>
    match slotCheck s path slot with
    | some st => (s, fail st)
    | none => defer s h 0x0054 id (halfOfGroup s (path / 16)) (.dpdSlot path slot {})) s)

/-! Stores (R314) -/

/-- The payload of a cluster: its values with what is accepted and not yet in force. -/
def clusterPayload (s : State) (c : Nat) : List Byte :=
  if 384 ≤ c then
    let p := c % 64
    let s' := (s.cal.banked.filter fun q => decide (q.1 = p)).foldl placeModel
      ((s.cal.cleared.filter fun q => decide (q.1 = p)).foldl (fun s q => putSlot s q.1 q.2 {}) s)
    (List.range 8).flatMap fun k => recordBytes (slotOf s' p k)
  else
    codesPayload (c / 64) (match s.cal.newCodes.find? fun q => decide (q.1 = c) with
      | some q => q.2
      | none => (cluster s c).codes)

/-- The first queued store of a cluster. -/
def mramStoreFx (mismatches : Nat) (s : State) : State :=
  match s.cal.stores with
  | [] => s
  | c :: t =>
    if s.md.mode = .dormant ∨ s.md.mode = .recovery ∨ !coxRuns s then s
    else
      let s := { s with cal := { s.cal with stores := t } }
      let s := if 384 ≤ c then readBank s (c % 64) else s
      match storeCopy s c (clusterPayload s c) (cluster s c).copyB mismatches with
      | (s, true) => putCluster s c { cluster s c with copyB := !(cluster s c).copyB }
      | (s, false) => raise (fset s F.calStoreStatusStoreFail 0 1) 0x44 0 [(c : Int)]

/-- MRAM_STORE. -/
def execMramStore (mismatches : Nat) (s : State) : Out := .next (mramStoreFx mismatches s)

/-- Loads every cluster at start-up: the valid copy, else the factory record and UNCAL; a DPD bank without one is empty (R315,
R316). Every cluster is due once (R305). -/
def loadCluster (s : State) (c : Nat) : State :=
  let x : Cluster := { due := true }
  match bestCopy s c (payloadLen c) with
  | some (m, b) =>
    if 384 ≤ c then
      let s := (List.range 8).foldl (fun s k => putSlot s (c % 64) k (recordFrom ((m.payload.drop (1056 * k)).take 1056))) s
      putCluster s c { x with copyB := b }
    else putCluster s c { x with copyB := b, codes := payloadCodes (c / 64) m.payload }
  | none => putCluster s c { x with uncal := true, codes := if 384 ≤ c then [] else Config.factoryCodes c }

def loadClusters (s : State) : State := (presentClusters s).foldl loadCluster s

end Sys2Proof.Machine
end

