-- ==== Sys2Proof/Machine/Cal.lean ====
section
/-! DEFINITION. Calibration and DPD runs: triggers, the order of runs, captures, estimates, outcomes, commands (R297 to R312). -/

namespace Sys2Proof.Machine

/-! Reasons and outcomes (R318) -/

def rPower : Nat := 1
def rOccupancy : Nat := 2
def rClip : Nat := 3
def rNoWindow : Nat := 4
def rCaptureDrop : Nat := 5
def rDisturbed : Nat := 6
def rInterrupted : Nat := 7
def rCaptureBw : Nat := 8
def rTimeout : Nat := 9
def rRange : Nat := 0xA
def rStep : Nat := 0xB
def rNmse : Nat := 0xC
def rGain : Nat := 0xD
def outAccepted : Nat := 1
def outDeferred : Nat := 2
def outRejected : Nat := 3

/-- Runs of an RX kind need RX, the others TX (R304). -/
def rxKind (c : Nat) : Bool := decide (c / 64 = 1 ∨ c / 64 = 2)

/-- A kind's runs take place in the present mode (R302). -/
def kindRuns (s : State) (c : Nat) : Bool := activeMode s.md.mode && (rxKind c || decide (s.md.mode ≠ .listen))

/-- Temperature of a cluster, and its move since its reference (R302, R305). -/
def clusterTemp (s : State) (c : Nat) : Int := groupTemp s (clusterGroup c)

def tempMove (s : State) (c : Nat) : Int :=
  match (cluster s c).refTemp with
  | some r => clusterTemp s c - r
  | none => 0

/-! Due runs (R300, R305, R307) -/

/-- A kind's automatic runs are enabled, by the setting in force since the last round (R305, R312). -/
def kindEnabled (s : State) (c : Nat) : Bool := s.cal.kindEn.testBit (c / 64)

/-- A DPD run due because of the path's bypass or a PROV model (R300). -/
def dpdWants (s : State) (p : Nat) : Bool :=
  let r := fget s F.dpdStatusBypReason p
  (dpdBypassed s p && decide (r = bypNoModel ∨ r = bypOffLevel ∨ r = bypPoor)) || decide (fget s F.dpdStatusProv p = 1)

/-- A cluster is due without a command. -/
def dueAlone (s : State) (c : Nat) : Bool :=
  kindEnabled s c &&
    (if 384 ≤ c then
      let p := c % 64
      decide (tget 1 s.cal.trainEn p = 1) && !tget false s.cal.hold p && (dpdWants s p || (cluster s c).due)
    else (cluster s c).due)

/-- DUE of a cluster: alone, or by command. -/
def clusterDue (s : State) (c : Nat) : Bool := dueAlone s c || s.cal.requests.contains c

/-- The temperature trigger of one cluster in a round (R305). -/
def calTrigger (s : State) (c : Nat) : State :=
  let dt := fget s F.calCfgCalDt
  let x := cluster s c
  match x.refTemp with
  | none => s
  | some r =>
    let d := clusterTemp s c - r
    if dt ≠ 0 ∧ kindEnabled s c ∧ !x.due ∧ (10 * (dt : Int) < d ∨ 10 * (dt : Int) < -d) then putCluster s c { x with due := true } else s

/-- Class of a due run (R307): 1 commanded, 2 ORX_IL, 3 DPD of the first two cases of R300, 4 the others. -/
def runClass (s : State) (c : Nat) : Nat :=
  if s.cal.requests.contains c then 1
  else if c < 4 then 2
  else if 384 ≤ c ∧ dpdWants s (c % 64) then 3 else 4

/-- Place of a due run in the order of R307, the least first. -/
def runKey (s : State) (c : Nat) : Nat :=
  let k := runClass s c
  let last := if (cluster s c).deferred then 1 else 0
  let third := if k = 1 then (s.cal.requests.findIdx? fun r => decide (r = c)).getD 0
    else if k = 4 then 100000 - (match (cluster s c).refTemp with
      | some _ => min 99999 (tempMove s c).natAbs
      | none => 10 * fget s F.calCfgCalDt)
    else 0
  ((k * 2 + last) * 1000000 + third) * 1000 + c

/-- Runs are suspended: the mode reserves crew 31, which does not work (R154). -/
def trainerHeld (s : State) : Bool := crewReserved s && !unitWorks s (uCrew 31)

/-- The run that a round starts (R307). -/
def nextRun (s : State) : Option Nat :=
  leastBy (runKey s) ((presentClusters s).filter fun c => clusterDue s c && kindRuns s c)

/-! The end of a run (R308 to R310) -/

/-- Rings 14 and 15 come to rest; what they hold in staging is discarded (R301). -/
def calRings (s : State) : State :=
  [14, 15].foldl (fun s r => if ringActive s r then setRing (freeOrx (dropStaged s r) r) r ringIdle else s) s

/-- The result items of a calibration command: per cluster its outcome and reason (log entry 43). -/
def calResults (s : State) (l : List Nat) : List Tlv :=
  l.mapIdx fun i c => numsTlv (i + 1) [((cluster s c).outcome : Int), ((cluster s c).reason : Int)]

/-- Completes a calibration command; its requests lapse unless another command made them too (R310). -/
def completeCal (s : State) (q : CalCmd) : State :=
  let others := (s.cal.cmds.filter fun r => decide (r ≠ q)).flatMap fun r => r.clusters
  let s := { s with cal := { s.cal with
    cmds := s.cal.cmds.erase q,
    requests := s.cal.requests.filter fun c => !q.clusters.contains c || others.contains c } }
  completeAs s 0x040 { hdr := q.hdr, opcode := 0x0056 } stOk 0 (calResults s q.clusters)

/-- A cluster has ended a run ACCEPTED or REJECTED: its requests are served, and commands whose clusters have all ended
complete. -/
def serveRequests (s : State) (c : Nat) : State :=
  let x := cluster s c
  let mark (q : CalCmd) : CalCmd :=
    if q.clusters.contains c ∧ !(q.ended.any fun e => decide (e.1 = c)) then
      { q with ended := q.ended ++ [(c, x.outcome, x.reason)] } else q
  let s := { s with cal := { s.cal with cmds := s.cal.cmds.map mark, requests := s.cal.requests.filter fun r => decide (r ≠ c) } }
  (s.cal.cmds.filter fun q => q.clusters.all fun k => q.ended.any fun e => decide (e.1 = k)).foldl completeCal s

/-- The run in progress ends with an outcome and a reason (R308). -/
def endRun (s : State) (outcome reason : Nat) : State :=
  match s.cal.run with
  | none => s
  | some r =>
    let c := r.cluster
    let x := cluster s c
    let x := { x with outcome := outcome, reason := reason, deferred := decide (outcome = outDeferred) }
    let x := if outcome = outAccepted then { x with accCnt := satN 32 (x.accCnt + 1), uncal := false }
      else if outcome = outDeferred then { x with defCnt := satN 32 (x.defCnt + 1) }
      else { x with rejCnt := satN 32 (x.rejCnt + 1) }
    let x := if outcome = outDeferred then x else { x with refTemp := some r.temp, due := false }
    let s := putCluster (calRings { s with cal := { s.cal with run := none } }) c x
    let s := if outcome = outRejected then raise s 0x41 (c / 64) [(c : Int), (reason : Int)] else s
    if outcome = outDeferred then s else serveRequests s c

/-- An event of R309 ends the run. -/
def interruptRun (s : State) : State := endRun s outDeferred rInterrupted

/-! The start of a run (R297, R302, R307) -/

/-- The path that a run observes: its own, and for ORX_IL the lowest TX path IN_SERVICE of the group. -/
def runPath (s : State) (c : Nat) : Nat :=
  if c < 4 then 16 * c + ((List.range 16).find? fun i => decide (unitState s (uTx (16 * c + i)) = 0)).getD 0 else c % 64

/-- Cox configures one of its rings: its area, its source and its length, with trigger COX. -/
def coxRing (s : State) (r : Nat) (link : Bool) (dec path src len : Nat) : State :=
  let (base, nblk) := Config.coxArea r
  let n := 2 + nblk % 40958
  let cfg := (if link then 2 ^ 30 + 14 * 2 ^ 26 else 0) + dec * 2 ^ 24 + 4 * 2 ^ 16 + path * 2 ^ 8 + src
  let area := base % (40960 - n + 1) * 2 ^ 16 + n
  let s := putConfig (dropStaged s r) r (BitVec.ofNat 32 cfg) (BitVec.ofNat 32 area) (BitVec.ofNat 32 len) 0 0
  putRing (setRing (fset (fset s F.capWrCnt r 0) F.capRdCnt r 0) r ringArmed) r {}

/-- Arms the captures of a run, with the decimation of ring 14 (R297, R302): the ring that its trigger names. -/
def armRun (s : State) (c dec : Nat) : State × Nat :=
  let p := runPath s c
  if rxKind c then (coxRing s 15 false 0 p 4 65472, 15)
  else if c < 4 then (coxRing s 14 false 0 p c 261888, 14)
  else
    let s := coxRing s 14 false dec p (p / 16) (if dec = 0 then 261888 else 130944)
    (coxRing s 15 true 0 p 6 (130944 * rateOfPath s p / 983040), 14)

/-- Whether Cox's rings can be armed for a cluster under R37, and with which decimation (R274, R297). -/
def armChoice (s : State) (c : Nat) : Option Nat :=
  let fits (d : Nat) : Bool := decide (captureRate (armRun s c d).1 ≤ p1Ceiling)
  if s.md.mode ≠ .service then some 1
  else if fits 0 then some 0 else if fits 1 then some 1 else none

/-- Length of a capture of Cox in 2⁻¹⁶ ns: 133.20 µs. -/
def coxSpan : Nat := 133200 * fp

/-- Length of a symbol in 2⁻¹⁶ ns. -/
def symbolFp (mu : Nat) (n : Int) (l : Nat) : Nat := unitsFp mu (2192 + if longCp mu n l then 16 * 2 ^ mu else 0)

/-- A symbol of a group's pattern has a direction. -/
def patternOn (s : State) (g : Nat) (rx : Bool) (n : Int) (l : Nat) : Bool :=
  let c := codeOf s g n l
  if rx then decide (c = 2 ∨ c = 3) else decide (c = 1 ∨ c = 3)

/-- Length of the run of a group's pattern in a direction from a symbol on, over at most `k` symbols, in 2⁻¹⁶ ns. -/
def runFrom (s : State) (g : Nat) (rx : Bool) : Nat → Int → Nat → Nat
  | 0, _, _ => 0
  | k + 1, n, l =>
    if patternOn s g rx n l then
      symbolFp (gridMu s (halfOfGroup s g)) n l + (if l < 13 then runFrom s g rx k n (l + 1) else runFrom s g rx k (n + 1) 0)
    else 0

/-- The first symbol start at or after an instant from which a capture of Cox lies within one run of the group's pattern in a direction
(R304). -/
def windowFrom (s : State) (g : Nat) (rx : Bool) (at' : Int) : Option Int :=
  let half := halfOfGroup s g
  let n0 := at' / (slotFp (gridMu s half) : Int)
  let syms := (List.range (14 * (2 * (patternOf s g (gridMu s half)).period + 2))).map fun i => (n0 + (i / 14 : Nat), i % 14)
  (syms.find? fun p => decide (at' ≤ ballStart s half p.1 p.2) && patternOn s g rx p.1 p.2 &&
    decide (coxSpan ≤ runFrom s g rx 28 p.1 p.2)).map fun p => ballStart s half p.1 p.2

/-- What a capture finds in force: carrier centre, drive index, bypass, the LUT set and its slot (R297, R299, R301). -/
def viewRun (s : State) (r : CalRun) : CalRun :=
  let p := runPath s r.cluster
  { r with freqKhz := carrierKhz s p, driveIdx := driveIdx s p, bypass := dpdBypassed s p, lut := tget [] s.cal.lutInForce p,
           slot := fget s F.dpdStatusSlot p }

/-- Cox requests the capture of its run once the window is less than a slot off, which a busy ORX may drop (R281, R283, R304; log entry
169). -/
def requestRun (s : State) : State :=
  match s.cal.run with
  | none => s
  | some r =>
    let half := clusterHalf s r.cluster
    if r.requested || decide (uFp s + hostDelay s (clusterGroup r.cluster) + (slotFp (gridMu s half) : Nat) < r.first) then s
    else
      let s := { s with cal := { s.cal with run := some { r with requested := true } } }
      match fire s (if rxKind r.cluster then 15 else 14) (some r.first) with
      | (s, true) => s
      | (s, false) => endRun s outDeferred rCaptureDrop

/-- Starts a run (R307): a pattern without a window and a capture that R37 refuses end it at once. -/
def startRun (s : State) (c : Nat) : State :=
  let x := cluster s c
  let g := clusterGroup c
  let start := windowFrom s g (rxKind c) (uFp s + hostDelay s g)
  let r : CalRun :=
    { cluster := c, first := start.getD 0,
      nmseMax := fget s F.dpdCfgNmseMax, mu := fget s F.dpdCfgMu, pmin := fget s F.calPrecondCalPmin,
      pmax := fget s F.calPrecondCalPmax, occ := fget s F.calPrecondCalOcc, temp := clusterTemp s c }
  let s := putCluster { s with cal := { s.cal with run := some (viewRun s r) } } c { x with runCnt := satN 32 (x.runCnt + 1) }
  if start.isNone then endRun s outDeferred rNoWindow
  else
    match armChoice s c with
    | none => endRun s outDeferred rCaptureBw
    | some d => requestRun (armRun s c d).1

/-- The settings of R312 come into force: DPD_IDX_TOL, KIND_EN and TRAIN_EN, whose rise ends HOLD (R298). -/
def takeCalSettings (s : State) : State :=
  { s with cal := { s.cal with
      idxTol := fget s F.dpdCfgIdxTol, kindEn := fget s F.calCfgKindEn, trainRise := [],
      trainEn := (List.range 64).foldl (fun t p => tset 1 t p (fget s F.dpdStatusTrainEn p)) [],
      hold := (List.range 64).foldl (fun t p => if tget false s.cal.trainRise p then tset false t p false else t) s.cal.hold } }

/-- The calibration part of a housekeeping round (R305, R307, R312). -/
def calRound (s : State) : State :=
  let s := (presentClusters s).foldl calTrigger (takeCalSettings s)
  if s.cal.run.isSome || trainerHeld s then s
  else match nextRun s with
    | some c => startRun s c
    | none => s

/-! Captures and estimates (R297 to R299, R304, R306) -/

/-- The saturation counts of a path: DFE_SAT_CNT, OFDM_SAT_CNT and DPD_SAT_CNT. -/
def satCounts (s : State) (p : Nat) : Nat := tget 0 s.rf.dfeSat p + tget 0 s.rf.ofdmSat p + tget 0 s.cal.dpdSat p

/-- A saturation count of the run's path has moved since its capture began (R304). -/
def satMoved (s : State) (r : CalRun) : Bool :=
  match r.sats with
  | some k => decide (k < satCounts s (runPath s r.cluster))
  | none => false

/-- The capture is complete: its values are taken and the preconditions checked in order (R304). -/
def calCaptureDoneFx (m : CapMeasure) (s : State) : State :=
  match s.cal.run with
  | none => s
  | some r =>
    if r.captured || !r.requested || !coxRuns s then s
    else
      let r := { r with captured := true, temp := clusterTemp s r.cluster }
      let s := calRings { s with cal := { s.cal with run := some r } }
      if !m.window || r.windowOff then endRun s outDeferred rNoWindow
      else if m.levelDb < r.pmax ∨ r.pmin < m.levelDb then endRun s outDeferred rPower
      else if r.occ ≠ 0 ∧ m.occupancy < r.occ then endRun s outDeferred rOccupancy
      else if m.clipped || satMoved s r then endRun s outDeferred rClip
      else s

/-- CAL_CAPTURE_DONE. -/
def execCalCaptureDone (m : CapMeasure) (s : State) : Out := .next (calCaptureDoneFx m s)

/-- Supervision fails: the model of the capture leaves the bank, where it still stands there, the path goes to bypass and its
cluster is due again; the third time without an accepted run it goes to HOLD (R298, R301). -/
def poorRun (s : State) (r : CalRun) : State :=
  let p := r.cluster % 64
  let gone := if (slotOf s p r.slot).lut = r.lut then [(p, r.slot)] else []
  let s := { s with cal := { s.cal with cleared := s.cal.cleared ++ gone, poor := tset false s.cal.poor p true } }
  let s := putCluster s (clusterOf 6 p) { cluster s (clusterOf 6 p) with due := true }
  let s := fset s F.dpdStatusPoorRun p (satN 2 (fget s F.dpdStatusPoorRun p + 1))
  if 3 ≤ fget s F.dpdStatusPoorRun p ∧ !tget false s.cal.hold p then
    raise { s with cal := { s.cal with hold := tset false s.cal.hold p true } } 0x43 0 [(p : Int)]
  else s

/-- C of R297 from the set in force and the fitted set. -/
def newLut (old fit : List Cplx) (mu : Nat) : List Cplx :=
  (List.range 256).map fun i =>
    let o := lutAt old (i / 32) (i % 32)
    CplxOps.add o (CplxOps.mapParts (fun v => asr v mu) (CplxOps.sub (cnth fit i) o))

/-- Some |C[0][a]| lies outside 4,096 to 32,767 (R299). -/
def gainBad (c : List Cplx) : Bool :=
  (List.range 32).any fun a => decide (CplxOps.norm2 (cnth c a) < 4096 * 4096 ∨ 32767 * 32767 < CplxOps.norm2 (cnth c a))

/-- A DPD run's estimate is complete (R298, R299). -/
def dpdRunEndFx (e : DpdEstimate) (s : State) : State :=
  match s.cal.run with
  | none => s
  | some r =>
    if r.cluster < 384 ∨ !r.captured ∨ !coxRuns s then s
    else
      let p := r.cluster % 64
      let lim : Int := -(10 * (r.nmseMax : Int))
      if !r.bypass ∧ lim < e.nmseNow then poorRun (endRun s outRejected rNmse) r
      else if lim < e.nmseFit ∨ e.nmseNow + 10 < e.nmseFit then endRun s outRejected rNmse
      else
        let c := newLut r.lut e.fit r.mu
        if gainBad c then endRun s outRejected rGain
        else
          let (f, s) := drawFree s
          let m : DpdRecord :=
            { valid := true, prov := r.bypass, trainIdx := r.driveIdx, freqKhz := r.freqKhz, nmse := e.nmseFit, temp := r.temp,
              lastUse := f % 2 ^ 48, trained := s.tm.uptime, lut := c }
          let s := fset { s with cal := { s.cal with banked := s.cal.banked ++ [(p, m)], poor := tset false s.cal.poor p false } }
            F.dpdStatusPoorRun p 0
          endRun (queueStore s r.cluster) outAccepted 0

/-- DPD_RUN_END. -/
def execDpdRunEnd (e : DpdEstimate) (s : State) : Out := .next (dpdRunEndFx e s)

/-- Largest change per run of a kind (R303). -/
def stepLimit (kind : Nat) : Nat := if kind = 5 then 2 else if kind = 2 ∨ kind = 4 then 8 else 4

/-- Cells of one DAC in a cell set. -/
def dacCells (q : Int) (l : List Int) : List Int := l.filter fun c => decide (c / 64 = q)

/-- Codes outside their range (R303, R306). -/
def codesOut (kind : Nat) (l : List Int) : Bool :=
  if kind = 5 then
    decide (4 < (dacCells 0 l).length ∨ 4 < (dacCells 1 l).length) || (l.any fun c => decide (c < 0 ∨ 127 ≤ c ∨ c = 63))
  else decide (l.length ≠ kindCodes kind) || l.any fun c => decide (c < -31 ∨ 31 < c)

/-- Codes that move further than a run may (R303, R306). -/
def codesStep (kind : Nat) (old new : List Int) : Bool :=
  let lim := stepLimit kind
  if kind = 5 then
    let moved (q : Int) : Bool :=
      decide (lim < ((dacCells q new).filter fun c => !(dacCells q old).contains c).length) ||
        decide (lim < ((dacCells q old).filter fun c => !(dacCells q new).contains c).length)
    moved 0 || moved 1
  else (List.zip old new).any fun p => decide (lim < (p.2 - p.1).natAbs)

/-- A blind-calibration run's estimate is complete (R306). -/
def calRunEndFx (codes : List Int) (s : State) : State :=
  match s.cal.run with
  | none => s
  | some r =>
    if 384 ≤ r.cluster ∨ !r.captured ∨ !coxRuns s then s
    else
      let k := r.cluster / 64
      let x := cluster s r.cluster
      if codesOut k codes then endRun s outRejected rRange
      else if !x.uncal ∧ codesStep k x.codes codes then endRun s outRejected rStep
      else
        let s := { s with cal := { s.cal with
          newCodes := (s.cal.newCodes.filter fun q => decide (q.1 ≠ r.cluster)) ++ [(r.cluster, codes)] } }
        endRun (queueStore s r.cluster) outAccepted 0

/-- CAL_RUN_END. -/
def execCalRunEnd (codes : List Int) (s : State) : Out := .next (calRunEndFx codes s)

/-- CAL_TIMEOUT: a run that a Cox restart interrupts ends with that reason when Cox resumes (R309). -/
def execCalTimeout (s : State) : Out := .next (if coxRuns s then endRun s outDeferred rTimeout else s)

/-- CAL_COMMAND_TIMEOUT: 5 s after the reply the completion carries the outcomes so far (R310). -/
def execCalCommandTimeout (h : CmdHdr) (s : State) : Out :=
  .next (match s.cal.cmds.find? fun q => decide (q.hdr = h) with
    | some q => completeCal s q
    | none => s)

/-! Disturbances (R301) -/

/-- What a stroke must leave as it is for the capture of a run: carrier centre, drive index, bypass, unit and radio state. -/
def runView (s : State) (c : Nat) : Nat × Nat × Bool × Bool × Bool :=
  let p := runPath s c
  let st := rsm s (clusterGroup c)
  (carrierKhz s p, driveIdx s p, dpdBypassed s p,
   if rxKind c then rxWorks s p else txWorks s p, if rxKind c then inRx st else inTx st)

/-- The stroke of a half falls between the first and the last sample of the run's capture. -/
def capturing (s : State) (half : Nat) (r : CalRun) : Bool :=
  let at' := slotStart s half (strokeSlot s half)
  !r.captured && decide (r.first < at') && decide (at' < r.first + (coxSpan : Nat))

/-- After a stroke's changes: a capture that they disturbed ends its run. `banked` lists the paths that host bank commands
changed. -/
def disturbStroke (half : Nat) (before : State) (banked : List Nat) (s : State) : State :=
  match s.cal.run with
  | none => s
  | some r =>
    let p := runPath before r.cluster
    let v := runView s r.cluster
    if capturing s half r && (decide (v ≠ runView before r.cluster) || banked.contains p || !v.2.2.2.1 || !v.2.2.2.2) then
      endRun s outDeferred rDisturbed
    else if !r.captured && decide (slotStart s half (strokeSlot s half) ≤ r.first) then
      requestRun { s with cal := { s.cal with run := some (viewRun s r) } }
    else s

/-- A symbol boundary within a capture: the first one takes the path's saturation counts; a group outside the needed direction spoils
the capture (R304). -/
def watchWindow (half : Nat) (s : State) : State :=
  match s.cal.run with
  | none => s
  | some r =>
    let st := rsm s (clusterGroup r.cluster)
    if decide (clusterHalf s r.cluster = half ∧ r.first ≤ uFp s ∧ uFp s < r.first + (coxSpan : Nat)) && !r.captured then
      { s with cal := { s.cal with run := some { r with
          sats := r.sats.or (some (satCounts s (runPath s r.cluster))),
          windowOff := r.windowOff || !(if rxKind r.cluster then inRx st else inTx st) } } }
    else s

/-! Commands (R300, R302, R308, R310) -/

/-- The status of a calibration command's cluster list. -/
def calRunCheck (s : State) (l : List Nat) : Option (Nat × Nat) :=
  if l = [] ∨ 64 < l.length then some (stBadParam, 1)
  else if l.any fun c => !clusterPresent s c then some (stBadConfig, 0)
  else if l.any fun c => !kindRuns s c then some (stWrongMode, 0)
  else if l.any fun c => decide (384 ≤ c) && tget false s.cal.hold (c % 64) then some (stBusy, 0)
  else if l.any fun c => (armChoice s c).isNone then some (stCaptureBw, 0)
  else none

/-- CAL_RUN. -/
def execCalRun (h : CmdHdr) (clusters : List Nat) (s : State) : Out :=
  .next (ccpRun h 0x0056 (.calRun h clusters) (fun _ s =>
    match calRunCheck s clusters with
    | some (st, dt) => (s, fail st dt)
    | none => (s, .accept fun s => { s with cal := { s.cal with
        cmds := s.cal.cmds ++ [{ hdr := h, clusters := clusters, ended := [] }],
        requests := clusters.foldl (fun l c => if l.contains c then l else l ++ [c]) s.cal.requests } })) s)

/-- CAL_STATE of a cluster (R318). -/
def calStateWord (s : State) (c : Nat) : Word :=
  let x := cluster s c
  let bit (b : Bool) (n : Nat) : Nat := if b then 2 ^ n else 0
  let running := decide (s.cal.run.map (fun r => r.cluster) = some c)
  BitVec.ofNat 32 (bit x.uncal 31 + bit (clusterDue s c) 30 + bit running 29 + bit (s.cal.requests.contains c) 28 +
    x.outcome * 2 ^ 26 + x.reason * 2 ^ 20 + unsign 8 (clampI (-127) 127 (Int.tdiv (tempMove s c) 5)) * 2 ^ 8)

/-- Slot headers of a path: 8 × 32 bytes. -/
def slotHeaders (s : State) (p : Nat) : List Byte := (List.range 8).flatMap fun k => (recordBytes (slotOf s p k)).take 32

/-- CAL_STATUS. -/
def execCalStatus (h : CmdHdr) (c : Nat) (clear : Option Nat) (s : State) : Out :=
  .next (ccpRun h 0x0057 (.calStatus h c clear) (fun _ s =>
    if !clusterPresent s c then (s, fail stBadConfig)
    else
      let x := cluster s c
      let codes := if 384 ≤ c then slotHeaders s (c % 64) else codesPayload (c / 64) x.codes
      let running := decide (s.cal.run.map (fun r => r.cluster) = some c)
      let s' := if clear.getD 0 = 0 then s
        else putCluster s c { x with runCnt := if running then 1 else 0, accCnt := 0, defCnt := 0, rejCnt := 0 }
      (s', okR [{ type := 1, value := codes }, numTlv 2 (calStateWord s c).toNat, numTlv 3 x.runCnt, numTlv 4 x.accCnt,
        numTlv 5 x.defCnt, numTlv 6 x.rejCnt])) s)

/-- DPD_STATUS with its computed bit: DUE; an absent path reads 0 (R318). -/
def dpdStatusWord (s : State) (p : Nat) : Word :=
  if absentTx s p then 0
  else putBits (rget s (F.dpdStatusBypass.addr p)) 21 1 (if clusterDue s (clusterOf 6 p) then 1 else 0)

/-- DPD_STATUS_CMD. -/
def execDpdStatusCmd (h : CmdHdr) (path : Nat) (s : State) : Out :=
  .next (ccpRun h 0x0055 (.dpdStatusCmd h path) (fun _ s =>
    match slotCheck s path 0 with
    | some st => (s, fail st)
    | none => (s, okR [numTlv 1 (dpdStatusWord s path).toNat, { type := 2, value := slotHeaders s path },
        numTlv 3 (tget 0 s.cal.dpdSat path : Nat)])) s)

end Sys2Proof.Machine
end

