-- ==== Sys2Proof/Machine/WeightStore.lean ====
section
/-! DEFINITION. The per-user weight store: entries, lookups, estimation, changes at strokes and ageing (R194 to R221). -/

namespace Sys2Proof.Machine

/-! Entries (R194 to R197) -/

/-- A weight-store entry. `state`: 0 EMPTY, 1 LIVE, 2 STALE, 3 INVALID. -/
structure Entry where
  tag : Nat
  state : Nat
  origin : Nat
  quality : Int
  updCnt : Nat
  lastHeard : Nat
  coef : List Cplx
deriving DecidableEq, Repr

/-- An entry from its 288 bytes (R194). -/
def entryOf (b : List Byte) : Entry :=
  let st := (nth (0 : Byte) b 4).toNat
  { tag := beNat (slice b 0 4), state := st / 64, origin := st / 32 % 2, quality := signed 16 (beNat (slice b 6 2)),
    updCnt := beNat (slice b 8 4), lastHeard := beNat (slice b 12 6), coef := coefOf (b.drop 32) 64 }

/-- The 288 bytes of an entry; reserved bytes are 0. -/
def entryBytes (e : Entry) : List Byte :=
  beBytes 4 e.tag ++ [BitVec.ofNat 8 (e.state * 64 + e.origin * 32), 0] ++ beBytes 2 (unsign 16 e.quality) ++
    beBytes 4 e.updCnt ++ beBytes 6 e.lastHeard ++ List.replicate 14 0 ++ (coefBytes e.coef).take 256 ++
    List.replicate (256 - (coefBytes e.coef).length) 0

/-- LIVE or STALE (R195). -/
def Entry.holds (e : Entry) : Bool := decide (e.state = 1 ∨ e.state = 2)

/-- Uptime counts of 125 µs in one minute. -/
def minuteCounts : Nat := 480000

/-- The idle time of an entry in uptime counts; LAST_HEARD has 48 bits, and one that an import has set may lie before the count's zero
(R196, R218). -/
def idleOf (s : State) (e : Entry) : Nat := (((s.tm.uptime : Int) - e.lastHeard) % (2 ^ 48 : Int)).toNat

/-- Idle time at or above AGE_TIME, never while AGE_TIME is 0 (R196, R216). -/
def idleOver (s : State) (e : Entry) : Bool := decide (s.ws.ageMin ≠ 0) && decide (s.ws.ageMin * minuteCounts ≤ idleOf s e)

/-- Counts as STALE for lookups and evictions (R198, R205, R216). -/
def countsStale (s : State) (e : Entry) : Bool :=
  decide (s.ws.ageMin ≠ 0) && (decide (e.state = 2) || (decide (e.state = 1) && idleOver s e))

/-- Positions of the counters of R220. -/
def wcHit : Nat := 0
def wcMiss : Nat := 1
def wcStaleHit : Nat := 2
def wcInsert : Nat := 3
def wcEvictStale : Nat := 4
def wcEvictLive : Nat := 5
def wcLowq : Nat := 6
def wcRace : Nat := 7
def wcAged : Nat := 8
def wcPoison : Nat := 9
def wcGroupOvf : Nat := 10
def wcFormOvf : Nat := 11
def wcZfFail : Nat := 12
def wcImportBad : Nat := 13

/-- Adds one to a weight-store counter, saturating (R220). -/
def wsCount (s : State) (k : Nat) (n : Nat := 1) : State :=
  { s with ws := { s.ws with counters := tmod 0 s.ws.counters k fun c => satN 32 (c + n) } }

/-- Queues an entry write (R328). -/
def queueEntry (s : State) (bucket way : Nat) (e : Entry) : State := queueEntryBytes s bucket way (entryBytes e)

/-- The last queued write of a way. -/
def wayWrite (s : State) (bucket way : Nat) : Option EntryWrite :=
  (entryWrites s).reverse.find? fun w => decide (w.bucket = bucket ∧ w.way = way)

/-- The entry of a way as the changes in order have left it: the last queued write, else the DRAM's content (R200). -/
def entryNow (s : State) (bucket way : Nat) : Entry :=
  match wayWrite s bucket way with
  | some w => entryOf w.data
  | none => entryOf (memLater s (wayAddr bucket way) 288)

/-- The header of a way is poisoned. -/
def headerPoisoned (s : State) (bucket way : Nat) : Bool :=
  (wayWrite s bucket way).isNone && markLater s (wayAddr bucket way / 32)

/-- The way of a bucket that holds a tag, LIVE or STALE (R198). -/
def wayOf (s : State) (bucket tag : Nat) : Option Nat :=
  (List.range 8).find? fun w =>
    let e := entryNow s bucket w
    !headerPoisoned s bucket w && decide (e.tag = tag) && e.holds

/-! Lookups through P0 (R198, R199, R217, R331) -/

/-- The eight headers of a bucket as P0 reads them: entries, poison marks, and the state after the reads. -/
def readHeaders (s : State) (bucket : Nat) (faults : List WordFault) : Nat → List (Entry × Bool) × State
  | 0 => ([], s)
  | n + 1 =>
    let way := 7 - n
    let a := wayAddr bucket way
    let ((b, r), s) := readWord s 0 (a / 32) faults
    let (rest, s) := readHeaders s bucket faults n
    ((entryOf (b ++ List.replicate 256 0), r.marked) :: rest, s)

/-- A lookup of a tag that entered the queue at `entered` (R198): its result, the entry it read, and the state after the reads. It waits
for the older writes of its bucket, and for no younger one (R331). -/
def lookup (s : State) (tag entered : Nat) (faults : List WordFault) : Lookup × Entry × State :=
  let b := bucketOf tag
  let s := awaitWrites s (wayAddr b 0) 2304 entered
  let s := each (List.range 8) s fun s w => openRow s (wayAddr b w / 32)
  let (hs, s) := readHeaders s b faults 8
  let s := moveBytes s 0 256
  let none' : Entry := { tag := 0, state := 0, origin := 0, quality := 0, updCnt := 0, lastHeard := 0, coef := [] }
  match hs.findIdx? fun h => !h.2 && decide (h.1.tag = tag) && h.1.holds with
  | some w =>
    let h := ((hs[w]?).getD (none', false)).1
    let s := openRowsOf s (wayAddr b w / 32 + 1) 8
    let (l, s) := readWords s 0 (wayAddr b w / 32 + 1) faults 8
    let s := moveBytes s 0 256
    if l.any fun x => x.2 then (.poison, h, s)
    else (.hit w, { h with coef := coefOf (l.map fun x => x.1) 64 }, s)
  | none => if hs.any fun h => h.2 then (.poison, none', s) else (.miss, none', s)

/-- LOOKUP_DONE: completion of the P0 read served next (R198, R325). A lookup for weight formation waits while the prefetch buffer is full; its
result takes a place there, unless it is a miss. -/
def lookupDoneFx (faults : List WordFault) (s : State) : State :=
  if fget s F.caveStatusSelfRefresh = 1 then s
  else
  match servedRead s with
  | none => s
  | some r =>
    if r.est.isNone && decide (1024 ≤ pfLevel s) then s
    else
      let s := { s with ws := { s.ws with reads := s.ws.reads.erase r } }
      let (res, e, s) := lookup s r.user r.entered faults
      let s := match r.est with
        | some id =>
          { s with fab := { s.fab with est := s.fab.est.map fun i =>
              if i.id = id then { i with lookup := some (res, e.updCnt) } else i } }
        | none =>
          match res with
          | .hit _ =>
            let s := wsCount (bufWrite bufPrefetch s [r.user, r.half, tagBits r.slot]) wcHit
            let s := if countsStale s e then wsCount s wcStaleHit else s
            { s with ws := { s.ws with prefetch := s.ws.prefetch ++
                [{ user := r.user, half := r.half, slot := r.slot, result := res, coef := e.coef, quality := e.quality }] } }
          | .miss =>
            let s := wsCount s wcMiss
            { s with ws := { s.ws with results := s.ws.results ++ [(r.user, r.half, r.slot, res)] } }
          | .poison =>
            { s with ws := { s.ws with prefetch := s.ws.prefetch ++
                [{ user := r.user, half := r.half, slot := r.slot, result := res, coef := [], quality := 0 }] } }
      judgePanic s

/-- What a lookup of a user for a slot and half has given so far: its result with the entry's coefficients. -/
def lookupResult (s : State) (user half : Nat) (slot : TimeTag) : Option (Lookup × List Cplx × Int) :=
  match s.ws.prefetch.find? fun p => decide (p.user = user ∧ p.half = half) && sameSlot p.slot slot with
  | some p => some (p.result, p.coef, p.quality)
  | none =>
    match s.ws.results.find? fun p => decide (p.1 = user ∧ p.2.1 = half) && sameSlot p.2.2.1 slot with
    | some p => some (p.2.2.2, [], 0)
    | none => none

/-! Estimation (R201 to R206) -/

/-- Paths that estimate for a half: the enabled RX paths (R201). -/
def estPaths (s : State) (half : Nat) : List Nat := (halfPaths s half).filter fun p => rxWorks s p

/-- A value of the pilot-sequence table: Q1.15, of the constant magnitude A to the nearest unit (R201; log entry 11). -/
def pilotValue (v : Cplx) : Cplx :=
  let a : Int := (Config.pilotAmp % 32768 : Nat)
  let z := CplxOps.mapParts sat16 v
  if (a - 1) * (a - 1) ≤ CplxOps.norm2 z ∧ CplxOps.norm2 z ≤ (a + 1) * (a + 1) then z else { re := a, im := 0 }

/-- The pilot values of an item, one for each received element. -/
def pilotValues (p : Pilot) (n : Nat) : List Cplx :=
  (List.range n).map fun k => pilotValue (Config.pilot p.seq p.comb p.combOff p.cshift k)

/-- a[p] of R201: the exact sums over the pilot elements, zero for a path that does not take part. -/
def estSums (rx : Tbl (List Cplx)) (x : List Cplx) (paths : List Nat) : List Cplx :=
  (List.range 64).map fun p =>
    if paths.contains p then
      CplxOps.sum (List.zipWith (fun y v => CplxOps.mul y (CplxOps.conj v)) (tget [] rx p) x)
    else CplxOps.zero

/-- QUALITY of R202: the floor of the expression, moved by a free amount within the tolerance of 1. -/
def estQuality (rx : Tbl (List Cplx)) (x : List Cplx) (paths : List Nat) (a : List Cplx) (f : Nat) : Int :=
  let k := x.length
  let a2 := CplxOps.norm2 (cnth x 0)
  if a2 = 0 then -32768
  else if k = 1 then 0
  else
    let resid (p : Nat) : Int :=
      (List.zipWith (fun y v =>
        CplxOps.norm2 (CplxOps.sub (CplxOps.mapParts (fun z => z * (k : Int) * a2) y) (CplxOps.mul (cnth a p) v)))
        (tget [] rx p) x).foldl (· + ·) 0
    let n2 := (paths.map resid).foldl (· + ·) 0
    if n2 = 0 then 32767
    else
      let num := ((paths.map fun p => CplxOps.norm2 (cnth a p)).foldl (· + ·) 0) * a2 * (paths.length : Int) * ((k : Int) - 1)
      let q := quality100 num.toNat n2.toNat
      let d : Int := if f % 3 = 0 then 0 else if f % 3 = 1 then 1
        else if qualityAtLeast num.toNat n2.toNat q && qualityAtLeast n2.toNat num.toNat (-q) then -1 else 0
      clampI (-32768) 32767 (q + d)

/-- Completion of an estimation item whose pilots and lookup are in: the estimate is discarded, or becomes due for its
write-back (R203, R204). -/
def estimateDoneFx (item : Nat) (s : State) : State :=
  match s.fab.est.find? fun i => decide (i.id = item) with
  | none => s
  | some i =>
    match i.lookup with
    | none => s
    | some (lk, upd) =>
      if i.symsLeft ≠ 0 then s
      else
        let paths := estPaths s i.half
        let n := (i.rx.map fun e => e.2.length).foldl max 0
        let x := pilotValues i.pilot n
        let a := estSums i.rx x paths
        let (f, s) := drawFree s
        let q := estQuality i.rx x paths a f
        let s := { s with fab := { s.fab with est := s.fab.est.filter fun j => decide (j.id ≠ item) } }
        if q < s.ws.estMinQ then wsCount s wcLowq
        else
          let w : WriteBack :=
            { half := i.half, slot := i.slot, sectionId := i.sectionId, user := i.user, lookup := lk, updCnt := upd,
              coef := normalize15 a, quality := q, heard := i.heard, wait := 1,
              split := isSplit s }
          { s with ws := { s.ws with writeBacks := s.ws.writeBacks ++ [w] } }

/-- ESTIMATE_DONE. -/
def execEstimateDone (item : Nat) (s : State) : Out := .next (estimateDoneFx item s)

/-- The fourth stroke after the stroke of an item's slot has come (R129). -/
def estExpired (s : State) (i : EstItem) : Bool := decide (slotNear s i.half i.slot + 4 ≤ strokeSlot s i.half)

/-- A class 2 item misses its deadline: it and its lookup are abandoned (R132, R326). -/
def estAbandonFx (item : Nat) (s : State) : State :=
  if s.fab.est.any fun i => decide (i.id = item) && estExpired s i then
    let s := { s with fab := { s.fab with est := s.fab.est.filter fun j => decide (j.id ≠ item) },
                      ws := { s.ws with reads := s.ws.reads.filter fun r => decide (r.est ≠ some item) } }
    judgePanic (finc s F.estAbandonCnt)
  else s

/-- EST_ABANDON. -/
def execEstAbandon (item : Nat) (s : State) : Out := .next (estAbandonFx item s)

/-! Changes at a stroke (R200, R204 to R206, R214 to R217) -/

/-- The way that an insertion takes, and which of the four cases of R205 chose it. -/
def insertWay (s : State) (bucket : Nat) : Option (Nat × Nat) :=
  let ways := (List.range 8).filter fun w => !headerPoisoned s bucket w
  let oldest (l : List Nat) : Option Nat :=
    l.foldl (fun b w => match b with
      | none => some w
      | some v => if idleOf s (entryNow s bucket v) < idleOf s (entryNow s bucket w) then some w else some v) none
  match ways.find? fun w => decide ((entryNow s bucket w).state = 0) with
  | some w => some (w, 1)
  | none =>
    match ways.find? fun w => decide ((entryNow s bucket w).state = 3) with
    | some w => some (w, 2)
    | none =>
      match oldest (ways.filter fun w => countsStale s (entryNow s bucket w)) with
      | some w => some (w, 3)
      | none => (oldest ways).map fun w => (w, 4)

/-- Inserts an entry (R205). -/
def insertEntry (s : State) (e : Entry) : State :=
  let b := bucketOf e.tag
  let s := wsCount s wcInsert
  match insertWay s b with
  | none => wsCount s wcPoison
  | some (w, k) =>
    let s := if k = 3 then wsCount s wcEvictStale
      else if k = 4 then raise (wsCount s wcEvictLive) 0x28 0 [(b : Int)] else s
    queueEntry s b w e

/-- Whether an estimate of a half covers a path: one made in SPLIT, the half's 32 paths (R206). -/
def covers (split : Bool) (half p : Nat) : Bool := !split || decide (p / 32 = half)

/-- The covered part of a vector, zero elsewhere; and a vector with its covered part replaced. -/
def maskHalf (split : Bool) (half : Nat) (l : List Cplx) : List Cplx :=
  (List.range 64).map fun p => if covers split half p then cnth l p else CplxOps.zero

def mergeHalf (split : Bool) (half : Nat) (old new : List Cplx) : List Cplx :=
  (List.range 64).map fun p => if covers split half p then cnth new p else cnth old p

/-- Applies an estimator's write-back (R204, R206). On a hit QUALITY is blended in SPLIT too, and a way whose header is poisoned by then
counts as a race (DEDUCED, log entry 191). -/
def applyEstimate (s : State) (w : WriteBack) : State :=
  let b := bucketOf w.user
  match w.lookup with
  | .hit way =>
    let e := entryNow s b way
    if e.tag ≠ w.user ∨ e.updCnt ≠ w.updCnt ∨ e.state = 3 ∨ headerPoisoned s b way then wsCount s wcRace
    else
      let new := mergeHalf w.split w.half e.coef (blend (maskHalf w.split w.half e.coef) (maskHalf w.split w.half w.coef) s.ws.blendK)
      queueEntry s b way
        { e with state := 1, origin := 0, quality := e.quality + asr (w.quality - e.quality) s.ws.blendK,
                 updCnt := satN 32 (e.updCnt + 1), lastHeard := w.heard, coef := new }
  | _ =>
    if (wayOf s b w.user).isSome then wsCount s wcRace
    else insertEntry s { tag := w.user, state := 1, origin := 0, quality := w.quality, updCnt := 1, lastHeard := w.heard,
                         coef := maskHalf w.split w.half w.coef }

/-- Applies a weight update (R102, R214, R215). An INVALIDATE leaves UPDATE_CNT and LAST_HEARD as they are (DEDUCED, log entry 189). -/
def applyUpdate (s : State) (u : WsUpdate) : State :=
  let b := bucketOf u.tag
  if u.write then
    match wayOf s b u.tag with
    | some w =>
      let e := entryNow s b w
      queueEntry s b w { e with state := 1, origin := 1, quality := u.quality, updCnt := satN 32 (e.updCnt + 1),
                                lastHeard := s.tm.uptime, coef := u.coef }
    | none => insertEntry s { tag := u.tag, state := 1, origin := 1, quality := u.quality, updCnt := 1,
                              lastHeard := s.tm.uptime, coef := u.coef }
  else
    match wayOf s b u.tag with
    | some w => queueEntry s b w { entryNow s b w with state := 3 }
    | none => s

/-- Applies an invalidation by Cox: TAG 0, INVALID, zero coefficients, clean check bits (R217). -/
def applyInval (s : State) (bucket way : Nat) : State :=
  let s := raise (wsCount s wcPoison) 0x29 0 [(bucket : Int), (way : Int)]
  queueEntry s bucket way { tag := 0, state := 3, origin := 0, quality := 0, updCnt := 0, lastHeard := 0, coef := [] }

/-- Applies a STALE mark of the ageing walk to an entry that is still LIVE and idle (R216). -/
def applyMark (s : State) (bucket way : Nat) : State :=
  let e := entryNow s bucket way
  if e.state = 1 ∧ idleOver s e ∧ !headerPoisoned s bucket way then
    queueEntry (wsCount s wcAged) bucket way { e with state := 2 }
  else s

/-- The order of estimator write-backs: slot, SECTION_ID, half (R200). -/
def wbBefore (a b : WriteBack) : Bool :=
  decide (a.heard < b.heard) || (decide (a.heard = b.heard) && (decide (a.sectionId < b.sectionId) ||
    (decide (a.sectionId = b.sectionId) && decide (a.half ≤ b.half))))

/-- The order of invalidations: addresses (R200). -/
def invBefore (a b : Nat × Nat × Nat) : Bool := decide (wayAddr a.1 a.2.1 ≤ wayAddr b.1 b.2.1)

/-- A change waits one further stroke (R200). -/
def oneLess (p : Nat × Nat × Nat) : Nat × Nat × Nat := (p.1, p.2.1, p.2.2 - 1)

/-- A lookup's slot starts at the stroke or after it. -/
def slotToCome (s : State) (half : Nat) (slot : TimeTag) : Bool :=
  decide (strokeSlot s (halfIn s half) ≤ slotNear s (halfIn s half) slot)

/-- The changes of a stroke are in force for the lookups of the slots from that stroke on, those that have completed already too: their
results are those of the entries as the stroke leaves them (R200; log entry 162). -/
def renewLookups (s : State) (buckets : List Nat) : State :=
  let meant (user half : Nat) (slot : TimeTag) : Bool := buckets.contains (bucketOf user) && slotToCome s half slot
  let entry (user : Nat) : Option (Nat × Entry) :=
    (wayOf s (bucketOf user) user).map fun w => (w, entryNow s (bucketOf user) w)
  let stays (p : Prefetch) : Bool := !meant p.user p.half p.slot || decide (p.result = .poison) || (entry p.user).isSome
  let renew (p : Prefetch) : Prefetch :=
    match (if meant p.user p.half p.slot && decide (p.result ≠ .poison) then entry p.user else none) with
    | some (w, e) => { p with result := .hit w, coef := e.coef, quality := e.quality }
    | none => p
  let kept := (s.ws.prefetch.filter stays).map renew
  let lost := (s.ws.prefetch.filter fun p => !stays p).map fun p => (p.user, p.half, p.slot, Lookup.miss)
  let found := ((s.ws.results.filter fun x => meant x.1 x.2.1 x.2.2.1 && (entry x.1).isSome).take (1024 - kept.length)).map fun x =>
    renew { user := x.1, half := x.2.1, slot := x.2.2.1, result := .miss, coef := [], quality := 0 }
  let gone := found.map fun p => (p.user, p.half, p.slot, Lookup.miss)
  { s with ws := { s.ws with prefetch := kept ++ found, results := (s.ws.results.filter fun x => !gone.contains x) ++ lost } }

/-- The weight-store part of a stroke of half 0: the changes due are applied in the order of R200, the others come one
stroke nearer; invalidations and marks wait for Cox (R29). -/
def wsStroke (s : State) : State :=
  let run := coxRuns s
  let iDue := if run then s.ws.invals.filter fun p => decide (p.2.2 = 0) else []
  let mDue := if run then s.ws.marks.filter fun p => decide (p.2.2 = 0) else []
  let wDue := s.ws.writeBacks.filter fun w => decide (w.wait = 0)
  let uDue := s.fh.updates.filter fun u => decide (u.wait = 0)
  let s := { s with
    ws := { s.ws with
      invals := (s.ws.invals.filter fun p => !iDue.contains p).map oneLess,
      marks := (s.ws.marks.filter fun p => !mDue.contains p).map oneLess,
      writeBacks := (s.ws.writeBacks.filter fun w => decide (w.wait ≠ 0)).map fun w => { w with wait := w.wait - 1 } },
    fh := { s.fh with
      updates := (s.fh.updates.filter fun u => decide (u.wait ≠ 0)).map (fun u => { u with wait := u.wait - 1 }),
      updatesNow := 0 } }
  let s := each (sortBy invBefore iDue) s fun s p => applyInval s p.1 p.2.1
  let s := each mDue s fun s p => applyMark s p.1 p.2.1
  let s := each (sortBy wbBefore wDue) s applyEstimate
  let s := each uDue s applyUpdate
  let buckets := (iDue ++ mDue).map (fun p => p.1) ++ (wDue.map (fun w => w.user) ++ uDue.map (fun u => u.tag)).map bucketOf
  if buckets = [] then s else judgePanic (renewLookups s buckets)

/-! The ageing walk (R216, R220) -/

/-- Numbers of the entries that hold a byte other than zero: bucket × 8 + way, ascending. -/
def usedEntries (m : List Host.Cell) : List Nat :=
  m.foldr (fun c l =>
    let k := c.1 / 288
    if c.1 < 4194304 * 288 then (match l with | j :: _ => if j = k then l else k :: l | [] => [k]) else l) []

/-- The entries whose headers tell the walk something: those that hold a byte other than zero, and those with a poisoned header. -/
def walkedEntries (s : State) : List Nat :=
  let used := usedEntries s.caveMem
  let marked := (s.cavePoison.filter fun e => decide (e.1 % 9 = 0 ∧ e.1 < 9 * 4194304) && e.2).map fun e => e.1 / 9
  let extra := marked.filter fun k => !used.contains k
  if extra = [] then used else sortBy (fun a b => decide (a ≤ b)) (used ++ extra)

/-- One visit of the walk, through P3: a mark for a LIVE entry beyond AGE_TIME; the counts of LIVE and STALE entries it leaves. -/
def walkVisit (acc : State × Nat × Nat) (k : Nat) : State × Nat × Nat :=
  let (s, live, stale) := acc
  let b := k / 8
  let w := k % 8
  let wa := wayAddr b w / 32
  let ((h, r), s) := readWord (openRow s wa) 3 wa []
  if r.marked then (s, live, stale)
  else
    let e := entryOf (h ++ List.replicate 256 0)
    if e.state = 1 then
      if idleOver s e then ({ s with ws := { s.ws with marks := s.ws.marks ++ [(b, w, 1)] } }, live, stale + 1)
      else (s, live + 1, stale)
    else if e.state = 2 then (s, live, stale + 1) else (s, live, stale)

/-- The bytes of all headers, which the walk moves through P3 within its hour (log entry 163). -/
def headerBytes : Nat := 4194304 * 32

/-- The hourly walk: none while AGE_TIME is 0; in DORMANT, during a bulk transfer or while Cox does not run it waits (R29, R73,
R216, R474), and while a header's queued write waits for a lookup (R331). -/
def ageingWalkFx (s : State) : State :=
  if s.ws.ageMin = 0 ∨ s.md.mode = .boot ∨ s.md.mode = .recovery then s
  else
    let ways := (entryWrites s).map fun w => wayAddr w.bucket w.way
    if s.md.mode = .dormant ∨ s.md.mode = .shutdown ∨ s.ws.transfer.isSome ∨ !coxRuns s ∨ ways.any (fun a => drainHeld s a 32) then
      { s with ws := { s.ws with ageingDue := true } }
    else
      let s := each (sortBy (fun a b => decide (a ≤ b)) ways) s fun s a => awaitWrites s a 32
      let s := each ((portReqs s 3 true).filter fun q => decide (q.addr < 0x48000000)) s fun s q => awaitWrites s q.addr q.len
      let (s, live, stale) := (walkedEntries s).foldl walkVisit (s, 0, 0)
      { s with ws := { s.ws with live := live, stale := stale },
               cave := { s.cave with moved := tmod 0 s.cave.moved 3 (· + headerBytes) } }

/-- AGEING_WALK. -/
def execAgeingWalk (s : State) : Out := .next (ageingWalkFx s)

end Sys2Proof.Machine
end

