-- ==== Sys2Proof/Machine/Cave.lean ====
section
/-! DEFINITION. The Cave controller's own events: refresh, targeted refresh, metering, promotion, the order of service, the
scrubbers and the end of a migration (R324, R329 to R339, R356 to R368). -/

namespace Sys2Proof.Machine

/-- The Cave takes no requests: in self-refresh (R338). -/
def selfRefresh (s : State) : Bool := decide (fget s F.caveStatusSelfRefresh = 1)

/-- A refresh is postponed while panic is asserted or a P0 burst of 32 requests is in progress (R334). -/
def postponing (s : State) : Bool := s.cave.panic || decide (32 ≤ (readQueue s).length)

/-- A lookup that the controller can serve has words on a rank, and its result a place (R325, R329). -/
def p0Ready (s : State) (rank : Nat) : Bool :=
  match servedRead s with
  | none => false
  | some r =>
    let a := wayAddr (bucketOf r.user) 0
    (r.est.isSome || decide (pfLevel s < 1024)) && onRank s rank a 2304 && !trrHeld s (a / 32) 72

/-- The head of the P0 write queue is to be drained to a rank (R328, R329, R331). -/
def drainReady (s : State) (rank : Nat) : Bool :=
  s.cave.draining && (!s.cave.panic || s.cave.forced) &&
    match s.cave.writes with
    | [] => false
    | w :: _ =>
      let a := wayAddr w.bucket w.way
      onRank s rank a 288 && !entryHeld s w && !trrHeld s (a / 32) 9

/-- Something of items 2 to 4 goes before a refresh that is due at a rank (R329). -/
def goesFirst (s : State) (rank : Nat) : Bool :=
  (s.cave.trrs.any fun t => decide (t.rank = rank) && t.urgent) || p0Ready s rank || drainReady s rank

/-- A refresh of a rank falls due: forced with all that is owed at the limit, postponed, issued, or put behind what goes first (R329,
R334). -/
def refreshDueFx (rank : Nat) (s : State) : State :=
  if selfRefresh s ∨ 3 ≤ rank ∨ s.cave.asleep.contains rank then s
  else
    let owed := fget s (owedFld rank)
    let due (n : Nat) (s : State) : State := { s with cave := { s.cave with refDue := tset 0 s.cave.refDue rank n } }
    if fget s F.refCfg ≤ owed then
      due 0 (fset (fset (finc s F.refForcedCnt) F.caveEventRefForced 0 1) (owedFld rank) 0 0)
    else if postponing s then fset (finc s F.refPostponeCnt) (owedFld rank) 0 (owed + 1)
    else if goesFirst s rank then due (tget 0 s.cave.refDue rank + 1) s
    else s

/-- REFRESH_DUE. -/
def execRefreshDue (rank : Nat) (s : State) : Out := .next (refreshDueFx rank s)

/-- The oldest targeted-refresh request of a rank that is not yet urgent has waited 8 µs (R337). -/
def raiseTrr (rank : Nat) : List Trr → List Trr
  | [] => []
  | t :: l => if t.rank = rank ∧ !t.urgent then { t with urgent := true } :: l else t :: raiseTrr rank l

/-- TARGETED_REFRESH_URGENT. -/
def execTargetedRefreshUrgent (rank : Nat) (s : State) : Out :=
  .next { s with cave := { s.cave with trrs := raiseTrr rank s.cave.trrs } }

/-- A request that has waited AGE_LIMIT is promoted: 0 the migration copy, 1 the scrubber, else a request of P1 to P3
(R330). -/
def agePromoteFx (req : Nat) (s : State) : State :=
  if fget s F.portCfgAgeLimit = 0 then s
  else if req = 0 then
    if fget s F.caveStatusMigrating = 1 ∧ !s.cave.promoMig then
      finc { s with cave := { s.cave with promoMig := true } } F.agePromoteCnt
    else s
  else if req = 1 then
    if !s.cave.promoScrub then finc { s with cave := { s.cave with promoScrub := true } } F.agePromoteCnt else s
  else if s.cave.reqs.any fun r => decide (r.id = req) && !r.promoted && inQueue s r then
    finc { s with cave := { s.cave with reqs := s.cave.reqs.map fun r => if r.id = req then { r with promoted := true } else r } }
      F.agePromoteCnt
  else s

/-- AGE_PROMOTE. -/
def execAgePromote (req : Nat) (s : State) : Out := .next (agePromoteFx req s)

/-- A new metering window starts (R324). -/
def execMeterWindow (s : State) : Out := .next { s with cave := { s.cave with metered := [] } }

/-- A refresh window of a rank ends: its trackers are cleared, and RH_DIST2 comes into force (R335, R342). -/
def execRefreshWindowEnd (rank : Nat) (s : State) : Out :=
  .next { s with cave := { s.cave with tracks := s.cave.tracks.filter (fun t => decide (t.rank ≠ rank)),
                                       dist2 := decide (fget s F.rhCfgRhDist2 = 1) } }

/-! Scrubbing (R356 to R359, R363) -/

/-- The scrubber may read: SCRUB_PERIOD is not 0 and the device is not in DORMANT or a shutdown (R356, R360). -/
def scrubRuns (s : State) : Bool :=
  decide (fget s F.scrubCfgScrubPeriod ≠ 0) && !selfRefresh s

/-- One more uncorrectable word of the pass (R359). -/
def countPassUe (s : State) : State :=
  let s := { s with mi := { s.mi with passUe := s.mi.passUe + 1 } }
  let t := fget s F.scrubCfgUeThresh
  if t ≠ 0 ∧ t ≤ s.mi.passUe ∧ !inEpisode s 0x50 0 then
    raiseEpisode (fset s F.miEventUeThresh 0 1) 0x50 0 [(s.mi.passUe : Int)]
  else s

/-- Cox sets BAD in the header of the capture block that holds a word, unless the word is of that header (R277, R358). -/
def markBad (s : State) (wa : Nat) : State :=
  let blk := (32 * wa - 0x60000000) / 65536
  let h := 0x60000000 + 65536 * blk
  if 32 * wa < h + 64 then s
  else
    let s := openWrite (awaitWrites s h 32) (h / 32)
    moveBytes (caveWrite s (h + 7) [memGet s.caveMem (h + 7) ||| 0x10#8] false) 3 32

/-- What the region of an uncorrectable word asks for (R358). -/
def regionAction (s : State) (wa : Nat) : State := if 0x60000000 ≤ 32 * wa then markBad s wa else invalidateWord s wa

/-- The walk moves to the next word; a completed pass is counted, and LATE is set when it overran SCRUB_PERIOD (R356,
R359). -/
def scrubAdvance (s : State) (wa : Nat) : State :=
  if wa + 1 < 2 ^ 27 then fset s F.scrubPos 0 (wa + 1)
  else
    let late := decide (fget s F.scrubCfgScrubPeriod * minuteCounts < s.tm.uptime - s.mi.passStart)
    let s := finc (fset s F.scrubPos 0 0) F.scrubPassCnt
    let s := if late then fset s F.miEventLate 0 1 else s
    endEpisode { s with mi := { s.mi with passUe := 0, passStart := s.tm.uptime } } 0x50 0

/-- The SRAM walk reads its next word and writes back what it corrected or found uncorrectable (R356 to R358, R363). -/
def sramScrubFx (flt : WordFault) (s : State) : State :=
  if !scrubRuns s then s
  else
    let wa := s.mi.sramPos
    let ((b, r), s) := sramWord s byScrubber wa [{ flt with word := wa }]
    let s := match r with
      | .ue | .ueAddr =>
        let s := { s with sramMem := memPutAll s.sramMem (8 * wa) b, sramPoison := tset false s.sramPoison wa true }
        countPassUe (fset s F.miEventUeFound 0 1)
      | _ => s
    { s with mi := { s.mi with sramPos := (wa + 1) % 3145728 } }

/-- SRAM_SCRUB. -/
def execSramScrub (fault : WordFault) (s : State) : Out := .next (sramScrubFx fault s)

/-! Rank migration (R366) -/

/-- The copy, past the last word of the logical rank, ends: the assignment changes, SPARE_USED is set, MEM_SPARE_DONE is raised, and a
waiting command completes. The words are as rank 2 holds them, and write-backs that wait for the old rank go to rank 2. -/
def migrationDoneFx (s : State) : State :=
  if fget s F.caveStatusMigrating = 0 ∨ fget s F.miStatusPaused = 1 ∨ !s.cave.migEnd then s
  else
    let d := fget s F.miStatusMigSrc
    let s := if fget s F.caveStatusPhysL0 = d then fset s F.caveStatusPhysL0 0 2 else fset s F.caveStatusPhysL1 0 2
    let s := fset (fset (fset s F.caveStatusSpareUsed 0 1) F.caveStatusMigrating 0 0) F.miEventSpareDone 0 1
    let s := { s with cavePoison := s.cave.migPoison.foldl (fun t e => tset false t e.1 true) s.cavePoison,
                      caveMem := s.cave.migBytes.foldl (fun m e => memPutAll m (32 * e.1) e.2) s.caveMem,
                      cave := { s.cave with migPoison := [], migBytes := [], migEnd := false, promoMig := false,
                                            asleep := d :: s.cave.asleep },
                      mi := { s.mi with rewrites := s.mi.rewrites.map (fun w => if w.2 = d then (w.1, 2) else w),
                                        ueBacks := s.mi.ueBacks.map fun b => if b.rank = d then { b with rank := 2 } else b } }
    let s := raise s 0x54 0 [(d : Int)]
    match s.mi.spareCmd with
    | some h => complete { s with mi := { s.mi with spareCmd := none } } { hdr := h, opcode := 0x00A2 } stOk 0 []
    | none => s

/-- MIGRATION_DONE. -/
def execMigrationDone (s : State) : Out := .next (migrationDoneFx s)

/-- The last code word of a logical rank under an address-map order (R322). -/
def lastWordOf (order logical : Nat) : Nat :=
  if order = 2 then 2 ^ 27 - 2 + logical else if logical = 0 then 2 ^ 26 - 1 else 2 ^ 27 - 1

/-- One word of the copy: read from the source rank, written to rank 2 corrected, poisoned or as read (R366, R367). -/
def migrationCopy (s : State) (faults : List WordFault) : State :=
  let wa := fget s F.migPos
  let (logical, bank, row, _) := mapAddr s.cave.mapOrder (32 * wa)
  let ((b, r), s) := readWord (openRow (awaitWrites s (32 * wa) 32) wa) byCopy wa faults
  let s := openRowAt s 2 bank row
  let asRead := if r = .ue ∨ r = .ueAddr then b else []
  let next := if s.cave.mapOrder = 2 then wa + 2 else wa + 1
  let done := decide (lastWordOf s.cave.mapOrder logical < next)
  fset { s with cave := { s.cave with
      migPoison := tset false s.cave.migPoison wa r.marked, migBytes := tset [] s.cave.migBytes wa asRead,
      migEnd := done, promoMig := false, migSince := s.cave.nextReq } } F.migPos 0 (if done then wa else next)

/-! Order of service (R324, R329, R331) -/

/-- Service class of a port (R329). -/
def prio (s : State) (port : Nat) : Nat :=
  if port = 1 then fget s F.portCfgPrioP1 else if port = 2 then fget s F.portCfgPrioP2 else fget s F.portCfgPrioP3

/-- Item 8 puts one request before another: class, port, reads first, age. -/
def before8 (s : State) (a b : CaveReq) : Bool :=
  let k (r : CaveReq) : Nat := ((prio s r.port * 4 + r.port) * 2 + (if r.write then 1 else 0))
  decide (k a < k b) || (decide (k a = k b) && decide (a.id ≤ b.id))

/-- The best element of a list under an order. -/
def bestOf {α : Type} (le : α → α → Bool) (l : List α) : Option α :=
  l.foldl (fun b x => match b with
    | none => some x
    | some y => if le y x then some y else some x) none

/-- Performs a request after the queued writes that it may not pass. The read half of a read-modify-write is a read (R331). -/
def serveInOrder (s : State) (r : CaveReq) (faults : List WordFault) : State :=
  serve (awaitWrites s r.addr r.len r.id (!r.write || decide (r.len % 32 ≠ 0 ∨ r.addr % 32 ≠ 0))) r faults

/-- What the controller may issue for a rank (R329). -/
inductive CaveItem where
  /-- items 2 and 6 -/
  | targeted (t : Trr)
  /-- item 3: LOOKUP_DONE brings it -/
  | lookup
  /-- item 4 -/
  | drain
  /-- item 5 -/
  | repay
  /-- items 7 and 8: the candidate by age and class, and the others that a row which is open may bring before it -/
  | request (r : CaveReq) (others : List CaveReq)
  /-- items 7 and 9 -/
  | copy
  /-- items 7 and 10: SCRUB_READ brings the read -/
  | scrub
  | rewrite (w : Nat × Nat)
  | ueBack (b : UeBack)
deriving DecidableEq, Repr

/-- A request of P1 to P3 that a rank can serve: in its queue, within its port's ceiling, not held, nor a write that it waits for, by an
older read of P0, nor by a full queue of targeted refreshes (R323, R324, R331, R337). -/
def canServe (s : State) (rank : Nat) (r : CaveReq) : Bool :=
  inQueue s r && touches s rank r && meterOpen s rank r.port && !(r.write && heldByRead s r.id r.addr r.len) &&
    !drainHeld s r.addr r.len r.id && !trrHeld s (r.addr / 32) (codeWords r.addr r.len)

/-- The migration copy has a word to copy from a rank (R366, R368). -/
def copyReady (s : State) (rank : Nat) : Bool :=
  decide (fget s F.caveStatusMigrating = 1 ∧ fget s F.miStatusPaused = 0 ∧ fget s F.miStatusMigSrc = rank) && !s.cave.migEnd &&
    !drainHeld s (32 * fget s F.migPos) 32 && !trrHeld s (fget s F.migPos) 1

/-- The scrubber can read its next word from a rank (R331, R337, R356). -/
def scrubReady (s : State) (rank : Nat) : Bool :=
  let wa := fget s F.scrubPos
  scrubRuns s && decide (rankOfWord s wa = rank) && !drainHeld s (32 * wa) 32 && !trrHeld s wa 1

/-- Item 10: the scrubber's write-backs go before its next read (R357). -/
def scrubItem (s : State) (rank : Nat) : Option CaveItem :=
  match s.mi.rewrites.find? fun w => decide (w.2 = rank) && !trrHeld s w.1 1 with
  | some w => some (.rewrite w)
  | none =>
    match s.mi.ueBacks.find? fun b => decide (b.rank = rank) && !trrHeld s b.wa 1 && !heldByRead s b.id (32 * b.wa) 32 with
    | some b => some (.ueBack b)
    | none => if scrubReady s rank then some .scrub else none

/-- Item 7: of the promoted requests, the copy and the scrubber, what has waited longest (R329, R330). -/
def promotedItem (s : State) (rank : Nat) : Option CaveItem :=
  let l := s.cave.reqs.filter fun r => r.promoted && canServe s rank r
  let ages : List (Nat × CaveItem) :=
    (match l with
     | r :: t => [(r.id, .request r t)]
     | [] => []) ++
    (if s.cave.promoMig && copyReady s rank then [(s.cave.migSince, .copy)] else []) ++
    (match scrubItem s rank with
     | some i => if s.cave.promoScrub then [(s.cave.scrubSince, i)] else []
     | none => [])
  (bestOf (fun a b => decide (a.1 ≤ b.1)) ages).map fun p => p.2

/-- Item 8: the best request by class, port, direction and age; the others of its class, port and direction follow (R329). -/
def classItem (s : State) (rank : Nat) : Option CaveItem :=
  let l := s.cave.reqs.filter fun r => !r.promoted && canServe s rank r
  (bestOf (before8 s) l).map fun r => .request r (l.filter fun q => decide (q.port = r.port ∧ q.write = r.write ∧ q.id ≠ r.id))

/-- Items 9 and 10. -/
def lastItem (s : State) (rank : Nat) : Option CaveItem :=
  if copyReady s rank then some .copy else scrubItem s rank

/-- The first item of R329 that is ready for a rank. A forced refresh is issued when it falls due. -/
def nextItem (s : State) (rank : Nat) : Option CaveItem :=
  match s.cave.trrs.find? fun t => decide (t.rank = rank) && t.urgent with
  | some t => some (.targeted t)
  | none =>
    if p0Ready s rank then some .lookup
    else if drainReady s rank then some .drain
    else if s.cave.panic then none
    else if refreshWaits s rank && !postponing s then some .repay
    else
      match s.cave.trrs.find? fun t => decide (t.rank = rank) with
      | some t => some (.targeted t)
      | none => ((promotedItem s rank).orElse fun _ => classItem s rank).orElse fun _ => lastItem s rank

/-- The bank and the row of a request's first word. -/
def bankRow (s : State) (r : CaveReq) : Nat × Nat :=
  let (logical, bank, row, _) := mapAddr s.cave.mapOrder (r.addr / 32 * 32)
  (bankKey (physRank s logical) bank, row)

/-- A request to its bank's open row goes before an older one to a closed row of that bank, at most 16 times in succession (R329; log
entry 24 says which row counts as open). -/
def rowFirst (s : State) (r : CaveReq) (others : List CaveReq) : CaveReq × State :=
  let (key, row) := bankRow s r
  let last := tget 0 s.cave.openRows key
  let skips (n : Nat) : State := { s with cave := { s.cave with rowSkips := tset 0 s.cave.rowSkips key n } }
  if last = row + 1 ∨ 16 ≤ tget 0 s.cave.rowSkips key then (r, skips 0)
  else
    match others.find? fun q => decide (bankRow s q = (key, last - 1) ∧ last ≠ 0) with
    | some q => (q, skips (tget 0 s.cave.rowSkips key + 1))
    | none => (r, skips 0)

/-- A queued write touches a code word. -/
def writeQueued (s : State) (wa : Nat) : Bool :=
  ((entryWrites s).any fun w => shareWord (wayAddr w.bucket w.way) 288 (32 * wa) 32) ||
    s.cave.reqs.any fun q => q.write && shareWord q.addr q.len (32 * wa) 32

/-- The scrubber has been served: what it waits for next has waited from now (R330). -/
def scrubServed (s : State) : State := { s with cave := { s.cave with promoScrub := false, scrubSince := s.cave.nextReq } }

/-- The write-back of an uncorrectable word: its data as read, poisoned, and the action of its region (R357, R358). -/
def writeUeBack (s : State) (b : UeBack) : State :=
  let s := { s with mi := { s.mi with ueBacks := s.mi.ueBacks.erase b } }
  let s := putMark (openWrite s b.wa) b.wa true
  regionAction { s with caveMem := memPutAll s.caveMem (32 * b.wa) b.bytes } b.wa

/-- Issues an item. A write-back that a newer write supersedes is dropped (R357, R361). -/
def issueItem (s : State) (rank : Nat) (faults : List WordFault) : CaveItem → State
  | .targeted t => issueTrr s t
  | .lookup => s
  | .drain => judgeDrain (drainWrites 1 s)
  | .repay => { fset s (owedFld rank) 0 0 with cave := { s.cave with refDue := tset 0 s.cave.refDue rank 0 } }
  | .request r others => let (q, s) := rowFirst s r others; serveInOrder s q faults
  | .copy => migrationCopy s faults
  | .scrub => s
  | .rewrite w =>
    let s := scrubServed { s with mi := { s.mi with rewrites := s.mi.rewrites.erase w } }
    if writeQueued s w.1 then s else openWrite s w.1
  | .ueBack b => if writeQueued s b.wa then dropBacks s b.wa else writeUeBack (scrubServed s) b

/-- The controller issues the next ready item of a rank (R329). -/
def caveItemIssueFx (rank : Nat) (faults : List WordFault) (s : State) : State :=
  if selfRefresh s then s
  else
    match nextItem s rank with
    | some i => issueItem s rank faults i
    | none => s

/-- CAVE_ITEM_ISSUE. -/
def execCaveItemIssue (rank : Nat) (faults : List WordFault) (s : State) : Out := .next (caveItemIssueFx rank faults s)

/-! The reads that commands bring at their turn (R325, R329, R337, R356, R357) -/

/-- The P0 read served next has its turn at every rank that it touches (R329). -/
def lookupTurn (s : State) : Bool :=
  match servedRead s with
  | none => false
  | some r => (List.range 3).all fun rank =>
      !onRank s rank (wayAddr (bucketOf r.user) 0) 2304 || decide (nextItem s rank = some .lookup)

/-- LOOKUP_DONE. -/
def execLookupDone (faults : List WordFault) (s : State) : Out := .next (if lookupTurn s then lookupDoneFx faults s else s)

/-- The scrubber's read has its turn (R329, R356). -/
def scrubTurn (s : State) : Bool := !selfRefresh s && decide (nextItem s (rankOfWord s (fget s F.scrubPos)) = some .scrub)

/-- The scrubber reads the next Cave word at its turn. What it corrects or finds uncorrectable it queues to write back (R357). -/
def scrubReadFx (flt : WordFault) (s : State) : State :=
  if !scrubTurn s then s
  else
    let wa := fget s F.scrubPos
    let rank := rankOfWord s wa
    let ((b, r), s) := readWord (openRow (awaitWrites s (32 * wa) 32) wa) byScrubber wa [{ flt with word := wa }]
    let s := if r = .ue ∨ r = .ueAddr then
        let back : UeBack := { wa := wa, rank := rank, bytes := b, id := s.cave.nextReq }
        let s := { s with cave := { s.cave with nextReq := s.cave.nextReq + 1 },
                          mi := { s.mi with ueBacks := s.mi.ueBacks ++ [back] } }
        countPassUe (fset s F.miEventUeFound 0 1)
      else s
    scrubAdvance (scrubServed s) wa

/-- SCRUB_READ. -/
def execScrubRead (fault : WordFault) (s : State) : Out := .next (scrubReadFx fault s)

end Sys2Proof.Machine
end

