-- ==== Sys2Proof/Machine/Eff.lean ====
section
/-! DEFINITION. Ports, the EFF header and the checks of a received frame (R77 to R91, R105, R106, R110, R113, R115, R121,
R122). -/

namespace Sys2Proof.Machine

/-! Ports (R77) -/

/-- Lanes of port A and of port B in a port configuration. -/
def portLanes (config port : Nat) : List Nat :=
  if port = 0 then
    (if config = 0 ∨ config = 2 ∨ config = 5 then [0, 1, 2, 3] else if config = 4 then [0, 1, 2] else [0, 1])
  else
    (if config = 0 ∨ config = 2 ∨ config = 5 then [] else if config = 4 then [3] else [2, 3])

/-- The rate of a port in Mb/s. -/
def portRate (config port : Nat) : Nat :=
  let lane := if config = 5 ∨ config = 6 then 25000 else 50000
  lane * (portLanes config port).length

/-- The port of a lane. -/
def laneOwner (config lane : Nat) : Nat := if (portLanes config 0).contains lane then 0 else 1

/-- The links of a configuration: configurations 0 and 1 join lanes in one link, the others have one link per lane. -/
def linkLanes (config lane : Nat) : List Nat :=
  if config = 0 ∨ config = 1 then portLanes config (laneOwner config lane) else [lane]

/-- Link state of a lane. -/
def laneUp (s : State) (lane : Nat) : Bool := nth false s.fh.linkUp lane

/-- The link of a lane is up: every lane that it joins is (R77). -/
def linkIsUp (s : State) (lane : Nat) : Bool := (linkLanes s.fh.portConfig lane).all (laneUp s)

/-- A port carries frames: one of its links is up. -/
def portUp (s : State) (port : Nat) : Bool := (portLanes s.fh.portConfig port).any (linkIsUp s)

/-- Addressing of a port. -/
def paramOf (s : State) (port : Nat) : PortParam := if port = 0 then s.fh.paramA else s.fh.paramB

/-- A chain-facing link in CHAIN (R85, R114). -/
def chainFacing (s : State) (port : Nat) : Bool := isMember s || (isHub s && decide (port = 1))

/-! Counters of R122, by position in its table -/

def cFecUncorr : Nat := 0
def cFcsErr : Nat := 1
def cOversize : Nat := 2
def cNotEff : Nat := 3
def cPause : Nat := 4
def cRxOvf : Nat := 5
def cBadHdr : Nat := 6
def cBadLen : Nat := 7
def cRxPoison : Nat := 8
def cSeqMiss : Nat := 9
def cDup : Nat := 10
def cStale : Nat := 11
def cResync : Nat := 12
def cIdleDrop : Nat := 13
def cEarly : Nat := 14
def cLate : Nat := 15
def cExtFull : Nat := 16
def cKeepalive : Nat := 17
def cSectionDup : Nat := 18
def cSectionOverlap : Nat := 19
def cSectionOvf : Nat := 20
def cRange : Nat := 21
def cPilotBad : Nat := 22
def cZeroPrb : Nat := 23
def cNoSection : Nat := 24
def cUdMissing : Nat := 25
def cWuDrop : Nat := 26
def cTxDrop : Nat := 27
def cPsLate : Nat := 28
def cPsSat : Nat := 29

/-- Adds to a counter of a port, saturating. -/
def fhCount (s : State) (port k : Nat) (n : Nat := 1) : State :=
  { s with fh := { s.fh with counters := tmod 0 s.fh.counters (64 * port + k) fun c => satN 32 (c + n) } }

def fhCounter (s : State) (port k : Nat) : Nat := tget 0 s.fh.counters (64 * port + k)

/-! The header (R86) -/

/-- The fields of an EFF header. -/
structure EffHdr where
  version : Nat
  typ : Nat
  half : Nat
  module : Nat
  seq : Nat
  tag : TimeTag
  poison : Bool
  late : Bool
  partialBit : Bool
  compressed : Bool
  sectionCnt : Nat
  payloadLen : Nat
  mantW : Nat
deriving DecidableEq, Repr

/-- The header of an EFF packet. -/
def effHdr (b : List Byte) : EffHdr :=
  let v (i : Nat) : Nat := (nth (0 : Byte) b i).toNat
  { version := v 0 / 16, typ := v 0 % 16, half := v 1 / 128, module := v 1 / 32 % 4, seq := beNat (slice b 2 2),
    tag := tagOfBits (beNat (slice b 4 3)), poison := decide (v 7 / 128 = 1), late := decide (v 7 / 64 % 2 = 1),
    partialBit := decide (v 7 / 32 % 2 = 1), compressed := decide (v 7 / 16 % 2 = 1), sectionCnt := beNat (slice b 8 2),
    payloadLen := beNat (slice b 10 2), mantW := v 12 }

/-- The bytes of a header. -/
def effHdrBytes (h : EffHdr) : List Byte :=
  let bit (c : Bool) (n : Nat) : Nat := if c then n else 0
  [BitVec.ofNat 8 (h.version * 16 + h.typ), BitVec.ofNat 8 (h.half * 128 + h.module * 32)] ++ beBytes 2 h.seq ++
    beBytes 3 (tagBits h.tag) ++
    [BitVec.ofNat 8 (bit h.poison 128 + bit h.late 64 + bit h.partialBit 32 + bit h.compressed 16)] ++
    beBytes 2 h.sectionCnt ++ beBytes 2 h.payloadLen ++ [BitVec.ofNat 8 h.mantW, 0, 0, 0]

/-! Frames that leave (R82, R85) -/

/-- Bytes of a frame on the wire, from its destination address to its FCS (R83 to R85). -/
def Egress.size (e : Egress) : Nat := 18 + (if e.vlan.isSome then 4 else 0) + (if e.udp.isSome then 28 else 0) + e.bytes.length

/-- Bytes of a PTP frame on the wire: a Sync or Delay_Req of 44 bytes, a Delay_Resp of 54 (R83, R407). -/
def ptpSize (p : PtpSend) : Nat := 18 + (if p.kind = .delayResp then 54 else 44)

/-- Queued bytes of a lane. -/
def laneBytes (s : State) (lane : Nat) : Nat :=
  ((s.fh.egress.filter fun e => decide (e.lane = lane)).map Egress.size).foldl (· + ·) 0 +
    ((s.tm.ptpOut.filter fun p => decide (p.lane = lane)).map ptpSize).foldl (· + ·) 0

/-- The lane of a port with the fewest queued bytes, the lowest on a tie (R82, log entry 31); a port of one link has one queue,
which stands under its first lane. That frames other than uplink packets leave on the links that are up, where one of several is down,
is the model's choice (R113; log entry 150). -/
def pickLane (s : State) (port : Nat) : Nat :=
  match (portLanes s.fh.portConfig port).filter (linkIsUp s) with
  | [] => 0
  | l :: t => if s.fh.portConfig < 2 then l else t.foldl (fun b x => if laneBytes s x < laneBytes s b then x else b) l

/-- The lane on which an uplink packet of a port is due: the one with the fewest queued bytes, its link up or not, so that packets due on
a lost link can be discarded (R82, R113). -/
def dueLane (s : State) (port : Nat) : Nat :=
  match portLanes s.fh.portConfig port with
  | [] => 0
  | l :: t => if s.fh.portConfig < 2 then l else t.foldl (fun b x => if laneBytes s x < laneBytes s b then x else b) l

/-- The address of every station. -/
def broadcast : Nat := 0xFFFFFFFFFFFF

/-- A frame of a port around EFF bytes: the host's address, the port's tag and its UDP framing; on a chain-facing link the address that
last sent there, untagged and without UDP (R83 to R85). -/
def frameOf (s : State) (port : Nat) (bytes : List Byte) (forwarded : Bool) : Egress :=
  let p := paramOf s port
  let e : Egress :=
    { port := port, lane := pickLane s port, dst := p.hostMac, src := p.localMac, vlan := none, etherType := p.etherType, udp := none,
      bytes := bytes, forwarded := forwarded }
  if chainFacing s port then { e with dst := (tget none s.fh.lastSrc port).getD broadcast }
  else
    let e := if p.vlan.1 = 1 then { e with vlan := some (p.vlan.2.1, p.vlan.2.2) } else e
    if p.udpEn then
      { e with etherType := 0x0800, udp := some { srcIp := p.localIp, dstIp := p.hostIp, port := p.udpPort, dscp := p.dscp } }
    else e

/-- Bytes in the egress buffer (R26), PTP frames with them. -/
def egressUsed (s : State) : Nat :=
  ((s.fh.egress.filter fun e => !e.forwarded).map Egress.size).foldl (· + ·) 0 + (s.tm.ptpOut.map ptpSize).foldl (· + ·) 0

/-- Bytes on chip of the packets of a type that wait: those of types 1 and 3 in the ingress buffer, those of type 4 in the port B
buffer, beside the data that is forwarded from it (R26, R109, R118). -/
def waiting (s : State) (typ : Nat) : Nat :=
  let mine (w : PktWait) : Bool := if typ = 4 then decide (w.typ = 4) else decide (w.typ ≠ 4)
  s.fh.waits.foldl (fun n w => if mine w ∧ w.ext.isNone then n + w.bytes else n) 0 +
    (if typ = 4 then ((s.fh.egress.filter fun e => e.forwarded).map Egress.size).foldl (· + ·) 0 else 0)

/-- A frame finds its place among those that wait for transmission (R26). -/
def egressFits (s : State) (e : Egress) : Bool :=
  if e.forwarded then decide (waiting s 4 + e.size ≤ 1048576) else decide (egressUsed s + e.size ≤ 1048576)

/-- Names a frame in the egress buffer: its port and its EFF header (R26). -/
def egressKey (e : Egress) : List Nat := [e.port, beNat (e.bytes.take 16)]

/-- A frame as it leaves: where a word of the egress buffer that holds it is poisoned, with POISON set in its header (R112, R355).
Forwarded data lies in the port B buffer and leaves unchanged. -/
def leaves (s : State) (e : Egress) : Egress :=
  if !e.forwarded && bufMarked s bufEgress (egressKey e) then
    { e with bytes := e.bytes.mapIdx fun i b => if i = 7 then b ||| 0x80 else b }
  else e

/-- A frame that finds no place in its buffer is discarded and counted as one that its link cannot take: the model's choice (R26,
R113; log entry 147). -/
def sendOn (s : State) (port : Nat) (bytes : List Byte) (forwarded : Bool := false) (lane : Option Nat := none) : State :=
  let e := frameOf s port bytes forwarded
  let e := { e with lane := lane.getD e.lane }
  if !portUp s port then s
  else if !egressFits s e then fhCount s port cTxDrop
  else
    let s := bufWrite bufEgress s (egressKey e)
    { s with fh := { s.fh with egress := s.fh.egress ++ [e] } }

/-- The next number of a stream of sent packets (R111). -/
def nextSeq (s : State) (port typ half module : Nat) : Nat × State :=
  let is (q : TxSeq) : Bool := decide (q.port = port ∧ q.type = typ ∧ q.half = half ∧ q.module = module)
  let n := ((s.fh.txSeq.find? is).map fun q => q.next).getD 0
  let q : TxSeq := { port := port, type := typ, half := half, module := module, next := (n + 1) % 65536 }
  (n, { s with fh := { s.fh with txSeq := q :: s.fh.txSeq.filter fun r => !is r } })

/-- The EFF bytes of a type 0x6 packet of this module with a SEQ (R86, R89, R432). -/
def effCcp (s : State) (seq : Nat) (poison : Bool) (payload : List Byte) : List Byte :=
  let h : EffHdr :=
    { version := 1, typ := 6, half := 0, module := chainPos s, seq := seq, tag := tagOfSlot (gridMu s 0) (slotNow s 0) 0,
      poison := poison, late := false, partialBit := false, compressed := false, sectionCnt := 0, payloadLen := payload.length,
      mantW := 0 }
  effHdrBytes h ++ payload

/-- Sends a CCP packet in band, on a lane of its own where one is given (R451). -/
def sendCcp (s : State) (port : Nat) (poison : Bool) (payload : List Byte) (lane : Option Nat := none) : State :=
  let (n, s) := nextSeq s port 6 0 (chainPos s)
  sendOn s port (effCcp s n poison payload) false lane

/-! The sequence history (R106) -/

/-- Raises SEQ_GAP and counts SEQ_MISS_CNT for `n` missing numbers. How the event numbers a stream is not stated: a free
value (log entry 32). -/
def missing (s : State) (port : Nat) : Nat → State
  | 0 => s
  | n + 1 =>
    let (f, s) := drawFree (fhCount s port cSeqMiss)
    missing (raise s 0x10 port [(port : Int), (f % 2 ^ 32 : Nat)]) port n

/-- Numbers of a history that have not been received. -/
def notReceived (l : List (Option Bool)) : Nat := (l.filter fun x => decide (x = some false)).length

def streamIs (port typ half module : Nat) (t : Stream) : Bool :=
  decide (t.port = port ∧ t.type = typ ∧ t.half = half ∧ t.module = module)

def dropStream (s : State) (port typ half module : Nat) : State :=
  { s with fh := { s.fh with streams := s.fh.streams.filter fun t => !streamIs port typ half module t } }

def putStream (s : State) (t : Stream) : State :=
  let s := dropStream s t.port t.type t.half t.module
  { s with fh := { s.fh with streams := t :: s.fh.streams } }

/-- Clears the state of a stream: what its history still misses is counted (R106). -/
def clearStream (s : State) (t : Stream) : State :=
  missing (dropStream s t.port t.type t.half t.module) t.port (notReceived t.history)

/-- A packet with a number arrives: whether it is accepted (R106). -/
def seqCheck (s : State) (port : Nat) (h : EffHdr) : Bool × State :=
  match s.fh.streams.find? (streamIs port h.typ h.half h.module) with
  | none =>
    (true, putStream s { port := port, type := h.typ, half := h.half, module := h.module,
                         expected := (h.seq + 1) % 65536, history := [some true] })
  | some t =>
    let d := (h.seq + 65536 - t.expected) % 65536
    if d < 32768 then
      let full := some true :: (List.replicate d (some false) ++ t.history)
      let s := putStream s { t with expected := (h.seq + 1) % 65536, history := full.take 64, staleRun := 0 }
      (true, missing s port (notReceived (full.drop 64)))
    else
      let back := 65536 - d
      if back ≤ 64 then
        if t.history[back - 1]? = some (some true) then (false, fhCount s port cDup)
        else
          let padded := t.history ++ List.replicate (back - t.history.length) none
          (true, putStream s { t with history := padded.set (back - 1) (some true), staleRun := 0 })
      else
        let s := fhCount s port cStale
        if t.staleRun + 1 = 8 then
          let s := fhCount (clearStream s t) port cResync
          let (f, s) := drawFree s
          (false, raise s 0x11 port [(port : Int), (f % 2 ^ 32 : Nat)])
        else (false, putStream s { t with staleRun := t.staleRun + 1 })

/-! Checks 1 to 5 of R105 -/

/-- An uplink packet, type 0x2 or 0x4, by its first byte (R86). -/
def isUplink (e : Egress) : Bool := decide ((effHdr e.bytes).typ = 2 ∨ (effHdr e.bytes).typ = 4)

/-- The frames that wait on a link that is down are discarded, the uplink packets among them counted (R113). -/
def loseFrames (s : State) : State :=
  let lost := s.fh.egress.filter fun e => !linkIsUp s e.lane
  let t := { s with fh := { s.fh with egress := s.fh.egress.filter fun e => linkIsUp s e.lane },
                    tm := { s.tm with ptpOut := s.tm.ptpOut.filter fun p => linkIsUp s p.lane } }
  (lost.filter isUplink).foldl (fun t e => fhCount t e.port cTxDrop) t

/-- Size, addressing and EtherType of a frame (R83 to R85): the counter of check 2 that fails. -/
def check2 (s : State) (f : RxFrame) : Option Nat :=
  let p := paramOf s f.port
  if 9216 < f.clientLen then some cOversize
  else if 1 < f.vlanTags then some cNotEff
  else if chainFacing s f.port then (if f.etherType = p.etherType then none else some cNotEff)
  else if f.dstMac ≠ p.localMac then some cNotEff
  else if p.udpEn then
    match f.udp with
    | none => some cNotEff
    | some u =>
      if f.etherType = 0x0800 ∧ u.ihl = 5 ∧ !u.fragment ∧ u.dstIp = p.localIp ∧ u.dstPort = p.udpPort ∧
          u.checksum ≠ some false then none else some cNotEff
  else if f.etherType = p.etherType ∧ f.udp.isNone then none else some cNotEff

/-- The member count of the chain that bounds MODULE (R88). -/
def chainMembers (s : State) : Nat := if inChain s then s.md.full.cfg.members else 0

/-- Whether a type is accepted on a port (R87). Outside CHAIN the CHAIN status records that R53 needs are taken on port B
(log entry 33). -/
def typeAccepted (s : State) (port typ : Nat) (chainRecord : Bool) : Bool :=
  if typ = 1 ∨ typ = 3 ∨ typ = 5 ∨ typ = 7 then decide (port = upPort s)
  else if typ = 4 then inChain s && decide (port = downPort s)
  else if typ = 6 then chainFacing s port || (chainRecord && !inChain s && decide (port = 1))
  else false

/-- A type 0x6 payload that is a CHAIN status record: the event code 0x008 (R114, R453). -/
def isChainRecord (payload : List Byte) : Bool := decide (beNat (slice payload 0 2) = 0x4008)

/-- Check 4 of R105: version, type and port, PORT subfields, time tag, MANT_W, PAYLOAD_LEN (R86 to R91). -/
def headerOk (s : State) (port : Nat) (eff : List Byte) : Bool :=
  let h := effHdr eff
  decide (16 ≤ eff.length) && decide (h.version = 1) && typeAccepted s port h.typ (isChainRecord (eff.drop 16)) &&
    (decide (h.half = 0) || isSplit s) &&
    (decide (h.module = 0) || (inChain s && decide (h.module ≤ chainMembers s) && decide (h.typ ≠ 1 ∧ h.typ ≠ 3))
      || (decide (h.typ = 6) && !inChain s)) &&
    (decide (4 < h.typ) || tagValid (gridMu s h.half) h.tag) &&
    (!h.compressed || decide (h.typ ≠ 1 ∧ h.typ ≠ 4) || decide (h.mantW = 9 ∨ h.mantW = 12 ∨ h.mantW = 16)) &&
    decide (h.payloadLen ≤ eff.length - 16) && (decide (h.payloadLen ≠ 0) || decide (h.typ = 5 ∨ h.typ = 6))

/-- The lane that a frame arrives on belongs to its port, and its link is up. -/
def frameArrives (s : State) (f : RxFrame) : Bool :=
  (portLanes s.fh.portConfig f.port).contains f.lane && linkIsUp s f.lane

/-- The first free place of 9,216 bytes in the extension region (R27; log entry 34). -/
def extPlace (s : State) : Option Nat :=
  (List.range 29127).find? fun k => !(s.fh.waits.any fun w => decide (w.ext = some (0x50000000 + 9216 * k)))

/-- The counter of the first of checks 1 to 3 that a frame fails; downlink U-data has the extension region behind the
ingress buffer (R105, R109). -/
def frameFault (s : State) (f : RxFrame) : Option Nat :=
  if !f.fecOk && decide (ofHalf s.fh.fec f.port = 1 ∨ s.fh.portConfig < 5) then some cFecUncorr
  else if !f.fcsOk then some cFcsErr
  else
    match check2 s f with
    | some k => some k
    | none =>
      if (effHdr f.eff).typ ≠ 1 ∧ 1048576 < waiting s 1 + f.eff.length then some cRxOvf else none

/-- A packet received on a port ends the silence of its neighbour (R110, R121), and gives the address to send to (R85). -/
def noteRx (s : State) (f : RxFrame) : State :=
  let s := { s with fh := { s.fh with lastRx := tset 0 s.fh.lastRx f.port s.tm.now,
                                      lastSrc := tset none s.fh.lastSrc f.port (some f.srcMac) } }
  endEpisode (endEpisode (endEpisode s 0x14 f.port) 0x15 f.port) 0x16 f.port

/-- The hub steps down out of CHAIN and has stopped: it forwards nothing (R58, R64). -/
def hubLeaving (s : State) : Bool :=
  match s.md.prep with
  | some p => p.stopped && decide (p.target ≠ .chain)
  | none => false

/-- Forwarding downstream after check 6 (R115). -/
def forward (s : State) (f : RxFrame) : State :=
  let h := effHdr f.eff
  let down : Bool :=
    if isHub s then !hubLeaving s && decide (f.port = 0) && (decide (h.typ = 1 ∨
      h.typ = 3) || (decide (h.typ = 5 ∨ h.typ = 7) && decide (1 ≤ h.module)))
    else if isMember s then
      decide (f.port = 1) && !lastMember s && (decide (h.typ = 1 ∨ h.typ = 3) ||
        (decide (h.typ = 5 ∨ h.typ = 7) && decide (s.fh.position < h.module)))
    else false
  if down then sendOn s (downPort s) f.eff true else s

/-- Checks 1 to 7 of R105: the state after them, and whether the packet goes on. That a packet which checks 4 to 6 discard counts as
received for R110 and R121 is the model's choice (log entry 151). -/
def receive (s : State) (f : RxFrame) : State × Bool :=
  if !frameArrives s f then (s, false)
  else
    match frameFault s f with
    | some k => (fhCount s f.port k, false)
    | none =>
      let s := noteRx s f
      if !headerOk s f.port f.eff then (fhCount s f.port cBadHdr, false)
      else
        let h := effHdr f.eff
        if h.poison && decide (h.typ ≠ 4) then (fhCount s f.port cRxPoison, false)
        else
          match seqCheck s f.port h with
          | (false, s) => (s, false)
          | (true, s) => (forward s f, true)

/-- The payload of a packet: PAYLOAD_LEN bytes after the header. -/
def payload (f : RxFrame) : List Byte := (f.eff.drop 16).take (effHdr f.eff).payloadLen

end Sys2Proof.Machine
end

