-- ==== Sys2Proof/Machine/Fronthaul.lean ====
section
/-! DEFINITION. The rows of the fronthaul: what each received packet does, uplink transmission, CHAIN accumulation, silence
and links (R92 to R123). -/

namespace Sys2Proof.Machine

/-! Checks 8 to 12 of R105 -/

/-- The next stroke of the grid of STANDBY on `u`: the effective stroke of a change to STANDBY that is ready (R58, R399). -/
def nextStandby (s : State) : Int := (uFp s / (slotFp 1 : Int) + 1) * slotFp 1

/-- Check 8: the counter of a data-plane packet that the mode does not process: IDLE_DROP_CNT, or MODE_DROP_CNT (`none`) while
the data plane is stopped or muted for a change or a time step (R59, R105, R414). -/
def check8 (s : State) (h : EffHdr) : Option (Option Nat) :=
  let forChange : Bool := decide (h.typ ≠ 4)
  let drop : Option (Option Nat) := some (if forChange then none else some cIdleDrop)
  match s.md.prep with
  | some p =>
    if p.stopped ∨ !activeMode s.md.mode then drop
    else if s.md.stepStop.isSome then drop
    else if p.ready ∧ p.target = .standby ∧ nextStandby s ≤ slotStart s h.half (slotNear s h.half h.tag) then drop
    else none
  | none =>
    if !activeMode s.md.mode then some (some cIdleDrop)
    else if s.md.stepStop.isSome then drop
    else none

/-- Drops a packet at check 8. -/
def dropAt8 (s : State) (port : Nat) : Option Nat → State
  | some k => fhCount s port k
  | none => { s with md := { s.md with dropCnt := satN 32 (s.md.dropCnt + 1) } }

/-- Microseconds in 2⁻¹⁶ ns. -/
def usFp (n : Nat) : Int := (n * 1000 * fp : Nat)

/-- Check 9 for types 1 and 3: the instant that its window refers to, and whether the packet is early or late (R107, R116). -/
def window (s : State) (h : EffHdr) : Option Nat :=
  let n := slotNear s h.half h.tag
  let (at', op, cl) := if h.typ = 3 then (slotStart s h.half n, s.fh.csOpen, s.fh.csClose)
    else (ballStart s h.half n h.tag.symbol, s.fh.udOpen, s.fh.udClose)
  let left := at' - uFp s
  if usFp op < left then some cEarly
  else if left < usFp (cl - 2 * chainPos s) then some cLate
  else none

/-- Checks 8 to 11 for types 1 and 3: the state, and whether the sections are read. `ok` is check 11. -/
def dataChecks (s : State) (f : RxFrame) (ok : Bool) : State × Bool :=
  let h := effHdr f.eff
  match check8 s h with
  | some k => (dropAt8 s f.port k, false)
  | none =>
    match window s h with
    | some k =>
      let s := fhCount s f.port k
      (if k = cLate then raise s 0x12 f.port [(f.port : Int), (h.typ : Int)] else s, false)
    | none =>
      if h.sectionCnt = 0 then (fhCount s f.port cKeepalive, false)
      else if !ok then (fhCount s f.port cBadLen, false)
      else (s, true)

/-- A frame of the row's type goes through checks 1 to 7, then on to `body`; one of another type is no event of the row. -/
def onType (t : Nat) (f : RxFrame) (body : State → State) (s : State) : State :=
  if (effHdr f.eff).typ ≠ t then s
  else
    match receive s f with
    | (s, false) => s
    | (s, true) => body s

/-- Types 5 and 7 are applied when MODULE is the module's position (R115). -/
def forThis (s : State) (h : EffHdr) : Bool := decide (h.module = chainPos s)

/-! C-sections (R92 to R96) -/

/-- A C-section as its 24 bytes give it. -/
def sectionOf (h : EffHdr) (b : List Byte) : Section :=
  let v (i : Nat) : Nat := (nth (0 : Byte) b i).toNat
  { dir := if v 2 / 128 = 0 then .dl else .ul, half := h.half, slot := { h.tag with symbol := 0 }, id := beNat (slice b 0 2),
    wmode := v 2 / 32 % 4, beam := v 3, user := beNat (slice b 4 4), prbStart := beNat (slice b 8 2),
    prbCnt := beNat (slice b 10 2), symStart := v 12, symCnt := v 13, group := v 14,
    pilot := if v 2 / 16 % 2 = 1 then some { sym := v 16 / 16, nsym := v 16 % 16, comb := v 17 / 64, combOff := v 17 / 16 % 4,
                                             cshift := v 17 % 16, seq := beNat (slice b 18 2) } else none,
    order := 0 }

/-- The user tag that denotes the sector beam (R92). -/
def sectorTag : Nat := 0xFFFFFFFF

/-- The section uses the sector beam by definition (R93, R138). -/
def Section.sector (x : Section) : Bool := decide (x.user = sectorTag ∨ x.wmode = 2)

/-- Spacing of a comb code (R92). -/
def combStep (c : Nat) : Nat := 2 ^ c

/-- The pilot descriptor breaks a rule of R95. -/
def Pilot.bad (p : Pilot) (symStart symCnt : Nat) : Bool :=
  decide (p.nsym = 0 ∨ 2 < p.nsym ∨ p.sym < symStart ∨ symStart + symCnt < p.sym + p.nsym ∨ p.comb = 3 ∨
    combStep p.comb ≤ p.combOff)

def overlaps (a n b m : Nat) : Bool := decide (a < b + m ∧ b < a + n)

/-- Accepted sections of the same slot, direction and half. -/
def peersOf (s : State) (x : Section) : List Section :=
  s.fh.sections.filter fun y => decide (y.dir = x.dir ∧ y.half = x.half) && sameSlot y.slot x.slot

/-- The rule of R96 that a section breaks, by its counter. -/
def judgeSection (s : State) (x : Section) : Option Nat :=
  let peers := peersOf s x
  if x.prbCnt = 0 ∨ x.symCnt = 0 then some cZeroPrb
  else if x.wmode = 3 ∨ 14 < x.symStart + x.symCnt ∨ carrierPrbs s x.half < x.prbStart + x.prbCnt then some cRange
  else if peers.any fun y => decide (y.id = x.id) then some cSectionDup
  else if peers.any fun y => decide (y.beam = x.beam) && overlaps y.prbStart y.prbCnt x.prbStart x.prbCnt &&
      overlaps y.symStart y.symCnt x.symStart x.symCnt then some cSectionOverlap
  else if 2048 ≤ peers.length then some cSectionOvf
  else none

/-- A lookup for weight formation of a user in a slot has been issued already, in SPLIT one for each half (R199; DEDUCED, log entry 190). -/
def lookedUp (s : State) (user half : Nat) (slot : TimeTag) : Bool :=
  (s.ws.reads.any fun r => decide (r.user = user ∧ r.half = half ∧ r.est = none) && sameSlot r.slot slot) ||
    (lookupResult s user half slot).isSome

/-- A section's lookup deadline: S of the symbol before its first symbol (R325). -/
def lookupDeadline (s : State) (x : Section) : Int :=
  let (n, l) := symbolBefore (slotNear s x.half x.slot) x.symStart
  startInstant s x.dir x.half n l

/-- Queues the lookup of an accepted section, or brings forward the deadline of one that still waits (R199, R325). -/
def issueLookup (s : State) (x : Section) : State :=
  if x.sector then s
  else
    let d := lookupDeadline s x
    let mine (r : P0Read) : Bool := decide (r.user = x.user ∧ r.half = x.half ∧ r.est = none) && sameSlot r.slot x.slot
    if s.ws.reads.any mine then
      { s with ws := { s.ws with reads := s.ws.reads.map fun r => if mine r ∧ d < r.deadline then { r with deadline := d } else r } }
    else if lookedUp s x.user x.half x.slot then s
    else queueRead s { user := x.user, half := x.half, slot := x.slot, est := none, deadline := d }

/-- The uptime count at the stroke of a slot (R196, R400). -/
def uptimeAt (s : State) (half : Nat) (n : Int) : Nat :=
  let q : Int := (125000 * fp : Nat)
  ((s.tm.uptime : Int) + (slotStart s half n / q - uFp s / q)).toNat

/-- Keeps the estimation item of a valid pilot descriptor, which its pilot symbols fill; its own lookup is issued as they begin (R95,
R129, R201). -/
def queueEstimation (s : State) (x : Section) (p : Pilot) : State :=
  let n := slotNear s x.half x.slot
  let id := s.fab.nextItem
  let item : EstItem :=
    { id := id, user := x.user, half := x.half, slot := x.slot, sectionId := x.id, pilot := p, prbStart := x.prbStart,
      prbCnt := x.prbCnt, rx := [], symsLeft := p.nsym, lookup := none, heard := uptimeAt s x.half n }
  { s with fab := { s.fab with nextItem := id + 1, est := s.fab.est ++ [item] } }

/-- One C-section: ignored with its counter, or accepted (R95, R96). -/
def takeSection (port : Nat) (s : State) (x : Section) : State :=
  match judgeSection s x with
  | some k => fhCount s port k
  | none =>
    let y := { x with order := s.fh.nextOrder }
    let s := { s with fh := { s.fh with nextOrder := s.fh.nextOrder + 1, sections := s.fh.sections ++ [y] } }
    let s := issueLookup s y
    match y.dir, y.pilot with
    | .ul, some p =>
      if p.bad y.symStart y.symCnt then fhCount s port cPilotBad
      else if y.user = sectorTag then s
      else queueEstimation s y p
    | _, _ => s

/-- The sections of a C-section packet. -/
def sectionsOf (f : RxFrame) : List Section :=
  let h := effHdr f.eff
  (List.range h.sectionCnt).map fun i => sectionOf h (slice (payload f) (24 * i) 24)

/-- C_SECTION. -/
def execCSection (f : RxFrame) (s : State) : Out :=
  .next (onType 3 f (fun s =>
    let h := effHdr f.eff
    match dataChecks s f (decide (h.payloadLen = 24 * h.sectionCnt)) with
    | (s, false) => s
    | (s, true) =>
      let w : PktWait := { half := h.half, tag := h.tag, typ := 3, bytes := f.eff.length, ext := none }
      judgePanic ((sectionsOf f).foldl (takeSection f.port) { s with fh := { s.fh with waits := s.fh.waits ++ [w] } })) s)

/-! Downlink U-data (R97 to R99, R109) -/

/-- A section of a U-data or partial-sum payload. -/
structure UdSection where
  id : Nat
  beam : Nat
  flags : Nat
  prbStart : Nat
  prbCnt : Nat
  blocks : List (List Byte)
deriving DecidableEq, Repr

/-- The sections of a payload at a block size; `none` where they do not add up exactly (R98). -/
def udSections (blk : Nat) : Nat → List Byte → Option (List UdSection)
  | 0, b => if b = [] then some [] else none
  | n + 1, b =>
    let cnt := beNat (slice b 6 2)
    if b.length < 8 + cnt * blk then none
    else
      let x : UdSection :=
        { id := beNat (slice b 0 2), beam := (nth (0 : Byte) b 2).toNat, flags := (nth (0 : Byte) b 3).toNat,
          prbStart := beNat (slice b 4 2), prbCnt := cnt,
          blocks := (List.range cnt).map fun i => (b.drop (8 + i * blk)).take blk }
      (udSections blk n (b.drop (8 + cnt * blk))).map (x :: ·)

/-- Mantissa width of a received packet: 0 uncompressed. -/
def rxMant (h : EffHdr) : Nat := if h.compressed then h.mantW else 0

/-- Whether a stored PRB is the one of a section, symbol and PRB. -/
def samePrb (half : Nat) (tag : TimeTag) (id prb : Nat) (d : PrbData) : Bool :=
  decide (d.half = half ∧ d.tag = tag ∧ d.id = id ∧ d.prb = prb)

/-- Puts a downlink PRB in its place; the packet that arrives last stands (R99). -/
def putDl (s : State) (d : PrbData) : State :=
  { s with fh := { s.fh with dlData := d :: s.fh.dlData.filter fun e => !samePrb d.half d.tag d.id d.prb e } }

/-- One downlink U-data section (R99). -/
def takeUd (port : Nat) (h : EffHdr) (ext : Option Nat) (s : State) (x : UdSection) : State :=
  if x.prbCnt = 0 then fhCount s port cZeroPrb
  else
    match s.fh.sections.find? fun y => decide (y.dir = .dl ∧ y.half = h.half ∧ y.id = x.id) && sameSlot y.slot h.tag with
    | none => fhCount s port cNoSection
    | some y =>
      let symOk := decide (y.symStart ≤ h.tag.symbol ∧ h.tag.symbol < y.symStart + y.symCnt)
      let inside (p : Nat) : Bool := decide (y.prbStart ≤ p ∧ p < y.prbStart + y.prbCnt)
      let all := symOk && inside x.prbStart && inside (x.prbStart + x.prbCnt - 1)
      let s := if all then s else fhCount s port cRange
      if !symOk then s
      else
        x.blocks.zipIdx.foldl (fun s b =>
          let p := x.prbStart + b.2
          if inside p then
            putDl s { half := h.half, tag := h.tag, unit := y.beam, prb := p, vals := cplxOf (decodePrb b.1 (rxMant h)), id := y.id,
                      ext := ext }
          else s) s

/-- A packet takes its place to wait for the Eight: in its on-chip buffer, else in the first free place of the extension region
through P2; `none` where that is full (R27, R109, R118). Where in the region it lies is the model's choice (log entry 34). The
second part is its Cave address. -/
def waitFor (s : State) (f : RxFrame) : Option (State × Option Nat) :=
  let h := effHdr f.eff
  let n := f.eff.length
  let w : PktWait := { half := h.half, tag := h.tag, typ := h.typ, bytes := n, ext := none }
  if waiting s h.typ + n ≤ 1048576 then some ({ s with fh := { s.fh with waits := s.fh.waits ++ [w] } }, none)
  else
    (extPlace s).map fun k =>
      let a := 0x50000000 + 9216 * k
      let pad := f.eff ++ List.replicate (ceilDiv n 32 * 32 - n) 0
      let s := { s with fh := { s.fh with waits := s.fh.waits ++ [{ w with ext := some a }] } }
      (queueWrite s 2 a (pad.map fun b => (b, false)), some a)

/-- The packets of a slot's C-sections leave the ingress buffer at its stroke (R109; log entry 34). -/
def takeCPackets (half : Nat) (tag : TimeTag) (s : State) : State :=
  { s with fh := { s.fh with waits := s.fh.waits.filter fun w => !(decide (w.typ = 3 ∧ w.half = half) && sameSlot w.tag tag) } }

/-- U_DATA_DOWNLINK. -/
def execUDataDownlink (f : RxFrame) (s : State) : Out :=
  .next (onType 1 f (fun s =>
    let h := effHdr f.eff
    let secs := udSections (prbBytes (rxMant h)) h.sectionCnt (payload f)
    match dataChecks s f secs.isSome with
    | (s, false) => s
    | (s, true) =>
      match waitFor s f with
      | none => fhCount s f.port cExtFull
      | some (s, ext) => (secs.getD []).foldl (takeUd f.port h ext) s) s)

/-! Partial sums (R117 to R119) -/

/-- The accumulation of a symbol. -/
def accOf (s : State) (half : Nat) (tag : TimeTag) : Option AccWait :=
  s.fh.accs.find? fun a => decide (a.half = half ∧ a.tag = tag)

def putAcc (s : State) (a : AccWait) : State :=
  { s with fh := { s.fh with accs := a :: s.fh.accs.filter fun b => !decide (b.half = a.half ∧ b.tag = a.tag) } }

/-- The deadline of R118 of a symbol has passed, or the symbol lies more than two slots back. -/
def accClosed (s : State) (half : Nat) (tag : TimeTag) : Bool :=
  match accOf s half tag with
  | some a => decide (a.deadline ≤ uFp s)
  | none => decide (slotNear s half tag + 2 < slotNow s half)

/-- The sum of a symbol is complete or has left: what still comes for it before its deadline is not needed. -/
def accDone (s : State) (half : Nat) (tag : TimeTag) : Bool := ((accOf s half tag).map fun a => a.closed).getD false

/-- PS_LATE for a symbol and a module. -/
def psLate (s : State) (tag : TimeTag) (module : Nat) : State := raise s 0x13 module [(tag.symbol : Int), (module : Int)]

/-- One section of a partial sum; one without a PRB is ignored and counted (R109). -/
def takePartial (port : Nat) (h : EffHdr) (ext : Option Nat) (s : State) (x : UdSection) : State :=
  let s := if x.prbCnt = 0 then fhCount s port cZeroPrb else s
  x.blocks.zipIdx.foldl (fun s b =>
    let d : PartialData :=
      { half := h.half, tag := h.tag, id := x.id, beam := x.beam, prb := x.prbStart + b.2,
        vals := cplxOf (decodePrb b.1 (rxMant h)), miss := x.flags.testBit 7, poison := x.flags.testBit 6,
        lateWeight := x.flags.testBit 5, mismatch := x.flags.testBit 4, bad := h.poison, lateBit := h.late, ext := ext }
    let others := s.fh.partials.filter fun e => !decide (e.half = d.half ∧ e.tag = d.tag ∧ e.id = d.id ∧ e.prb = d.prb)
    { s with fh := { s.fh with partials := others ++ [d] } }) s

/-- PARTIAL_SUM. -/
def execPartialSum (f : RxFrame) (s : State) : Out :=
  .next (onType 4 f (fun s =>
    let h := effHdr f.eff
    match check8 s h with
    | some k => dropAt8 s f.port k
    | none =>
      if accClosed s h.half h.tag then fhCount s f.port cPsLate
      else if h.sectionCnt = 0 then fhCount s f.port cKeepalive
      else
        match udSections (prbBytes (rxMant h)) h.sectionCnt (payload f) with
        | none => fhCount s f.port cBadLen
        | some secs =>
          if accDone s h.half h.tag then secs.foldl (fun s x => if x.prbCnt = 0 then fhCount s f.port cZeroPrb else s) s
          else
          match (if (accOf s h.half h.tag).isSome then some (s, none) else waitFor s f) with
          | none => fhCount s f.port cExtFull
          | some (s, ext) =>
            let s := if h.poison then psLate (fhCount s f.port cRxPoison) h.tag h.module else s
            secs.foldl (takePartial f.port h ext) s) s)

/-! CCP packets (R91, R432, R437) -/

/-- CCP_PACKET. -/
def execCcpPacket (f : RxFrame) (s : State) : Out :=
  .next (onType 5 f (fun s =>
    let h := effHdr f.eff
    if !forThis s h then s
    else
      let s := { s with ccp := { s.ccp with bandPort := some f.port } }
      if !coxRuns s then s
      else if h.payloadLen = 0 then { s with ccp := { s.ccp with outBand := s.ccp.outBand ++ [.keepalive h.seq] } }
      else if h.payloadLen < 6 ∨ 16 ≤ s.ccp.inBand.length then
        { s with ccp := { s.ccp with dropCnt := satN 32 (s.ccp.dropCnt + 1) } }
      else { s with ccp := { s.ccp with inBand := s.ccp.inBand ++ [(s.tm.now, payload f)] } }) s)

/-! Weight updates (R102, R103) -/

/-- One section of a weight update. -/
def takeUpdate (port : Nat) (s : State) (b : List Byte) : State :=
  if 512 ≤ s.fh.updatesNow then fhCount s port cWuDrop
  else
    let s := { s with fh := { s.fh with updatesNow := s.fh.updatesNow + 1 } }
    let tag := beNat (slice b 0 4)
    let op := (nth (0 : Byte) b 4).toNat
    if tag = sectorTag ∨ 1 < op then fhCount s port cRange
    else
      let u : WsUpdate := { tag := tag, write := decide (op = 0), quality := signed 16 (beNat (slice b 6 2)),
                            coef := if op = 0 then coefOf (b.drop 8) 64 else [], wait := 1 }
      { s with fh := { s.fh with updates := s.fh.updates ++ [u] } }

/-- WEIGHT_UPDATE. -/
def execWeightUpdate (f : RxFrame) (s : State) : Out :=
  .next (onType 7 f (fun s =>
    let h := effHdr f.eff
    if !forThis s h || !modesA s.md.mode then s
    else if h.sectionCnt = 0 then fhCount s f.port cKeepalive
    else if h.payloadLen ≠ 264 * h.sectionCnt then fhCount s f.port cBadLen
    else
      ((List.range h.sectionCnt).map fun i => slice (payload f) (264 * i) 264).foldl (takeUpdate f.port) s) s)

/-! CHAIN records and relayed replies (R53, R114, R115) -/

/-- The position, mode and alignment that a CHAIN status record carries after the prefix of R431 (R453). -/
def recordOf (p : List Byte) : ChainRec :=
  { position := beNat (slice p 22 4), mode := beNat (slice p 30 4), aligned := decide (beNat (slice p 38 4) = 1) }

/-- CHAIN_STATUS_RECORD. -/
def execChainStatusRecord (f : RxFrame) (s : State) : Out :=
  .next (onType 6 f (fun s =>
    if !isChainRecord (payload f) then s
    else
      let r := recordOf (payload f)
      let s := { s with fh := { s.fh with records := tset none s.fh.records r.position (some r) } }
      let s := if f.port = 1 ∧ !isHub s then { s with fh := { s.fh with position := r.position + 1 } } else s
      if isMember s ∧ f.port = 0 then sendOn s 1 f.eff else s) s)

/-- CCP_REPLY_UPSTREAM. -/
def execCcpReplyUpstream (f : RxFrame) (s : State) : Out :=
  .next (onType 6 f (fun s =>
    if isChainRecord (payload f) || !inChain s || decide (f.port ≠ downPort s) then s else sendOn s (upPort s) f.eff) s)

/-! MAC control frames and discards (R81, R105, R404) -/

/-- MAC_CONTROL_FRAME. -/
def execMacControlFrame (port : Nat) (s : State) : Out :=
  .next (if portUp s port then fhCount s port cPause else s)

/-- A PTP message that port A discards: an unsupported kind, another domain, or a lane that is not lane 0 (R403 to R405). The
places of its fields are those of IEEE 1588-2019 (log entry 35). -/
def ptpUnsupported (s : State) (f : RxFrame) : Bool :=
  let kind := (nth (0 : Byte) f.eff 0).toNat % 16
  let twoStep := (nth (0 : Byte) f.eff 6).toNat / 2 % 2
  !(decide (kind = 0 ∧ twoStep = 0) || decide (kind = 0xB ∨ kind = 9) || decide (kind = 1 ∧ f.port = 1)) ||
    decide ((nth (0 : Byte) f.eff 4).toNat ≠ fget s F.timeCfgDomain) ||
    (decide (2 ≤ s.fh.portConfig) && decide (f.port = 0) && decide (f.lane ≠ 0))

/-- FRAME_DISCARD: acts where the frame fails check 1 or 2, has a TYPE its port does not take, or is a PTP message that the
device does not support. -/
def frameDiscardFx (f : RxFrame) (s : State) : State :=
  if !frameArrives s f then s
  else if f.etherType = 0x88F7 then
    if !f.fecOk ∨ !f.fcsOk then (match frameFault s f with | some k => fhCount s f.port k | none => s)
    else if 1 < f.vlanTags then fhCount s f.port cNotEff
    else if ptpUnsupported s f then finc s F.ptpDropCnt else s
  else
    match frameFault s f with
    | some k =>
      if k = cRxOvf ∧ typeAccepted s f.port (effHdr f.eff).typ (isChainRecord (f.eff.drop 16)) then s else fhCount s f.port k
    | none =>
      if typeAccepted s f.port (effHdr f.eff).typ (isChainRecord (f.eff.drop 16)) then s
      else fhCount (noteRx s f) f.port cBadHdr

/-- FRAME_DISCARD. -/
def execFrameDiscard (f : RxFrame) (s : State) : Out := .next (frameDiscardFx f s)

/-! Uplink symbols and what they wait for (R111, R118, R119) -/

/-- Uplink sections of a symbol in the arrival order of their C-sections. -/
def ulSections (s : State) (half : Nat) (tag : TimeTag) : List Section :=
  sortBy (fun a b => decide (a.order ≤ b.order)) (s.fh.sections.filter fun x => decide (x.dir = .ul ∧ x.half = half ∧
    x.symStart ≤ tag.symbol ∧ tag.symbol < x.symStart + x.symCnt) && sameSlot x.slot tag)

/-- The module waits for partial sums from downstream (R118). -/
def waitsDown (s : State) : Bool := inChain s && !lastMember s

/-- Partial data of one PRB of a section. -/
def partialOf (s : State) (half : Nat) (tag : TimeTag) (id prb : Nat) : Option PartialData :=
  s.fh.partials.find? fun e => decide (e.half = half ∧ e.tag = tag ∧ e.id = id ∧ e.prb = prb)

/-- Every section and PRB of a symbol has arrived from downstream. -/
def partialsComplete (s : State) (half : Nat) (tag : TimeTag) : Bool :=
  (ulSections s half tag).all fun x => (List.range x.prbCnt).all fun i => (partialOf s half tag x.id (x.prbStart + i)).isSome

/-- The deadline of the accumulation of a symbol whose combined beams are ready at `t` (R118). -/
def accDeadline (s : State) (t : Int) : Int := t + usFp (s.fh.accWait * (s.md.full.cfg.members - chainPos s))

/-- Saturates a sum to `w` bits and counts it (R119). -/
def psSat (w : Nat) (acc : Int) : Int × Nat :=
  let lo : Int := -(2 ^ (w - 1))
  let hi : Int := 2 ^ (w - 1) - 1
  (clampI lo hi acc, if acc < lo ∨ hi < acc then 1 else 0)

/-- The symbol's combined beams are ready: its class 1 items have finished, and it has not been sent. A symbol that was cut
unfinished is not there. -/
def symbolReady (s : State) (half : Nat) (tag : TimeTag) : Bool :=
  s.fab.symbols.any fun r => decide (r.dir = .ul ∧ r.half = half ∧ r.tag = tag) && r.finished.isSome && !r.sent

/-! Silence (R110, R121) -/

/-- A port has been silent for `ms` since its last EFF packet and since the effective stroke of the mode. -/
def silentFor (s : State) (port ms : Nat) : Bool :=
  decide (max (tget 0 s.fh.lastRx port) s.md.effectiveNow + ms * (tickRate / 1000) ≤ s.tm.now)

/-- Raises a silence event once per episode, which the next packet on that port ends, whatever the mode then is. -/
def silence (s : State) (c : Bool) (code port : Nat) : State :=
  if c && !inEpisode s code port then raiseEpisode s code port [(port : Int)] else s

/-- HOST_SILENT. -/
def execHostSilent (s : State) : Out :=
  .next (silence s (activeMode s.md.mode && decide (s.md.mode ≠ .service) && !isMember s && silentFor s 0 100) 0x14 0)

/-- HUB_SILENT. -/
def execHubSilent (s : State) : Out := .next (silence s (isMember s && silentFor s 1 30) 0x15 1)

/-- MEMBER_SILENT. -/
def execMemberSilent (s : State) : Out :=
  .next (silence s (waitsDown s && silentFor s (downPort s) 30) 0x16 (downPort s))

/-! Links (R113, R106) -/

/-- A lane loses its link, and with it the frames that wait on the link (R113). -/
def linkDownFx (lane : Nat) (s : State) : State :=
  if !laneUp s lane then s
  else raise (loseFrames { s with fh := { s.fh with linkUp := put s.fh.linkUp lane false } }) 0x17 lane [(lane : Int)]

/-- LINK_DOWN. -/
def execLinkDown (lane : Nat) (s : State) : Out := .next (linkDownFx lane s)

/-- The module is the last member of its chain: in CHAIN, or by the configuration with which it was last in CHAIN (R44, R114; log entry
174). -/
def lastInChain (s : State) : Bool :=
  lastMember s ||
    (!inChain s && (match s.md.stored.find? fun e => decide (e.1 = modeCode .chain) with
      | some e => decide (e.2.cfg.role = 1 ∧ e.2.cfg.members ≤ s.fh.position)
      | none => false))

/-- The lanes whose links a retraining waits for: not those of the last member's port A, which stays down (R78, R114). -/
def lanesAwaited (s : State) : List Nat :=
  portLanes s.fh.portConfig 0 ++ portLanes s.fh.portConfig 1 |>.filter fun l =>
    !(lastInChain s && decide (laneOwner s.fh.portConfig l = 0))

/-- A lane of the configuration comes up: with its link the streams of its port lose their state (R106), and a retraining that has
brought up every lane of both ports ends (R78). The last member's port A is not waited for (R114). In RECOVERY only MSPI is left
(R67). -/
def linkUpFx (lane : Nat) (s : State) : State :=
  if 4 ≤ lane ∨ laneUp s lane ∨ s.md.mode = .recovery ∨ s.pw.power ≠ .on ∧ s.pw.power ≠ .starting ∧ s.pw.power ≠ .waking then s
  else
    let port := laneOwner s.fh.portConfig lane
    let s := { s with fh := { s.fh with linkUp := put s.fh.linkUp lane true } }
    let s := if linkIsUp s lane then (s.fh.streams.filter fun t => decide (t.port = port)).foldl clearStream s else s
    let s := raise s 0x18 lane [(lane : Int)]
    match s.fh.retrain with
    | some h =>
      if (lanesAwaited s).all (laneUp s) then
        complete { s with fh := { s.fh with retrain := none } } { hdr := h, opcode := 0x0030 } stOk 0 []
      else s
    | none => s

/-- LINK_UP. -/
def execLinkUp (lane : Nat) (s : State) : Out := .next (linkUpFx lane s)

end Sys2Proof.Machine
end

