-- ==== Sys2Proof/Machine/Slots.lean ====
section
/-! DEFINITION. The settings that a slot is processed under: units, sector beams, RECIP, shifts, crews and PHASE_COMP, those in
force and those that the next stroke brings (R31, R32, R60, R139, R156, R160, R219, R399). -/

namespace Sys2Proof.Machine

/-! Sector beams (R139) -/

/-- Broadside at 1/16 of full scale: each sector-beam weight after power-on (R139). -/
def broadside : List Cplx := List.replicate 64 { re := 0x0800, im := 0 }

/-- Key of a beam in the sector-beam table. -/
def sectorKey (d : Dir) (half beam : Nat) : Nat := (if d = .dl then 0 else 128) + 64 * half + beam

/-- Sector-beam weights of a beam (R139). -/
def sectorBeam (s : State) (d : Dir) (half beam : Nat) : List Cplx := tget broadside s.fab.sector (sectorKey d half beam)

def applySectorBeam (s : State) (d : Dir) (half beam : Nat) (weights : List Cplx) : State :=
  { s with fab := { s.fab with sector := tset broadside s.fab.sector (sectorKey d half beam) weights } }

/-! Units (R156, R160, R161) -/

/-- A unit of a KIND, its number and half, by the number of R507. -/
def unitOf (kind : UnitKind) (half n : Nat) : Nat :=
  match kind with
  | .txPath => uTx n
  | .rxPath => uRx n
  | .dlBeam => uBeam .dl half n
  | .ulBeam => uBeam .ul half n
  | .loGroup => uLo n
  | .crew => uCrew n

/-- Units of a KIND, per half for beams. -/
def kindCount : UnitKind → Nat
  | .loGroup => 4
  | .crew => 32
  | _ => 64

/-- Cox's test of a FAULTED unit fails: an LO group without lock, or a fault that its flags or its pattern show (R160). -/
def testFails (s : State) (kind : UnitKind) (n failing : Nat) : Bool :=
  match kind with
  | .loGroup => decide (rsm s n < rsmLocked)
  | _ => failing.testBit n

/-- One unit of a unit-state command: the state, and whether it counts as failed (R160, R161). -/
def applyUnit (kind : UnitKind) (half : Nat) (inService : Bool) (failing : Nat) (s : State) (n : Nat) : State × Bool :=
  let u := unitOf kind half n
  let fresh := s.fab.faults.any fun p => decide (p.1 = u)
  if !inService then (if unitFaulted s u then s else setMute (setUnit s u 1) u true, false)
  else if fresh then (setUnit s u 2, true)
  else if unitState s u = 2 ∧ testFails s kind n failing then (s, true)
  else (setMute (setUnit s u 0) u false, false)

/-- A unit-state command at its stroke, and the lowest number of a failed unit. -/
def applyUnitState (s : State) (kind : UnitKind) (units half : Nat) (inService : Bool) (failing : Nat) : State × Option Nat :=
  (unitsOf units (kindCount kind)).foldl (fun acc n =>
    let (t, bad) := applyUnit kind half inService failing acc.1 n
    (t, if bad then (match acc.2 with | some m => some m | none => some n) else acc.2)) (s, none)

/-! Weight-store settings (R212, R219) -/

/-- RECIP of every path from a command. -/
def putRecip (t : Tbl Cplx) : List Cplx → Nat → Tbl Cplx
  | [], _ => t
  | c :: cs, p => putRecip (tset { re := 16384, im := 0 } t p c) cs (p + 1)

/-- The weight-store settings take effect at a stroke (R219). -/
def applyWsConfig (s : State) (q : WsConfigReq) : State :=
  { s with ws := { s.ws with blendK := q.blendK.getD s.ws.blendK, estMinQ := q.estMinQ.getD s.ws.estMinQ,
                             ageMin := q.ageMin.getD s.ws.ageMin, regZf := q.regZf.getD s.ws.regZf,
                             recip := match q.recip with | some l => putRecip s.ws.recip l 0 | none => s.ws.recip } }

/-! Changes due (R31, R60, R399) -/

/-- The reply slot from which on changes are too late for a half's next stroke, and the shifts that it brings, where the first symbol of
its slot is already under way (R31). -/
def dueLimit (s : State) (half : Nat) : Option (Nat × List Nat) := nth none s.ccp.dueLimit half

/-- The changes due at a stroke of a half: at an effective stroke all of them; none while a change of mode is in preparation. -/
def dueNow (s : State) (half : Nat) (entered : Bool) : List Due :=
  let inTime (d : Due) : Bool := match dueLimit s half with | some l => decide (d.slot < l.1) | none => true
  if changesWait s || !coxRuns s then []
  else s.ccp.due.filter fun d => entered || (decide ((if isSplit s then d.grid else 0) = half) && inTime d)

/-- The shifts of a half that its next stroke brings (R29, R60, R162). -/
def nextShifts (s : State) (half : Nat) : List Nat :=
  if frozen s then s.fab.shifts
  else
    match dueLimit s half with
    | some l => l.2
    | none =>
      let (d, u) := if half = 0 then (fget s F.fabShiftShiftDl0, fget s F.fabShiftShiftUl0)
        else (fget s F.fabShiftShiftDl1, fget s F.fabShiftShiftUl1)
      put (put s.fab.shifts (2 * half) d) (2 * half + 1) u

/-- What a due change does to the settings of a slot. -/
def settle (s : State) (d : Due) : State :=
  match d.change with
  | .unitState k units half on failing => (applyUnitState s k units half on failing).1
  | .sectorBeam dir half beam w => applySectorBeam s dir half beam w
  | .wsConfig q => applyWsConfig s q
  | .phaseComp v => { s with rf := { s.rf with phaseCompF := v } }
  | _ => s

/-- The state as the slot that a half's next stroke opens sees it. -/
def nextView (s : State) (half : Nat) : State :=
  let t := (dueNow s half false).foldl settle s
  renewCrews half { t with fab := { t.fab with shifts := nextShifts s half } }

/-- The state as a tag's slot sees it: the configuration of its own slot (R31, R32). -/
def viewFor (s : State) (half : Nat) (t : TimeTag) : State :=
  let k := slotsAhead s half t
  if k = 0 then s else if k < 0 then withCfg s (nth {} s.fab.before half) else nextView s half

/-- The first symbol of the slot that the next stroke opens starts: later changes wait for the stroke after (R31). -/
def holdChanges (s : State) (half : Nat) (t : TimeTag) : State :=
  if slotsAhead s half t = 1 ∧ (dueLimit s half).isNone then
    { s with ccp := { s.ccp with dueLimit := put s.ccp.dueLimit half (some (s.ccp.nextSlot, nextShifts s half)) } }
  else s

end Sys2Proof.Machine
end

