-- ==== Sys2Proof/Machine/Transmit.lean ====
section
/-! DEFINITION. Symbol boundaries at the balls: radio states, the downlink time-sample chain of every TX path, and the FREQ
diversion (R21, R226, R237 to R243, R261 to R268, R272, R288). -/

namespace Sys2Proof.Machine

/-- Carrier centre of a path in Hz (R262). -/
def carrierHz (s : State) (half p : Nat) : Int := (fget s F.loFreq (p / 16) : Int) * 1000 + ofHalf s.rf.ncoF half

/-- DIG_GAIN of a path's power-table entry (R245, R261). -/
def digGainOf (s : State) (p : Nat) : Nat := getBits (nth 0 (tableOf s (p / 16)) (tget 159 s.rf.effIdx p)) 0 16

/-- Step 1 of R261. -/
def scaleTx (gain : Nat) (x : Cplx) : Cplx := CplxOps.mapParts (fun v => asr (v * gain) 15) x

/-- No diversion keeps a path's TX driver muted (R272). -/
def txDriven (s : State) (p : Nat) : Bool := decide (tget 0 s.rf.loopback (p / 16) ≠ 1 ∧ tget 0 s.rf.loopback (p / 16) ≠ 2)

/-- A TX path's DAC input carries its samples: its group transmits, the path works, no PLL outage and no diversion mutes it
(R28, R226, R237, R272). -/
def txOpen (s : State) (p : Nat) : Bool :=
  inTx (rsm s (p / 16)) && txWorks s p && !txHeld s (halfOfGroup s (p / 16)) && !planeStopped s && txDriven s p

/-- Zeros in place of samples. -/
def zeros (l : List Cplx) : List Cplx := l.map fun _ => CplxOps.zero

/-- The DAC samples of a symbol follow those since the NCOs restarted (R262). -/
def sampleNo (s : State) (half : Nat) (tag : TimeTag) (rateKhz : Nat) : Int :=
  samplesIn rateKhz (symbolStartFp s half tag - s.rf.ncoStart)

/-- The phase term of a symbol of a path (R268). -/
def phaseOf (s : State) (half : Nat) (tag : TimeTag) (p : Nat) : Int × Nat :=
  if s.rf.phaseCompF = 1 then
    phaseTurn (carrierHz s half p) (gridKhz s half) (gridMu s half) (slotNear s half tag) tag.symbol
  else (0, 1)

/-- Samples of the prefix of a tag's symbol. -/
def cpOf (s : State) (half : Nat) (tag : TimeTag) : Nat :=
  cpLen (nFft s half) (gridMu s half) (slotNear s half tag) tag.symbol

/-- The actuator's history: seven samples, none kept while they are all zero. -/
def trimHistory (l : List Cplx) : List Cplx := if l.all fun c => decide (c = CplxOps.zero) then [] else l

/-- The actuator on a symbol; zero samples after zero samples give zero. -/
def actuateSymbol (s : State) (p : Nat) (x : List Cplx) : List Cplx × Nat × List Cplx :=
  let hist := tget [] s.cal.history p
  if decide (hist = []) && x.all fun c => decide (c = CplxOps.zero) then (x, 0, [])
  else
    let (y, sat, last) := actuate (tget [] s.cal.lutInForce p) hist x
    (y, sat, trimHistory last)

/-- The chain of one TX path over one symbol, stages 5 to 9 of R21: OFDM engine, actuator, digital gain, interpolation and NCO, and
the DAC. A path without downlink values has a zero stream. Under FREQ the values go to the uplink instead (R272). -/
def txPath (half : Nat) (tag : TimeTag) (s : State) (p : Nat) : State :=
  let mine := s.fab.dlOut.filter fun d => decide (d.half = half ∧ d.tag = tag ∧ d.unit = p)
  if absentTx s p then s
  else if tget 0 s.rf.loopback (p / 16) = 1 then
    { s with fab := { s.fab with loopIn := s.fab.loopIn ++ mine },
             cal := { s.cal with txOut := tset [] s.cal.txOut p [], dac := tset [] s.cal.dac p [], history := tset [] s.cal.history p [] } }
  else
    let n := nFft s half
    let rate := max 1 (rateOfPath s p)
    let (x, clips) := ofdmTx (binsOf mine n (carrierPrbs s half)) n (ofHalf s.rf.ofdmDlF half) (cpOf s half tag) (phaseOf s half tag p)
    let (y, sat, hist) := actuateSymbol s p x
    let (w, clamped) := txFrontEnd s.freeCnt (983040 / rate) (ncoWord (ofHalf s.rf.ncoF half) 983040) (sampleNo s half tag 983040)
      (y.map (scaleTx (digGainOf s p)))
    let quiet (l : List Cplx) : List Cplx := if txOpen s p then l else zeros l
    let s := finc s F.dpdSatCnt 0 sat
    let tap : TxTap := { half := half, tag := tag, actIn := x, actOut := y, dac := w }
    { s with
      freeCnt := s.freeCnt + 1
      rf := { s.rf with ofdmSat := tmod 0 s.rf.ofdmSat p fun k => satN 32 (k + clips),
                        dfeSat := tmod 0 s.rf.dfeSat p fun k => satN 32 (k + clamped) }
      cal := { s.cal with dpdSat := tmod 0 s.cal.dpdSat p fun k => satN 32 (k + sat),
                          history := tset [] s.cal.history p hist,
                          txOut := tset [] s.cal.txOut p (quiet (y.map (scaleTx (digGainOf s p)))),
                          dac := tset [] s.cal.dac p (quiet w),
                          txTaps := tmod [] s.cal.txTaps p fun l => (tap :: l).take 64 } }

/-- A symbol boundary of a half (R240 to R243). -/
def symbolBoundaryFx (half : Nat) (tag : TimeTag) (s : State) : State :=
  if !activeMode s.md.mode || !(decide (half = 0) || (decide (half = 1) && isSplit s)) || !tagValid (gridMu s half) tag then s
  else
    let s := watchWindow half (radioBoundary half tag s)
    let recent (d : PrbData) : Bool := decide (d.half ≠ half ∨ slotNear s half tag < slotNear s half d.tag + 2)
    let s := { s with fab := { s.fab with loopIn := s.fab.loopIn.filter recent } }
    (halfPaths s half).foldl (txPath half tag) s

/-- SYMBOL_BOUNDARY. -/
def execSymbolBoundary (half : Nat) (tag : TimeTag) (s : State) : Out := .next (symbolBoundaryFx half tag s)

end Sys2Proof.Machine
end

