-- ==== Sys2Proof/Machine/Receive.lean ====
section
/-! DEFINITION. The uplink stages 1 to 4 of R22: the ADCs, the digital front end, the OFDM engine of every RX path, and the
diversions of R272 (R226, R237, R259, R260, R264 to R268, R272, R273). -/

namespace Sys2Proof.Machine

/-- The values of a path's whole carrier that FREQ has copied from the downlink of a symbol; zero where there are none (R272). -/
def loopedValues (s : State) (half : Nat) (tag : TimeTag) (p : Nat) : List Cplx :=
  (List.range (carrierPrbs s half)).flatMap fun b =>
    match s.fab.loopIn.find? fun d => decide (d.half = half ∧ d.tag = tag ∧ d.unit = p ∧ d.prb = b) with
    | some d => (List.range 12).map fun k => cnth d.vals k
    | none => List.replicate 12 CplxOps.zero

/-- A running capture, the host's or Cox's, takes an RX path's samples (R259, R302). -/
def rxCaptured (s : State) (p : Nat) : Bool :=
  (List.range 16).any fun r => decide (ringState s r = ringRunning) &&
    decide (fget s F.capCfgSource r = 4 ∨ fget s F.capCfgSource r = 5) && decide (fget s F.capCfgPath r = p)

/-- What stands at the front end's input of an RX path over a symbol: its ADC words while they run, or under DIGITAL the TX front-end
output of the same symbol, decimated by 2; with the samples at an extreme code, and the clamps of that decimation (R259, R272). -/
def rxInput (s : State) (half : Nat) (tag : TimeTag) (p : Nat) (codes : List Cplx) : List Cplx × Nat × Nat :=
  if tget 0 s.rf.loopback (p / 16) = 2 then
    match (tget [] s.cal.txTaps p).find? fun t => decide (t.half = half ∧ t.tag = tag) with
    | some t =>
      let l := filtered true s.freeCnt 2 (t.dac.length / 2) t.dac
      (l.map (CplxOps.mapParts sat16), 0, clampsOf l)
    | none => ([], 0, 0)
  else if (groupsReceived s half tag).contains (p / 16) || rxCaptured s p then
    (codes.map (CplxOps.mapParts adcWord), extremeCodes codes, 0)
  else ([], 0, 0)

/-- What enters the OFDM engine of a path: the FFT window of a symbol, FFT_ADV samples before the end of its prefix; zero where the
path was muted from the symbol's beginning or its group does not receive (R226, R237, R267). -/
def fftWindow (s : State) (half : Nat) (tag : TimeTag) (p : Nat) (fe : List Cplx) : List Cplx :=
  let n := nFft s half
  let adv := ofHalf s.rf.fftAdvF half
  if ((groupsReceived s half tag).contains (p / 16) || decide (tget 0 s.rf.loopback (p / 16) = 2)) && rxHeard s half tag p then
    (List.range n).map fun i => cnth fe (cpOf s half tag - adv + i)
  else List.replicate n CplxOps.zero

/-- The chain of one RX path over a symbol, stages 1 to 4 of R22, from the 14-bit codes of its two ADCs at 491.52 MSPS from the symbol's
start; the path's subcarriers join the list. Under FREQ the downlink's values stand in (R272). -/
def rxPath (half : Nat) (tag : TimeTag) (acc : State × List (Nat × List Cplx)) (e : Nat × List Cplx) : State × List (Nat × List Cplx) :=
  let (s, out) := acc
  let p := e.1
  if tget 0 s.rf.loopback (p / 16) = 1 then (s, out ++ [(p, loopedValues s half tag p)])
  else
    let n := nFft s half
    let ratio := 491520 / max 1 (rateOfPath s p)
    let len := ratio * (cpOf s half tag + n)
    let (adc, extremes, c0) := rxInput s half tag p (e.2.take len ++ List.replicate (len - e.2.length) CplxOps.zero)
    let (fe, c1) := rxFrontEnd (s.freeCnt + 1) ratio (ncoWord (ofHalf s.rf.ncoF half) 491520) (sampleNo s half tag 491520) adc
    let ph := phaseOf s half tag p
    let (bins, c2) := ofdmRx (fftWindow s half tag p fe) n (ofHalf s.rf.ofdmUlF half) (ofHalf s.rf.fftAdvF half) (-ph.1, ph.2)
    let tap : RxTap := { half := half, tag := tag, adc := adc, fe := fe }
    ({ s with
       freeCnt := s.freeCnt + 2
       rf := { s.rf with adcOvr := tmod 0 s.rf.adcOvr p fun k => satN 32 (k + extremes),
                         dfeSat := tmod 0 s.rf.dfeSat p fun k => satN 32 (k + c0 + c1),
                         ofdmSat := tmod 0 s.rf.ofdmSat p fun k => satN 32 (k + c2),
                         rxTaps := tmod [] s.rf.rxTaps p fun l => (tap :: l).take 64 } },
     out ++ [(p, carrierOf bins n (carrierPrbs s half))])

/-- The samples of a half's paths, each once; a diverted path needs none of the event's. -/
def pathCodes (s : State) (half : Nat) (samples : List (Nat × List Cplx)) : List (Nat × List Cplx) :=
  (halfPaths s half).filterMap fun p =>
    match samples.find? fun e => decide (e.1 = p) with
    | some e => some e
    | none => if tget 0 s.rf.loopback (p / 16) = 1 ∨ tget 0 s.rf.loopback (p / 16) = 2 then some (p, []) else none

/-- Every RX path of a half over a symbol: the state, and the subcarriers of each path. -/
def receiveSymbol (s : State) (half : Nat) (tag : TimeTag) (samples : List (Nat × List Cplx)) : State × List (Nat × List Cplx) :=
  (pathCodes s half samples).foldl (rxPath half tag) (s, [])

end Sys2Proof.Machine
end

