-- ==== Sys2Proof/Machine/Flags.lean ====
section
/-! DEFINITION. Results that seat instructions compute: narrowing with its saturation count, redundant sign bits, bits needed,
and the 32-bit and per-half operations (R172 to R176). The seat has no flag register; what a result reports beside its value
is its poison mark (R169) and the saturations it counts. -/

namespace Sys2Proof.Machine

/-- The H and L halves of a word. -/
def wordH (w : Word) : BitVec 16 := w.extractLsb' 16 16
def wordL (w : Word) : BitVec 16 := w.extractLsb' 0 16

/-- A word from its halves. -/
def ofHalves (h l : BitVec 16) : Word := h ++ l

/-- `narrow` of R174: the 16-bit result, and how many clamps it counted. -/
def narrow (a : BitVec 40) (k : Nat) (sat : Bool) : BitVec 16 × Nat :=
  let v := asr a.toInt k
  if sat && clips16 v then (BitVec.ofInt 16 (sat16 v), 1) else (BitVec.ofInt 16 v, 0)

/-- Bits below bit 39 that equal bit 39 (R175). -/
def normBits (a : BitVec 40) : Nat := 40 - bitsNeeded a.toInt

/-- The numbers a word holds for EXPR and EXP (R176). -/
def exprValues (w : Bool) (x : Word) : List Int :=
  if w then [(x.extractLsb' 0 24).toInt] else [(wordH x).toInt, (wordL x).toInt]

/-- max(start, the largest bits_needed of the values) (R176). -/
def exprMax (start : Word) (l : List Int) : Word :=
  BitVec.ofInt 32 (max start.toInt (l.foldl (fun n x => max n (bitsNeeded x)) 0))

/-- A format R operation on the whole word, or on the two halves (R172). -/
def onWidth (hw : Bool) (f32 : Word → Word → Word) (f16 : BitVec 16 → BitVec 16 → BitVec 16) (a b : Word) : Word :=
  if hw then ofHalves (f16 (wordH a) (wordH b)) (f16 (wordL a) (wordL b)) else f32 a b

def sMax {n : Nat} (a b : BitVec n) : BitVec n := if b.toInt < a.toInt then a else b
def sMin {n : Nat} (a b : BitVec n) : BitVec n := if a.toInt < b.toInt then a else b

/-- The shift count DB[4:0], the same for both halves (R172). -/
def shiftCount (b : Word) : Nat := b.toNat % 32

end Sys2Proof.Machine
end

