-- ==== Sys2Proof/Machine/Operands.lean ====
section
/-! DEFINITION. The operands of seat instructions: registers, memory words, queues, the side action and the push, and how an
instruction goes through a seat (R163 to R171, R178 to R181, R184, R186). -/

namespace Sys2Proof.Machine

/-- Seat `n` of the fabric (R124). -/
def seatOf (s : State) (n : Nat) : Seat := tget {} s.fab.seats n

def putSeat (s : State) (n : Nat) (t : Seat) : State := { s with fab := { s.fab with seats := tset {} s.fab.seats n t } }

/-- Register Dn, and its replacement. -/
def Seat.reg (t : Seat) (i : Nat) : DReg := nth {} t.d i
def Seat.setReg (t : Seat) (i : Nat) (v : DReg) : Seat := { t with d := put t.d i v }

/-- Accumulator 0 or 1. -/
def Seat.acc (t : Seat) (i : Nat) : Acc := if i = 0 then t.a0 else t.a1
def Seat.setAcc (t : Seat) (i : Nat) (v : Acc) : Seat := if i = 0 then { t with a0 := v } else { t with a1 := v }

/-- The half of a register that a format M operand names (R170). -/
def DReg.half (r : DReg) (h : Bool) : Int := if h then (wordH r.val).toInt else (wordL r.val).toInt

/-- The word index that Pn addresses; a COMBINE item is confined to 0x000–0x3FF (R164, R186). -/
def Seat.wordAt (t : Seat) (p : Nat) : Nat :=
  let a := (nth 0 t.p p).toNat
  (if t.kind = 2 then a % 1024 else a) / 4

/-- Post-modify of Pp by Mm, modulo 4,096 (R164). -/
def Seat.bump (t : Seat) (p m : Nat) : Seat :=
  { t with p := put t.p p (nth 0 t.p p + nth 0 t.m m), pMark := put t.pMark p (nth false t.pMark p || nth false t.mMark m) }

/-- The bytes of the two words, instructions or data, that a code word of a seat's memories covers (R12, R168). -/
def pairBytes (word : Nat → Word) (c : Nat) : List Byte := beBytes 4 (word (2 * c)).toNat ++ beBytes 4 (word (2 * c + 1)).toNat

/-- A read of word `w` of a seat's memory, of whose code word, at the seat-local address 8 × (w / 2), it is a half: the decode result of
the 80-bit form and the word delivered (R168, R344, R348). -/
def pairRead (word : Nat → Word) (mark : Nat → Bool) (w : Nat) (flt : WordFault) : Dec × Word :=
  if flt.flips = [] ∧ flt.waXor = 0 then (if mark (w / 2) then .poisoned else .clean, word w)
  else
    let (r, b) := rindReadOf sramForm (pairBytes word) mark (w / 2) flt
    (r, BitVec.ofNat 32 (beNat (slice b (4 * (w % 2)) 4)))

/-- Data memory as its words and the marks of its code words. -/
def Seat.dataRead (t : Seat) (w : Nat) (flt : WordFault) : Dec × Word :=
  pairRead (fun i => (tget {} t.mem i).val) (fun c => (tget {} t.mem (2 * c)).mark || (tget {} t.mem (2 * c + 1)).mark) w flt

/-- A memory word as a read delivers it, marked when the read's result is or the address was (R168, R169, R351). -/
def Seat.load (t : Seat) (p : Nat) (flt : WordFault) : DReg :=
  let (r, v) := t.dataRead (t.wordAt p) flt
  { val := v, mark := r.marked || nth false t.pMark p }

/-- The other data word of a word's code word (R168). -/
def partner (w : Nat) : Nat := if w % 2 = 0 then w + 1 else w - 1

/-- A store reads, merges and writes the code word of two data words: it is written poisoned when the value is marked, or when what is
read is (R168, R169, R353). A value stored at a marked address is marked. -/
def Seat.store (t : Seat) (p : Nat) (flt : WordFault) (v : DReg) : Seat :=
  let w := t.wordAt p
  let (r, other) := t.dataRead (partner w) flt
  let m := v.mark || nth false t.pMark p || r.marked
  { t with mem := tset {} (tset {} t.mem w { v with mark := m }) (partner w) { val := other, mark := m } }

/-- The next word of IN leaves it; the feeder refills the queue (R166, R183). -/
def Seat.popIn (t : Seat) : DReg × Seat :=
  let q := t.inq.drop 1
  (nth {} t.inq 0, { t with inq := q ++ t.feed.take (16 - q.length), feed := t.feed.drop (16 - q.length) })

/-- What a side action must wait for (R166). -/
def sideWait (t : Seat) : Side → Option WaitOn
  | .ldi _ => if t.inq = [] then some .inQ else none
  | .sti _ _ => if t.inq = [] then some .inQ else none
  | .ldr _ => if t.rin = [] then some .rin else none
  | .out _ => if 16 ≤ t.out.length then some .out else none
  | _ => none

/-- What an instruction must wait for: its side action, or its push (R166). -/
def Seat.blocked (t : Seat) (side : Side) (push : Bool) : Option WaitOn :=
  match sideWait t side with
  | some w => some w
  | none => if push && t.red.isSome then some .red else none

/-- Whether a side action addresses memory, and with which P and M registers. -/
def sideAddr : Side → Option (Nat × Nat)
  | .ld _ p m => some (p, m)
  | .st _ p m => some (p, m)
  | .sti p m => some (p, m)
  | _ => none

/-- What a side action's reads of data memory give: that of a load, and that of a store, which takes the whole code word (R168). -/
def sideReads (before t : Seat) (flt : WordFault) : Side → List Dec
  | .ld _ p _ => [(before.dataRead (before.wordAt p) flt).1]
  | .st _ p _ => [(t.dataRead (t.wordAt p) flt).1]
  | .sti p _ => [(t.dataRead (t.wordAt p) flt).1]
  | _ => []

/-- An OUT word beyond the contract of a COMBINE or EXPONENT item, which is discarded (R183, R184). -/
def outOver (t : Seat) : Bool := decide (t.kind = 2 ∨ (t.kind = 3 ∧ 13 ≤ t.outs))

/-- What a side action does to the seat: `before` is the seat before the instruction, whose registers it reads, `t` the seat
after the main operation; the second part counts discarded words (R171, R181, R184). -/
def sideDo (before t : Seat) (flt : WordFault) : Side → Seat × Nat
  | .none => (t, 0)
  | .ldi d => let (w, t) := t.popIn; (t.setReg d w, 0)
  | .ldr d => (({ t with rin := t.rin.drop 1 }).setReg d (nth {} t.rin 0), 0)
  | .ld d p m => ((t.setReg d (before.load p flt)).bump p m, 0)
  | .st d p m => ((t.store p flt (before.reg d)).bump p m, 0)
  | .sti p m => let (w, t) := t.popIn; ((t.store p flt w).bump p m, 0)
  | .out d =>
    if outOver t then (t, 1)
    else ({ t with out := t.out ++ [before.reg d], outs := t.outs + 1, leaked := t.leaked || (before.reg d).mark }, 0)

/-- A push beyond the contract of a COMBINE or EXPONENT item, which is discarded (R183, R184). -/
def pushOver (t : Seat) : Bool := decide ((t.kind = 2 ∧ 12 * t.nb ≤ t.pushes) ∨ t.kind = 3)

/-- PUSH: the accumulators after the instruction go to the network's input stage (R181, R184). -/
def pushDo (t : Seat) : Seat × Nat :=
  if pushOver t then (t, 1)
  else
    let mark := t.a0.mark || t.a1.mark
    ({ t with red := some { re := t.a0.val, im := t.a1.val, mark := mark, index := t.pushes, nb := t.nb, shf := t.shf },
              pushes := t.pushes + 1, leaked := t.leaked || mark }, 0)

/-- Where the seat goes after the instruction at its PC: the ends of its loops, the inner first (R178). -/
def loopEnd (pc : BitVec 8) : List SeatLoop → BitVec 8 × List SeatLoop
  | [] => (pc + 1, [])
  | l :: t =>
    if pc.toNat = l.last then
      if 1 < l.count then (BitVec.ofNat 8 l.first, { l with count := l.count - 1 } :: t) else loopEnd pc t
    else (pc + 1, l :: t)

def Seat.advance (t : Seat) : Seat :=
  let (pc, l) := loopEnd t.pc t.loops
  { t with pc := pc, loops := l }

/-- A jump: the loops whose body the target leaves end (R178). -/
def Seat.jump (t : Seat) (tgt : Nat) : Seat :=
  { t with pc := BitVec.ofNat 8 tgt, loops := t.loops.dropWhile fun l => decide (tgt < l.first ∨ l.last < tgt) }

/-- The interlock of R181: the register set by the last LDP or MVP addresses memory in this instruction. -/
def Seat.interlock (t : Seat) (a : Option (Nat × Nat)) : Nat :=
  match t.lastSet, a with
  | some (isM, i), some (p, m) => if (if isM then m else p) = i then 1 else 0
  | _, _ => 0

/-- The instruction has taken its handshakes. -/
def Seat.spend (t : Seat) (cost : Nat) (set : Option (Bool × Nat)) : Seat :=
  { t with hcnt := t.hcnt + BitVec.ofNat 32 cost, lastSet := set }

/-- The seat executes instructions: its item runs, it waits for nothing and its crew is not muted. -/
def seatRuns (s : State) (n : Nat) : Bool :=
  let t := seatOf s n
  t.running && t.wait.isNone && unitWorks s (uCrew (n / 64))

/-- A seat whose wait is over: where it waited on OUT, the crew's output has taken the oldest word (R166; log entry 36). -/
def Seat.resumed (t : Seat) (w : WaitOn) : Seat :=
  { t with wait := none, out := if w = .out then t.out.drop (t.out.length - 15) else t.out }

/-- Counts discarded words or pushes, and corrected reads, of a crew (R168, R184). -/
def seatProto (s : State) (n k : Nat) : State :=
  if k = 0 then s else { s with fab := { s.fab with seatProto := tmod 0 s.fab.seatProto (n / 64) fun c => satN 32 (c + k) } }

def seatCorr (s : State) (n k : Nat) : State :=
  if k = 0 then s else { s with fab := { s.fab with seatCorr := tmod 0 s.fab.seatCorr (n / 64) fun c => satN 32 (c + k) } }

/-- Counts what reads of data memory have given: corrections, and poison marks delivered (R168, R355). -/
def seatReads (s : State) (n : Nat) (l : List Dec) : State :=
  countPoison (seatCorr s n (l.filter fun r => decide (r = .corrected)).length) (l.filter Dec.marked).length

/-- An instruction of format M or R on a seat: it waits when its side action or push must (R166); else the main operation,
the side action and the push take place. `i` is the instruction, kept while it waits. -/
def seatDo (n : Nat) (i : Instr) (side : Side) (push : Bool) (flt : WordFault) (main : Seat → Seat) (s : State) : State :=
  if !seatRuns s n then s
  else
    let t := seatOf s n
    match t.blocked side push with
    | some w => putSeat s n { t with wait := some (w, i) }
    | none =>
      let (t1, d1) := sideDo t (main t) flt side
      let (t2, d2) := if push then pushDo t1 else (t1, 0)
      let cost := 1 + t.interlock (sideAddr side)
      seatReads (putSeat (seatProto s n (d1 + d2)) n ((t2.spend cost none).advance)) n (sideReads t (main t) flt side)

/-- A format M instruction. -/
def seatM (n : Nat) (i : Instr) (f : MForm) (main : Seat → Seat) (s : State) : State :=
  seatDo n i f.side f.push f.fault main s

/-- A format R instruction: DD takes the result of DA and DB, marked when one of them is (R169). -/
def seatR (n : Nat) (i : Instr) (f : RForm) (op : Word → Word → Word) (s : State) : State :=
  seatDo n i f.side false f.fault (fun t =>
    let a := t.reg f.da
    let b := t.reg f.db
    t.setReg f.dd { val := op a.val b.val, mark := a.mark || b.mark }) s

/-- An instruction without side action: `main` gives the seat after it. -/
def seatPlain (n cost : Nat) (set : Option (Bool × Nat)) (main : Seat → Seat) (s : State) : State :=
  if !seatRuns s n then s else putSeat s n (((main (seatOf s n)).spend cost set).advance)

end Sys2Proof.Machine
end

