-- ==== Sys2Proof/Machine/SeatCode.lean ====
section
/-! DEFINITION. The words of seat programs: which the loader accepts, the instruction that a word is, and how a running seat takes an
instruction of its program (R131, R163, R165, R168, R170 to R172, R177, R178, R181, R187). -/

namespace Sys2Proof.Machine

/-! Words that the loader accepts (R190, check 4) -/

/-- OP of an instruction word (R170). -/
def opOf (w : Word) : Nat := getBits w 27 5

/-- The P and M registers of a memory operand belong to one generator (R165). -/
def sameGen (p m : Nat) : Bool := decide (p / 2 = m / 2)

/-- The side action of a format M or R word is one of R171, with registers of one generator where it addresses memory. -/
def sideOk (w : Word) : Bool :=
  let side := getBits w 14 4
  decide (side ≤ 6) && (!decide (3 ≤ side ∧ side ≤ 5) || sameGen (getBits w 9 2) (getBits w 7 2))

/-- The side action loads a register (R171). -/
def sideLoads (w : Word) : Bool := decide (1 ≤ getBits w 14 4 ∧ getBits w 14 4 ≤ 3)

/-- A word is valid under R165, R170 to R172, R177 and R181. A selector without a meaning (ASEL) is not valid (log entry 44). -/
def wordValid (w : Word) : Bool :=
  let op := opOf w
  let zero (lo n : Nat) : Bool := decide (getBits w lo n = 0)
  if op = 0x00 then decide (w = 0)
  else if op = 0x01 then zero 18 9 && zero 0 6 && sideOk w
  else if op ≤ 0x04 then zero 0 6 && sideOk w
  else if op = 0x05 then zero 25 2 && zero 0 15
  else if op = 0x06 then decide (getBits w 25 2 ≤ 1) && zero 0 15
  else if op = 0x07 then decide (getBits w 25 2 ≤ 2) && zero 0 15
  else if op ≤ 0x11 then zero 0 6 && sideOk w && !(sideLoads w && decide (getBits w 11 3 = getBits w 24 3))
  else if op = 0x12 then zero 0 10 && sameGen (getBits w 19 2) (getBits w 17 2)
  else if op = 0x13 then zero 16 6 && decide (getBits w 22 2 ≤ 2)
  else if op = 0x14 then zero 0 21
  else if op = 0x15 then zero 12 12 && zero 0 2
  else if op = 0x16 then zero 0 21
  else if op = 0x17 then zero 26 1 && zero 8 6
  else if op = 0x18 then zero 8 19
  else if op ≤ 0x1A then zero 8 16
  else false

/-! The instruction of a word (R170 to R172) -/

/-- A bit of a word. -/
def bitAt (w : Word) (k : Nat) : Bool := decide (getBits w k 1 = 1)

/-- The side action that SIDE, SD, SP and SM spell (R171). -/
def sideOf (w : Word) : Side :=
  let d := getBits w 11 3
  let p := getBits w 9 2
  let m := getBits w 7 2
  match getBits w 14 4 with
  | 1 => .ldi d
  | 2 => .ldr d
  | 3 => .ld d p m
  | 4 => .st d p m
  | 5 => .sti p m
  | 6 => .out d
  | _ => .none

/-- The fields of a format M word. -/
def mFormOf (w : Word) : MForm :=
  { acc := getBits w 26 1, xr := getBits w 23 3, xh := bitAt w 22, yr := getBits w 19 3, yh := bitAt w 18, side := sideOf w,
    push := bitAt w 6 }

/-- The fields of a format R word. -/
def rFormOf (w : Word) : RForm :=
  { dd := getBits w 24 3, da := getBits w 21 3, db := getBits w 18 3, hw := bitAt w 6, side := sideOf w }

/-- The instruction of formats M and R that an opcode names, on seat `n` (R172). -/
def wordOfMR (n : Nat) (w : Word) : Option Instr :=
  match opOf w with
  | 0x01 => some (.seatNop { n := n } (mFormOf w))
  | 0x02 => some (.seatMpy { n := n } (mFormOf w))
  | 0x03 => some (.seatMac { n := n } (mFormOf w))
  | 0x04 => some (.seatMsu { n := n } (mFormOf w))
  | 0x08 => some (.seatAdd { n := n } (rFormOf w))
  | 0x09 => some (.seatSub { n := n } (rFormOf w))
  | 0x0A => some (.seatAnd { n := n } (rFormOf w))
  | 0x0B => some (.seatOr { n := n } (rFormOf w))
  | 0x0C => some (.seatXor { n := n } (rFormOf w))
  | 0x0D => some (.seatMax { n := n } (rFormOf w))
  | 0x0E => some (.seatMin { n := n } (rFormOf w))
  | 0x0F => some (.seatAsr { n := n } (rFormOf w))
  | 0x10 => some (.seatShl { n := n } (rFormOf w))
  | 0x11 => some (.seatExpr { n := n } (rFormOf w))
  | _ => none

/-- The instruction of the other formats that an opcode names; the all-zero word is END (R172). -/
def wordOfRest (n : Nat) (w : Word) : Option Instr :=
  match opOf w with
  | 0x00 => some (.seatEnd { n := n })
  | 0x05 => some (.seatNrw { n := n } (getBits w 22 3) (bitAt w 21) (bitAt w 20) (getBits w 15 5))
  | 0x06 => some (.seatNorm { n := n } (getBits w 25 2) (getBits w 22 3))
  | 0x07 => some (.seatAclr { n := n } (getBits w 25 2))
  | 0x12 => some (.seatExp { n := n } (getBits w 24 3) (getBits w 21 3) (getBits w 19 2) (getBits w 17 2) (bitAt w 16) (getBits w 10 6) [])
  | 0x13 => some (.seatMovi { n := n } (getBits w 24 3) (getBits w 22 2) (w.extractLsb' 0 16))
  | 0x14 => some (.seatMovs { n := n } (getBits w 24 3) (getBits w 21 3))
  | 0x15 => some (.seatLdp { n := n } (bitAt w 26) (getBits w 24 2) (w.extractLsb' 0 12))
  | 0x16 => some (.seatMvp { n := n } (bitAt w 26) (getBits w 24 2) (getBits w 21 3))
  | 0x17 => some (.seatLoop { n := n } (bitAt w 25) (getBits w 22 3) (getBits w 14 8) (getBits w 0 8))
  | 0x18 => some (.seatJmp { n := n } (getBits w 0 8))
  | 0x19 => some (.seatBz { n := n } (getBits w 24 3) (getBits w 0 8))
  | 0x1A => some (.seatBnz { n := n } (getBits w 24 3) (getBits w 0 8))
  | _ => none

/-- The instruction that a program word is on seat `n`; none for a word that the loader rejects. -/
def instrOfWord (n : Nat) (w : Word) : Option Instr := if wordValid w then (wordOfMR n w).or (wordOfRest n w) else none

/-- A format M or R form without what its reads meet. -/
def bareM (f : MForm) : MForm := { f with fault := {} }
def bareR (f : RForm) : RForm := { f with fault := {} }

/-- A seat instruction as its word spells it, without what its reads meet (R168). -/
def spelt : Instr → Instr
  | .seatEnd q => .seatEnd { n := q.n }
  | .seatNop q f => .seatNop { n := q.n } (bareM f)
  | .seatMpy q f => .seatMpy { n := q.n } (bareM f)
  | .seatMac q f => .seatMac { n := q.n } (bareM f)
  | .seatMsu q f => .seatMsu { n := q.n } (bareM f)
  | .seatNrw q d sat ks k => .seatNrw { n := q.n } d sat ks k
  | .seatNorm q a d => .seatNorm { n := q.n } a d
  | .seatAclr q a => .seatAclr { n := q.n } a
  | .seatAdd q f => .seatAdd { n := q.n } (bareR f)
  | .seatSub q f => .seatSub { n := q.n } (bareR f)
  | .seatAnd q f => .seatAnd { n := q.n } (bareR f)
  | .seatOr q f => .seatOr { n := q.n } (bareR f)
  | .seatXor q f => .seatXor { n := q.n } (bareR f)
  | .seatMax q f => .seatMax { n := q.n } (bareR f)
  | .seatMin q f => .seatMin { n := q.n } (bareR f)
  | .seatAsr q f => .seatAsr { n := q.n } (bareR f)
  | .seatShl q f => .seatShl { n := q.n } (bareR f)
  | .seatExpr q f => .seatExpr { n := q.n } (bareR f)
  | .seatExp q dd da ep em w c _ => .seatExp { n := q.n } dd da ep em w c []
  | .seatMovi q d p i => .seatMovi { n := q.n } d p i
  | .seatMovs q d r => .seatMovs { n := q.n } d r
  | .seatLdp q k i v => .seatLdp { n := q.n } k i v
  | .seatMvp q k i d => .seatMvp { n := q.n } k i d
  | .seatLoop q r d e c => .seatLoop { n := q.n } r d e c
  | .seatJmp q t => .seatJmp { n := q.n } t
  | .seatBz q d t => .seatBz { n := q.n } d t
  | .seatBnz q d t => .seatBnz { n := q.n } d t
  | i => i

/-! A running seat and its program (R131, R163, R187) -/

/-- The place of a seat's PC among its crew's 256 program words: the base of the running KIND plus PC (R163, R187). -/
def progPlace (s : State) (n : Nat) : Nat :=
  let t := seatOf s n
  (((tget {} s.fab.loads (n / 64)).kinds.find? fun k => decide (k.1 = t.kind)).map fun k => k.2.1).getD 0 + t.pc.toNat

/-- The program word at a seat's PC. -/
def wordAtPc (s : State) (n : Nat) : Word := nth 0 (tget {} s.fab.loads (n / 64)).prog (progPlace s n)

/-- The read of that word (R168). -/
def fetchWord (s : State) (q : SeatFetch) : Dec × Word :=
  pairRead (nth 0 (tget {} s.fab.loads (q.n / 64)).prog) (fun _ => false) (progPlace s q.n) q.fault

/-- A crew's COMBINE is the customer's, so its seats run real instructions. -/
def customerCrew (s : State) (crew : Nat) : Bool := (tget {} s.fab.loads crew).customer.isSome

/-- The instruction stands at the seat's PC, as the read of its word delivers it: of the customer's combiner its word spells it; what
words the vendor's kernels have the spec does not say, so that of those any instruction may (log entry 36). An uncorrectable read spells
none: it is the crew fault that CREW_FAULT brings (R158, R168). -/
def spelled (s : State) (q : SeatFetch) (i : Instr) : Bool :=
  !(fetchWord s q).1.marked &&
    (!(decide ((seatOf s q.n).kind = 2) && customerCrew s (q.n / 64)) || decide (instrOfWord q.n (fetchWord s q).2 = some (spelt i)))

/-- A chunk of class 2 or 3 work takes at most 512 handshakes per seat: an instruction beyond them is in no chunk (R131; log entry
158). -/
def inChunk (n : Nat) (s t : State) : State :=
  let u := seatOf t n
  if (u.kind = 5 ∨ u.kind = 7) ∧ 512 < u.hcnt.toNat then s else t

/-- A running seat executes the instruction at its PC; a correctable error of its program word is counted (R168). -/
def seatStep (q : SeatFetch) (i : Instr) (fx : State → State) (s : State) : State :=
  if !seatRuns s q.n || !spelled s q i then s
  else inChunk q.n s (fx (seatCorr s q.n (if (fetchWord s q).1 = .corrected then 1 else 0)))

end Sys2Proof.Machine
end

