-- ==== Sys2Proof/Machine/Seats.lean ====
section
/-! DEFINITION. The seat instructions but END (R172 to R178), as a running seat executes them. -/

namespace Sys2Proof.Machine

/-! Format M -/

/-- The exact product of the halves that a format M instruction selects, in 40 bits, and its mark (R173). -/
def mProduct (t : Seat) (f : MForm) : BitVec 40 × Bool :=
  (BitVec.ofInt 40 ((t.reg f.xr).half f.xh * (t.reg f.yr).half f.yh), (t.reg f.xr).mark || (t.reg f.yr).mark)

def seatNopFx (n : Nat) (f : MForm) (s : State) : State := seatM n (.seatNop { n := n } f) f id s

/-- NOP. -/
def execSeatNop (seat : SeatFetch) (f : MForm) (s : State) : Out :=
  .next (seatStep seat (.seatNop seat f) (seatNopFx seat.n f) s)

def seatMpyFx (n : Nat) (f : MForm) (s : State) : State :=
  seatM n (.seatMpy { n := n } f) f (fun t => t.setAcc f.acc { val := (mProduct t f).1, mark := (mProduct t f).2 }) s

/-- MPY. -/
def execSeatMpy (seat : SeatFetch) (f : MForm) (s : State) : Out :=
  .next (seatStep seat (.seatMpy seat f) (seatMpyFx seat.n f) s)

def seatMacFx (n : Nat) (f : MForm) (s : State) : State :=
  seatM n (.seatMac { n := n } f) f (fun t =>
    t.setAcc f.acc { val := (t.acc f.acc).val + (mProduct t f).1, mark := (t.acc f.acc).mark || (mProduct t f).2 }) s

/-- MAC. -/
def execSeatMac (seat : SeatFetch) (f : MForm) (s : State) : Out :=
  .next (seatStep seat (.seatMac seat f) (seatMacFx seat.n f) s)

def seatMsuFx (n : Nat) (f : MForm) (s : State) : State :=
  seatM n (.seatMsu { n := n } f) f (fun t =>
    t.setAcc f.acc { val := (t.acc f.acc).val - (mProduct t f).1, mark := (t.acc f.acc).mark || (mProduct t f).2 }) s

/-- MSU. -/
def execSeatMsu (seat : SeatFetch) (f : MForm) (s : State) : Out :=
  .next (seatStep seat (.seatMsu seat f) (seatMsuFx seat.n f) s)

/-! Format R -/

def seatAddFx (n : Nat) (f : RForm) (s : State) : State :=
  seatR n (.seatAdd { n := n } f) f (onWidth f.hw (· + ·) (· + ·)) s

/-- ADD. -/
def execSeatAdd (seat : SeatFetch) (f : RForm) (s : State) : Out :=
  .next (seatStep seat (.seatAdd seat f) (seatAddFx seat.n f) s)

def seatSubFx (n : Nat) (f : RForm) (s : State) : State :=
  seatR n (.seatSub { n := n } f) f (onWidth f.hw (· - ·) (· - ·)) s

/-- SUB. -/
def execSeatSub (seat : SeatFetch) (f : RForm) (s : State) : Out :=
  .next (seatStep seat (.seatSub seat f) (seatSubFx seat.n f) s)

def seatAndFx (n : Nat) (f : RForm) (s : State) : State := seatR n (.seatAnd { n := n } f) f (· &&& ·) s

/-- AND. -/
def execSeatAnd (seat : SeatFetch) (f : RForm) (s : State) : Out :=
  .next (seatStep seat (.seatAnd seat f) (seatAndFx seat.n f) s)

def seatOrFx (n : Nat) (f : RForm) (s : State) : State := seatR n (.seatOr { n := n } f) f (· ||| ·) s

/-- OR. -/
def execSeatOr (seat : SeatFetch) (f : RForm) (s : State) : Out :=
  .next (seatStep seat (.seatOr seat f) (seatOrFx seat.n f) s)

def seatXorFx (n : Nat) (f : RForm) (s : State) : State := seatR n (.seatXor { n := n } f) f (· ^^^ ·) s

/-- XOR. -/
def execSeatXor (seat : SeatFetch) (f : RForm) (s : State) : Out :=
  .next (seatStep seat (.seatXor seat f) (seatXorFx seat.n f) s)

def seatMaxFx (n : Nat) (f : RForm) (s : State) : State := seatR n (.seatMax { n := n } f) f (onWidth f.hw sMax sMax) s

/-- MAX. -/
def execSeatMax (seat : SeatFetch) (f : RForm) (s : State) : Out :=
  .next (seatStep seat (.seatMax seat f) (seatMaxFx seat.n f) s)

def seatMinFx (n : Nat) (f : RForm) (s : State) : State := seatR n (.seatMin { n := n } f) f (onWidth f.hw sMin sMin) s

/-- MIN. -/
def execSeatMin (seat : SeatFetch) (f : RForm) (s : State) : Out :=
  .next (seatStep seat (.seatMin seat f) (seatMinFx seat.n f) s)

def seatAsrFx (n : Nat) (f : RForm) (s : State) : State :=
  seatR n (.seatAsr { n := n } f) f (fun a b => onWidth f.hw (fun a _ => a.sshiftRight (shiftCount b)) (fun a _ => a.sshiftRight (shiftCount b)) a b) s

/-- ASR: both halves shift by DB[4:0] (R172). -/
def execSeatAsr (seat : SeatFetch) (f : RForm) (s : State) : Out :=
  .next (seatStep seat (.seatAsr seat f) (seatAsrFx seat.n f) s)

def seatShlFx (n : Nat) (f : RForm) (s : State) : State :=
  seatR n (.seatShl { n := n } f) f (fun a b => onWidth f.hw (fun a _ => a <<< shiftCount b) (fun a _ => a <<< shiftCount b) a b) s

/-- SHL. -/
def execSeatShl (seat : SeatFetch) (f : RForm) (s : State) : Out :=
  .next (seatStep seat (.seatShl seat f) (seatShlFx seat.n f) s)

def seatExprFx (n : Nat) (f : RForm) (s : State) : State :=
  seatR n (.seatExpr { n := n } f) f (fun a b => exprMax a (exprValues f.hw b)) s

/-- EXPR: its bit 6 is W (R172, R176). -/
def execSeatExpr (seat : SeatFetch) (f : RForm) (s : State) : Out :=
  .next (seatStep seat (.seatExpr seat f) (seatExprFx seat.n f) s)

/-! Format A -/

/-- NRW: A0 into H, A1 into L (R174). -/
def seatNrwFx (n dd : Nat) (sat ks : Bool) (k : Nat) (s : State) : State :=
  if !seatRuns s n then s
  else
    let t := seatOf s n
    let sh := if ks then t.shf else k
    let h := narrow t.a0.val sh sat
    let l := narrow t.a1.val sh sat
    finc (seatPlain n 1 none (fun t => t.setReg dd { val := ofHalves h.1 l.1, mark := t.a0.mark || t.a1.mark }) s)
      F.fabSatCnt 0 (h.2 + l.2)

/-- NRW. -/
def execSeatNrw (seat : SeatFetch) (dd : Nat) (sat ks : Bool) (k : Nat) (s : State) : Out :=
  .next (seatStep seat (.seatNrw seat dd sat ks k) (seatNrwFx seat.n dd sat ks k) s)

def seatNormFx (n asel dd : Nat) (s : State) : State :=
  seatPlain n 1 none (fun t =>
    t.setReg dd { val := BitVec.ofNat 32 (normBits (t.acc asel).val), mark := (t.acc asel).mark }) s

/-- NORM. -/
def execSeatNorm (seat : SeatFetch) (asel dd : Nat) (s : State) : Out :=
  .next (seatStep seat (.seatNorm seat asel dd) (seatNormFx seat.n asel dd) s)

def seatAclrFx (n asel : Nat) (s : State) : State :=
  seatPlain n 1 none (fun t =>
    let t := if asel = 1 then t else { t with a0 := {} }
    if asel = 0 then t else { t with a1 := {} }) s

/-- ACLR. -/
def execSeatAclr (seat : SeatFetch) (asel : Nat) (s : State) : Out :=
  .next (seatStep seat (.seatAclr seat asel) (seatAclrFx seat.n asel) s)

/-! Format E -/

/-- One word of an EXP run: the largest count so far, the mark, and the post-modify. -/
def expWord (ep em : Nat) (w : Bool) (a : Seat × Word × Bool) (flt : WordFault) : Seat × Word × Bool :=
  let r := a.1.load ep flt
  (a.1.bump ep em, exprMax a.2.1 (exprValues w r.val), a.2.2 || r.mark)

/-- What the reads of an EXP run give (R168). -/
def expReads (ep em : Nat) : Seat → List WordFault → List Dec
  | _, [] => []
  | t, f :: l => (t.dataRead (t.wordAt ep) f).1 :: expReads ep em (t.bump ep em) l

def seatExpFx (n dd da ep em : Nat) (w : Bool) (cnt : Nat) (faults : List WordFault) (s : State) : State :=
  if !seatRuns s n then s
  else
    let t := seatOf s n
    let c := if cnt = 0 then 64 else cnt
    let reads := (List.range c).map fun i => nth {} faults i
    let (t', v, mk) := reads.foldl (expWord ep em w) (t, (t.reg da).val, (t.reg da).mark)
    seatReads (seatPlain n (c + t.interlock (some (ep, em))) none (fun _ => t'.setReg dd { val := v, mark := mk }) s) n
      (expReads ep em t reads)

/-- EXP. -/
def execSeatExp (seat : SeatFetch) (dd da ep em : Nat) (w : Bool) (cnt : Nat) (faults : List WordFault) (s : State) : Out :=
  .next (seatStep seat (.seatExp seat dd da ep em w cnt faults) (seatExpFx seat.n dd da ep em w cnt faults) s)

/-! Movement -/

/-- MOVI: PLACE 0 sign-extends, 1 writes L, 2 writes H (R177). -/
def seatMoviFx (n dd place : Nat) (imm : BitVec 16) (s : State) : State :=
  seatPlain n 1 none (fun t =>
    let old := t.reg dd
    if place = 0 then t.setReg dd { val := imm.signExtend 32, mark := false }
    else if place = 1 then t.setReg dd { val := ofHalves (wordH old.val) imm, mark := old.mark }
    else t.setReg dd { val := ofHalves imm (wordL old.val), mark := old.mark }) s

/-- MOVI. -/
def execSeatMovi (seat : SeatFetch) (dd place : Nat) (imm : BitVec 16) (s : State) : Out :=
  .next (seatStep seat (.seatMovi seat dd place imm) (seatMoviFx seat.n dd place imm) s)

/-- Special registers (R167). -/
def seatSpecial (n : Nat) (t : Seat) (sreg : Nat) : Nat :=
  match sreg with
  | 0 => n % 64
  | 1 => n / 64
  | 2 => t.nb
  | 3 => t.shf
  | 4 => t.item
  | 5 => t.kind
  | 6 => t.hcnt.toNat
  | _ => 0

def seatMovsFx (n dd sreg : Nat) (s : State) : State :=
  seatPlain n 1 none (fun t => t.setReg dd { val := BitVec.ofNat 32 (seatSpecial n t sreg), mark := false }) s

/-- MOVS. -/
def execSeatMovs (seat : SeatFetch) (dd sreg : Nat) (s : State) : Out :=
  .next (seatStep seat (.seatMovs seat dd sreg) (seatMovsFx seat.n dd sreg) s)

/-- Writes a P or M register; bits 1:0 are 0 (R163). It is marked when its source is (R169). -/
def Seat.setAddr (t : Seat) (kndM : Bool) (idx : Nat) (v : BitVec 12) (mark : Bool) : Seat :=
  let v := v &&& 0xFFC#12
  if kndM then { t with m := put t.m idx v, mMark := put t.mMark idx mark }
  else { t with p := put t.p idx v, pMark := put t.pMark idx mark }

def seatLdpFx (n : Nat) (kndM : Bool) (idx : Nat) (imm : BitVec 12) (s : State) : State :=
  seatPlain n 1 (some (kndM, idx)) (fun t => t.setAddr kndM idx imm false) s

/-- LDP. -/
def execSeatLdp (seat : SeatFetch) (kndM : Bool) (idx : Nat) (imm : BitVec 12) (s : State) : Out :=
  .next (seatStep seat (.seatLdp seat kndM idx imm) (seatLdpFx seat.n kndM idx imm) s)

def seatMvpFx (n : Nat) (kndM : Bool) (idx dr : Nat) (s : State) : State :=
  seatPlain n 1 (some (kndM, idx)) (fun t => t.setAddr kndM idx ((t.reg dr).val.extractLsb' 0 12) (t.reg dr).mark) s

/-- MVP. -/
def execSeatMvp (seat : SeatFetch) (kndM : Bool) (idx dr : Nat) (s : State) : Out :=
  .next (seatStep seat (.seatMvp seat kndM idx dr) (seatMvpFx seat.n kndM idx dr) s)

/-! Flow (R178) -/

/-- LOOP: a count of 0 skips the body, and the seat goes on after LEND. -/
def seatLoopFx (n : Nat) (rs : Bool) (dr lend cnt : Nat) (s : State) : State :=
  if !seatRuns s n then s
  else
    let t := seatOf s n
    let c := if rs then (t.reg dr).val.toNat % 65536 else cnt
    let t := t.spend 1 none
    let first := (t.pc + 1).toNat
    let t := if c = 0 then { t with pc := BitVec.ofNat 8 lend }.advance
      else { t with pc := t.pc + 1, loops := { count := c, first := first, last := lend } :: t.loops }
    putSeat s n t

/-- LOOP. -/
def execSeatLoop (seat : SeatFetch) (rs : Bool) (dr lend cnt : Nat) (s : State) : Out :=
  .next (seatStep seat (.seatLoop seat rs dr lend cnt) (seatLoopFx seat.n rs dr lend cnt) s)

/-- A branch that is taken or falls through: 2 handshakes or 1 (R179). -/
def seatBranch (n tgt : Nat) (taken : Seat → Bool) (s : State) : State :=
  if !seatRuns s n then s
  else
    let t := seatOf s n
    putSeat s n (if taken t then (t.spend 2 none).jump tgt else (t.spend 1 none).advance)

def seatJmpFx (n tgt : Nat) (s : State) : State := seatBranch n tgt (fun _ => true) s

/-- JMP. -/
def execSeatJmp (seat : SeatFetch) (tgt : Nat) (s : State) : Out :=
  .next (seatStep seat (.seatJmp seat tgt) (seatJmpFx seat.n tgt) s)

def seatBzFx (n dr tgt : Nat) (s : State) : State := seatBranch n tgt (fun t => decide ((t.reg dr).val = 0)) s

/-- BZ. -/
def execSeatBz (seat : SeatFetch) (dr tgt : Nat) (s : State) : Out :=
  .next (seatStep seat (.seatBz seat dr tgt) (seatBzFx seat.n dr tgt) s)

def seatBnzFx (n dr tgt : Nat) (s : State) : State := seatBranch n tgt (fun t => decide ((t.reg dr).val ≠ 0)) s

/-- BNZ. -/
def execSeatBnz (seat : SeatFetch) (dr tgt : Nat) (s : State) : Out :=
  .next (seatStep seat (.seatBnz seat dr tgt) (seatBnzFx seat.n dr tgt) s)

/-! Waits (R166) -/

/-- Runs the instruction that a seat kept while it waited. -/
def resume : Instr → State → State
  | .seatNop q f => seatNopFx q.n f
  | .seatMpy q f => seatMpyFx q.n f
  | .seatMac q f => seatMacFx q.n f
  | .seatMsu q f => seatMsuFx q.n f
  | .seatAdd q f => seatAddFx q.n f
  | .seatSub q f => seatSubFx q.n f
  | .seatAnd q f => seatAndFx q.n f
  | .seatOr q f => seatOrFx q.n f
  | .seatXor q f => seatXorFx q.n f
  | .seatMax q f => seatMaxFx q.n f
  | .seatMin q f => seatMinFx q.n f
  | .seatAsr q f => seatAsrFx q.n f
  | .seatShl q f => seatShlFx q.n f
  | .seatExpr q f => seatExprFx q.n f
  | _ => id

/-- What a waiting seat waits for has come. -/
def waitOver (t : Seat) : WaitOn → Bool
  | .inQ => !t.inq.isEmpty
  | .rin => !t.rin.isEmpty
  | .out => true
  | .red => t.red.isNone

def queueWaitEndFx (n : Nat) (s : State) : State :=
  let t := seatOf s n
  match t.wait with
  | none => s
  | some (w, i) => if waitOver t w then inChunk n s (resume i (putSeat s n (t.resumed w))) else s

/-- QUEUE_WAIT_END. -/
def execQueueWaitEnd (seat : Nat) (s : State) : Out := .next (queueWaitEndFx seat s)

end Sys2Proof.Machine
end

