-- ==== Sys2Proof/Machine/ZeroForcing.lean ====
section
/-! DEFINITION. Regularized zero-forcing of R209, in fixed point with 96 fraction bits, and what the rule leaves open of it: an
error within its bound, and the result beyond the ratio 10⁴ (log entry 13). -/

namespace Sys2Proof.Machine

/-- Fraction bits of the fixed-point numbers here. -/
def zfFrac : Nat := 96

/-- A quotient of two fixed-point complex numbers by a real one. -/
def zfDiv (a : Cplx) (d : Int) : Cplx := CplxOps.mapParts (fun v => v * 2 ^ zfFrac / d) a

/-- A product of two fixed-point complex numbers. -/
def zfMul (a b : Cplx) : Cplx := CplxOps.mapParts (fun v => asr v zfFrac) (CplxOps.mul a b)

/-- 10^(j/100) for `j` below 100, in fixed point: the largest `d` with `d^100 ≤ 10^j`. -/
def tenRoot (j : Nat) : Nat :=
  (List.range (zfFrac + 4)).foldl (fun d i =>
    let t := d + 2 ^ (zfFrac + 3 - i)
    if t ^ 100 ≤ 10 ^ j * 2 ^ (zfFrac * 100) then t else d) 0

/-- v × 10^(−q/100), rounded down: q = 100a − j with j below 100. -/
def overTen (v : Int) (q : Int) : Int :=
  let j := (-q) % 100
  let a := (q + j) / 100
  let r := v * (tenRoot j.toNat : Int) / 2 ^ zfFrac
  if 0 ≤ a then r / 10 ^ a.toNat else r * 10 ^ (-a).toNat

/-- ‖h‖² of a coefficient vector. -/
def normOf (h : List Cplx) : Int := (h.map CplxOps.norm2).foldl (· + ·) 0

/-- λ of a user in fixed point (R209). -/
def lambdaOf (h : List Cplx) (quality : Int) (regZf : Nat) : Int :=
  overTen (normOf h * regZf * 2 ^ zfFrac / 256) quality

/-- H × H^H + Λ in fixed point, the coefficients taken as integers. -/
def gramOf (rows : List (List Cplx)) (quality : List Int) (regZf : Nat) : List (List Cplx) :=
  rows.mapIdx fun u h => rows.mapIdx fun v g =>
    let c := CplxOps.sum (List.zipWith (fun x y => CplxOps.mul x (CplxOps.conj y)) h g)
    let d : Cplx := { re := c.re * 2 ^ zfFrac, im := c.im * 2 ^ zfFrac }
    if u = v then { d with re := d.re + lambdaOf h (nth 0 quality u) regZf } else d

/-- One step of elimination: the pivot row leaves, and each other row loses its multiple of it. -/
def eliminate (p : List Cplx) (l : List (List Cplx)) : List (List Cplx) :=
  let d := (cnth p 0).re
  l.map fun r => List.zipWith (fun a b => CplxOps.sub a (zfMul (zfDiv (cnth r 0) d) b)) (r.drop 1) (p.drop 1)

/-- The pivots of the factorization, for at most `n` rows; it ends at one that is not positive. -/
def pivots : Nat → List (List Cplx) → List Int
  | 0, _ => []
  | n + 1, m =>
    match m with
    | [] => []
    | p :: rest =>
      let d := (cnth p 0).re
      if d ≤ 0 then [d] else d :: pivots n (eliminate p rest)

/-- The solution of an augmented system by elimination and back substitution. -/
def solve : Nat → List (List Cplx) → List Cplx
  | 0, _ => []
  | n + 1, m =>
    match m with
    | [] => []
    | p :: rest =>
      let d := (cnth p 0).re
      if d ≤ 0 then List.replicate m.length CplxOps.zero
      else
        let x := solve n (eliminate p rest)
        let known := CplxOps.sum (List.zipWith zfMul (p.drop 1) x)
        zfDiv (CplxOps.sub (cnth p (p.length - 1)) known) d :: x

/-- The matrix is positive definite. -/
def definite (m : List (List Cplx)) : Bool :=
  decide ((pivots m.length m).length = m.length) && (pivots m.length m).all fun d => decide (0 < d)

/-- The matrix with a number taken off, or with its negative added to one. -/
def lessDiag (m : List (List Cplx)) (t : Int) : List (List Cplx) :=
  m.mapIdx fun u r => r.mapIdx fun v c => if u = v then { c with re := c.re - t } else c

def moreDiag (m : List (List Cplx)) (t : Int) : List (List Cplx) :=
  lessDiag (m.map fun r => r.map fun c => CplxOps.sub CplxOps.zero c) (-t)

/-- The smallest eigenvalue, by bisection below the trace. -/
def leastEigen (m : List (List Cplx)) : Int :=
  let bits := Nat.log2 ((m.mapIdx fun u r => (cnth r u).re).foldl (· + ·) 0).toNat + 1
  (List.range bits).foldl (fun t i =>
    let c := t + 2 ^ (bits - 1 - i)
    if definite (lessDiag m c) then c else t) 0

/-- The largest eigenvalue is at most 10⁴ times the smallest (R209). -/
def wellConditioned (m : List (List Cplx)) : Bool :=
  let t := leastEigen m
  decide (0 < t) && definite (moreDiag m (10000 * t + 1))

/-- The smallest pivot of the factorization falls below 2⁻²⁰ of the largest diagonal element (R209). -/
def zfSingular (rows : List (List Cplx)) (quality : List Int) (regZf : Nat) : Bool :=
  let m := gramOf rows quality regZf
  let top := (m.mapIdx fun u r => (cnth r u).re).foldl max 0
  let p := pivots m.length m
  decide (p.length < m.length) || p.any fun d => decide (d * 2 ^ 20 < top)

/-- Column `u` of W, in fixed point. -/
def zfColumn (rows : List (List Cplx)) (quality : List Int) (regZf u : Nat) : List Cplx :=
  let m := gramOf rows quality regZf
  let e := m.mapIdx fun v r => r ++ [if v = u then { re := 2 ^ (2 * zfFrac), im := 0 } else CplxOps.zero]
  let x := solve m.length e
  (List.range 64).map fun p => CplxOps.sum (List.zipWith (fun h c => CplxOps.mul (CplxOps.conj (cnth h p)) c) rows x)

/-- Scales a column by a power of two so that its largest real part needs exactly 16 bits (R209). -/
def scale16 (w : List Cplx) : List Cplx :=
  let g : Int := (bitsOfAll (CplxOps.parts w) : Int) - 16
  w.map (CplxOps.mapParts fun v => asrI v g)

/-- A result differs from the exactly scaled column by at most 2⁻¹⁰ of the exact column's norm, with what scaling cuts off (R209). -/
def withinBound (col w : List Cplx) : Bool :=
  let g : Int := (bitsOfAll (CplxOps.parts col) : Int) - 16
  let up (k : Int) (l : List Cplx) : List Cplx := l.map (CplxOps.mapParts fun v => v * 2 ^ k.toNat)
  let diff := List.zipWith CplxOps.sub (up g w) (up (-g) col)
  decide (normOf diff * 2 ^ 20 ≤ normOf (up (-g) col))

/-- The vector of user `u` of a set: the scaled column with an error, together within 2⁻¹⁰ of its norm, which is all that the rule
bounds; any result where the matrix is not well conditioned (R209; log entry 13). -/
def zfVector (rows : List (List Cplx)) (quality : List Int) (regZf u : Nat) : List Cplx :=
  let col := zfColumn rows quality regZf u
  let w := scale16 col
  let off := (List.zipWith CplxOps.add w ((List.range 64).map fun p => Config.zfError rows quality regZf u p)).map
    (CplxOps.mapParts sat16)
  if !wellConditioned (gramOf rows quality regZf) || withinBound col off then off else w

end Sys2Proof.Machine
end

