-- ==== Sys2Proof/Machine/Fabric.lean ====
section
/-! DEFINITION. The Eight at work: weight formation, symbols, items and their results, cuts, the reduction network, crew loads and
crew faults (R129 to R145, R151 to R161, R182 to R188, R207 to R213). -/

namespace Sys2Proof.Machine

/-! Weights (R137 to R139, R207 to R213, R326) -/

/-- RECIP of every path (R212). -/
def recipAll (s : State) : List Cplx := (List.range 64).map fun p => tget { re := 16384, im := 0 } s.ws.recip p

/-- The slots of two sections overlap in time. -/
def slotsMeet (s : State) (x y : Section) : Bool :=
  let a := slotStart s x.half (slotNear s x.half x.slot)
  let b := slotStart s y.half (slotNear s y.half y.slot)
  decide (a < b + slotFp (gridMu s y.half) ∧ b < a + slotFp (gridMu s x.half))

/-- A section of WMODE 0 with a user tag: it takes part in formation (R207). -/
def Section.forms (x : Section) : Bool := decide (x.wmode = 0 ∧ x.user ≠ sectorTag)

/-- The co-scheduled set of a section on a PRB, in ascending SECTION_ID (R94, R207). -/
def coSet (s : State) (x : Section) (prb : Nat) : List Section :=
  if x.group = 0 then [x]
  else sortBy (fun a b => decide (a.id ≤ b.id))
    ((peersOf s x).filter fun y => y.forms && decide (y.group = x.group ∧ y.prbStart ≤ prb ∧ prb < y.prbStart + y.prbCnt))

/-- Maximal runs of equal neighbours, each with the place it starts at and its length. -/
def runsOf {α : Type} [DecidableEq α] (start : Nat) : List α → List (Nat × Nat × α)
  | [] => []
  | a :: l =>
    match runsOf (start + 1) l with
    | (p, n, b) :: t => if a = b then (start, n + 1, a) :: t else (start, 1, a) :: (p, n, b) :: t
    | [] => [(start, 1, a)]

/-- The PRB groups of a section: first PRB, PRB count, and the co-scheduled set (R207). -/
def prbGroups (s : State) (x : Section) : List (Nat × Nat × List Section) :=
  runsOf x.prbStart ((List.range x.prbCnt).map fun i => coSet s x (x.prbStart + i))

/-- The order in which sections give up their vectors (R210). -/
def ovfBefore (a b : Section) : Bool :=
  let k (x : Section) : Nat := x.id * 4 + (if x.dir = .ul then 2 else 0) + x.half
  decide (k b ≤ k a)

/-- The symbols of a section at the balls, as an interval. -/
def symbolSpan (s : State) (x : Section) : Int × Int :=
  let n := slotNear s x.half x.slot
  (ballStart s x.half n x.symStart, ballEnd s x.half n (x.symStart + x.symCnt - 1))

/-- The largest number of vectors in force for one symbol, over both directions and halves, from sections with their numbers of vectors
(R210). -/
def peakVectors (s : State) (l : List (Nat × Section)) : Nat :=
  let spans := l.map fun c => (c.1, symbolSpan s c.2)
  (spans.map fun c => ((spans.filter fun e => decide (e.2.1 ≤ c.2.1 ∧ c.2.1 < e.2.2)).map Prod.fst).foldl (· + ·) 0).foldl max 0

/-- The sections that give up their vectors, one at a time in order, until the count fits; `kept` have one vector each (R210). -/
def shedVectors (s : State) (kept : List (Nat × Section)) : List (Nat × Section) → List Section
  | [] => []
  | c :: l => if peakVectors s (kept ++ c :: l) ≤ 4096 then [] else c.2 :: shedVectors s ((1, c.2) :: kept) l

/-- Sections formed by R208 over all their PRBs, so that at most 4,096 vectors are in force for a symbol (R210). -/
def overflowed (s : State) (x : Section) : List Section :=
  let all := s.fh.sections.filter fun y => y.forms && slotsMeet s x y
  let cost := all.map fun y => ((prbGroups s y).length, y)
  if (cost.map Prod.fst).foldl (· + ·) 0 ≤ 4096 then []
  else shedVectors s [] (sortBy (fun a b => ovfBefore a.2 b.2) cost)

/-- The entry that a user's lookup hit (R198). -/
def hitOf (s : State) (x : Section) : Option (List Cplx × Int) :=
  match lookupResult s x.user x.half x.slot with
  | some (.hit _, c, q) => some (c, q)
  | _ => none

/-- Users of a set that take part: hit, and each tag once (R207). -/
def usersOf (s : State) (set : List Section) : List Section :=
  set.foldl (fun l y => if (hitOf s y).isSome && !(l.any fun z => decide (z.user = y.user)) then l ++ [y] else l) []

/-- The vector of a section from a set of users, before R212, and whether the factorization failed (R208, R209). -/
def vectorOf (s : State) (x : Section) (users : List Section) : List Cplx × Bool :=
  let own := maskHalf (isSplit s) x.half (((hitOf s x).map Prod.fst).getD [])
  if users.length ≤ 1 then (mrc own, false)
  else
    let rows := users.map fun y => maskHalf (isSplit s) x.half (((hitOf s y).map Prod.fst).getD [])
    let q := users.map fun y => ((hitOf s y).map Prod.snd).getD 0
    if zfSingular rows q s.ws.regZf then (mrc own, true)
    else (zfVector rows q s.ws.regZf (users.findIdx fun y => decide (y.user = x.user)), false)

/-- R212 on downlink. -/
def corrected (s : State) (d : Dir) (w : List Cplx) : List Cplx := if d = .dl then recipCorrect w (recipAll s) else w

/-- Sections of a co-scheduled set that form it: where more than 8 users take part, the 8 with the lowest SECTION_ID (R210). -/
def formers (s : State) (set : List Section) : List Section :=
  let hit := set.filter fun y => (hitOf s y).isSome
  if (usersOf s set).length ≤ 8 then hit else hit.take 8

/-- The sections whose users' entries a section's formation reads (R207, R210). -/
def usersRead (s : State) (x : Section) : List Section :=
  if (overflowed s x).contains x then [x]
  else usersOf s ((prbGroups s x).flatMap fun g => if (formers s g.2.2).contains x then formers s g.2.2 else [x])

/-- A section of the set has formed from it already, and has counted what failed with it (R209). -/
def formedBefore (s : State) (x y : Section) : Bool :=
  decide (y.order ≠ x.order) && y.formed && !y.late && !y.miss && !y.poison && !(overflowed s y).contains y

/-- The vectors of a section of WMODE 0 whose own lookup hit: its PRB groups, and counts of GROUP_OVF, FORM_OVF and, with the first
section that forms from a set, ZF_FAIL (R207 to R212). -/
def formGroups (s : State) (x : Section) : List (Nat × Nat × List Cplx) × Nat × Nat × Nat :=
  if (overflowed s x).contains x then
    ([(x.prbStart, x.prbCnt, corrected s x.dir (vectorOf s x [x]).1)], 0, 1, 0)
  else
    (prbGroups s x).foldl (fun acc g =>
      let set := formers s g.2.2
      let inSet := set.contains x
      let (w, bad) := vectorOf s x (if inSet then usersOf s set else [x])
      let leads := !(set.any (formedBefore s x))
      (acc.1 ++ [(g.1, g.2.1, corrected s x.dir w)], acc.2.1 + (if inSet then 0 else 1), acc.2.2.1,
        acc.2.2.2 + (if bad && leads then 1 else 0))) ([], 0, 0, 0)

/-- The weights that a beam carried in its most recent slot before a section's (R213). -/
def previousWeights (s : State) (x : Section) : List (Nat × Nat × List Cplx) :=
  let n := slotNear s x.half x.slot
  let mine := s.fab.formed.filter fun f => decide (f.dir = x.dir ∧ f.half = x.half ∧ f.beam = x.beam) &&
    decide (slotNear s x.half f.slot < n)
  match mine.foldl (fun b f => match b with
      | none => some (slotNear s x.half f.slot)
      | some m => some (max m (slotNear s x.half f.slot))) (none : Option Int) with
  | some m => (mine.filter fun f => decide (slotNear s x.half f.slot = m)).map fun f => (f.prbStart, f.prbCnt, f.weights)
  | none =>
    match s.fab.prev.find? fun p => decide (p.dir = x.dir ∧ p.half = x.half ∧ p.beam = x.beam) with
    | some p => p.groups
    | none => []

/-- Replaces an accepted section; sections are told apart by their arrival order. -/
def putSection (s : State) (x : Section) : State :=
  { s with fh := { s.fh with sections := s.fh.sections.map fun y => if y.order = x.order then x else y } }

/-- Names a formed vector in the formed-weight buffer. -/
def formedKey (f : Formed) : List Nat := [if f.dir = .dl then 0 else 1, f.half, tagBits f.slot, f.sectionId, f.prbStart]

/-- The formed vectors of a section. -/
def isFormedOf (x : Section) (f : Formed) : Bool :=
  decide (f.dir = x.dir ∧ f.half = x.half ∧ f.sectionId = x.id) && sameSlot f.slot x.slot

/-- Stores formed weights of a section. -/
def storeFormed (s : State) (x : Section) (gs : List (Nat × Nat × List Cplx)) : State :=
  let add := gs.map fun g => ({ dir := x.dir, half := x.half, slot := x.slot, sectionId := x.id, beam := x.beam, prbStart := g.1,
                                prbCnt := g.2.1, weights := g.2.2 } : Formed)
  let s := (add.map formedKey).foldl (bufWrite bufFormed) s
  { s with fab := { s.fab with formed := (s.fab.formed.filter fun f => !isFormedOf x f) ++ add } }

/-- The whole section falls back to the sector beam of its BEAM; it counts once (R138). -/
def fallBack (s : State) (x : Section) (poison : Bool) : State :=
  let x' := { x with formed := true, miss := x.miss || !poison, poison := x.poison || poison }
  let w := sectorBeam (viewFor s x.half x.slot) x.dir x.half x.beam
  finc (putSection (storeFormed s x [(x.prbStart, x.prbCnt, w)]) x') F.fallbackCnt 0 (if x.sector || x.miss || x.poison then 0 else 1)

/-- A section one of whose formed vectors lies in a poisoned word of the formed-weight buffer falls back (R138, R355). -/
def checkFormed (s : State) (x : Section) : State :=
  if !x.sector && s.fab.formed.any fun f => isFormedOf x f && bufMarked s bufFormed (formedKey f) then
    fallBack (countPoison s 1) x true
  else s

/-- A section of a slot uses the entry of a user. -/
def usesUser (s : State) (user half : Nat) (slot : TimeTag) (y : Section) : Bool :=
  decide (y.half = half) && sameSlot y.slot slot && !y.sector &&
    (decide (y.user = user) || (decide (y.group ≠ 0) && s.fh.sections.any fun z =>
      decide (z.half = half ∧ z.user = user ∧ z.group = y.group ∧ z.dir = y.dir) && sameSlot z.slot slot))

/-- Releases the prefetch entries of slots whose window has closed and whose sections have all been formed (R199). -/
def releasePrefetch (s : State) : State :=
  let keep (p : Prefetch) : Bool :=
    decide (usFp (s.fh.csClose - 2 * chainPos s) ≤ slotStart s p.half (slotNear s p.half p.slot) - uFp s) ||
      s.fh.sections.any fun y => usesUser s p.user p.half p.slot y && !y.formed
  judgePanic { s with ws := { s.ws with prefetch := s.ws.prefetch.filter keep } }

/-- The state whose lookups a slot's sections use: a slot that a stroke of half 0 is still to open sees the weight-store changes of that
stroke, which are known by now (R200). -/
def lookupView (s : State) (half : Nat) (slot : TimeTag) : State :=
  if slotsAhead s half slot = 1 ∧ slotStart s half (slotNear s half slot) % (slotFp (gridMu s 0) : Int) = 0 then
    let t := wsStroke s
    { s with ws := { s.ws with prefetch := t.ws.prefetch, results := t.ws.results } }
  else s

/-- Forms the weights of a section, once, under the configuration of its slot (R31, R32, R137). A poisoned word of the prefetch buffer
that it reads, its own user's or another's of its set, makes it fall back (R138, R355). -/
def formSection (s : State) (x : Section) : State :=
  let done := { x with formed := true }
  let v := viewFor (lookupView s x.half x.slot) x.half x.slot
  let s :=
    if x.sector then
      putSection (storeFormed s x [(x.prbStart, x.prbCnt, sectorBeam v x.dir x.half x.beam)]) done
    else if x.late then putSection (storeFormed s x (previousWeights s x)) done
    else
      match lookupResult v x.user x.half x.slot with
      | some (.hit _, c, _) =>
        let bad := (if x.wmode = 1 then [x] else usersRead v x).filter fun y =>
          bufMarked s bufPrefetch [y.user, y.half, tagBits y.slot]
        if bad ≠ [] then fallBack (countPoison s bad.length) x true
        else if x.wmode = 1 then putSection (storeFormed s x [(x.prbStart, x.prbCnt, c)]) done
        else
          let (gs, go, fo, zf) := formGroups v x
          wsCount (wsCount (wsCount (putSection (storeFormed s x gs) done) wcGroupOvf go) wcFormOvf fo) wcZfFail zf
      | some (.poison, _, _) => fallBack s x true
      | some (.miss, _, _) => fallBack s x false
      | none => s
  releasePrefetch s

/-- The weights of a section on a PRB: its PRB group's, else, where previous weights do not reach, the sector beam. -/
def weightsAt (s : State) (x : Section) (prb : Nat) : List Cplx :=
  match s.fab.formed.find? fun f => decide (f.dir = x.dir ∧ f.half = x.half ∧ f.sectionId = x.id ∧ f.prbStart ≤ prb ∧
      prb < f.prbStart + f.prbCnt) && sameSlot f.slot x.slot with
  | some f => f.weights
  | none => sectorBeam s x.dir x.half x.beam

/-! Symbols (R140, R142, R157, R325, R326) -/

/-- Accepted sections of a direction and half that cover a symbol. -/
def covering (s : State) (d : Dir) (half : Nat) (tag : TimeTag) : List Section :=
  s.fh.sections.filter fun x => decide (x.dir = d ∧ x.half = half ∧ x.symStart ≤ tag.symbol ∧ tag.symbol < x.symStart + x.symCnt) &&
    sameSlot x.slot tag

/-- The symbol after a tag's, and the symbol before it. -/
def nextTag (s : State) (half : Nat) (t : TimeTag) : TimeTag :=
  let n := slotNear s half t
  if t.symbol < 13 then { t with symbol := t.symbol + 1 } else tagOfSlot (gridMu s half) (n + 1) 0

def prevTag (s : State) (half : Nat) (t : TimeTag) : TimeTag :=
  let n := slotNear s half t
  if t.symbol = 0 then tagOfSlot (gridMu s half) (n - 1) 13 else { t with symbol := t.symbol - 1 }

/-- Shift in force of a direction and half (R135, R162). -/
def shiftOf (s : State) (d : Dir) (half : Nat) : Nat := nth 15 s.fab.shifts (2 * half + (if d = .dl then 0 else 1))

/-- A section misses its lookup at its deadline: previous weights, LATE_WEIGHT (R326). -/
def judgeLate (s : State) (x : Section) : State :=
  if x.sector || x.late || (lookupResult s x.user x.half x.slot).isSome then s
  else
    let s := putSection s { x with late := true }
    let s := fset (finc s F.lateWeightCnt) F.caveEventLateWeight 0 1
    raise s 0x49 0 [(fget s F.lateWeightCnt : Int)]

/-- Adds an item. -/
def addItem (s : State) (crew kind half : Nat) (d : Dir) (tag : TimeTag) (index : Nat) (deadline : Int) (ref : Nat := 0) : State :=
  { s with fab := { s.fab with
      nextItem := s.fab.nextItem + 1
      items := s.fab.items ++ [{ id := s.fab.nextItem, crew := crew, kind := kind, half := half, dir := d, tag := tag, index := index,
                                 ref := ref, deadline := deadline }] } }

/-- A crew in force that works, to form weights: the section's first PRB picks it (R130, R133). -/
def formCrew (s : State) (half prb : Nat) : Option Nat :=
  let l := (nth [] s.fab.crews half).filter fun c => unitWorks s (uCrew c)
  l[prb % l.length]?

/-- Cut instant of a tag's symbol. -/
def cutOf (s : State) (d : Dir) (half : Nat) (t : TimeTag) : Int := cutInstant s d half (slotNear s half t) t.symbol

/-- Makes the formation item of a section that has none (R129, R130). -/
def addForm (s : State) (x : Section) : State :=
  let has := s.fab.items.any fun i => decide (i.kind = 4 ∧ i.dir = x.dir ∧ i.half = x.half ∧ i.ref = x.id) && sameSlot i.tag x.slot
  if x.formed || has then s
  else
    match formCrew (viewFor s x.half x.slot) x.half x.prbStart with
    | none => s
    | some c =>
      let t := { x.slot with symbol := x.symStart }
      addItem s c 4 x.half x.dir t x.prbStart (cutOf s x.dir x.half t) x.id

/-- Sections that become due for formation at the start of a symbol: those that begin with the next symbol, and those that
this symbol needs. -/
def dueForms (s : State) (d : Dir) (half : Nat) (tag : TimeTag) : List Section :=
  let nt := nextTag s half tag
  (s.fh.sections.filter fun x => decide (x.dir = d ∧ x.half = half) && !x.formed &&
    ((sameSlot x.slot nt && decide (x.symStart = nt.symbol)) ||
      (sameSlot x.slot tag && decide (x.symStart ≤ tag.symbol ∧ tag.symbol < x.symStart + x.symCnt))))

/-- A unit out of service met by a section in a symbol: MISMATCH once per section and symbol (R157). -/
def mismatch (s : State) (x : Section) (tag : TimeTag) (u : Nat) : State :=
  let e := (x.dir, x.half, tag, x.id)
  if s.fab.mismatch.contains e then s
  else unitMismatch { s with fab := { s.fab with mismatch := s.fab.mismatch ++ [e] } } u

/-- Beams that do not work, met by the sections of a symbol. -/
def beamMismatch (s : State) (tag : TimeTag) (x : Section) : State :=
  let v := viewFor s x.half tag
  if beamWorks v x.dir x.half x.beam then s
  else if halfOut v x.half && unitWorks v (uBeam x.dir x.half x.beam) then mismatch s x tag (uLo (2 * x.half))
  else mismatch s x tag (uBeam x.dir x.half x.beam)

/-- A PRB of a symbol whose crew does not work: zero in every beam and path, and counted (R157, R159). -/
def zeroPrb (s : State) (d : Dir) (half : Nat) (tag : TimeTag) (prb crew : Nat) : State :=
  let hit := (covering s d half tag).filter fun x => decide (x.prbStart ≤ prb ∧ prb < x.prbStart + x.prbCnt)
  finc (hit.foldl (fun s x => mismatch s x tag (uCrew crew)) s) F.crewZeroCnt

/-- PRBs of a symbol that some section covers, ascending. -/
def prbsOf (l : List Section) (n : Nat) : List Nat :=
  (List.range n).filter fun p => l.any fun x => decide (x.prbStart ≤ p ∧ p < x.prbStart + x.prbCnt)

/-- Makes the beamforming items of a PRB, or its zero output; `v` is the state as the symbol's slot sees it. -/
def addPrb (v : State) (d : Dir) (half : Nat) (tag : TimeTag) (dl : Int) (s : State) (prb : Nat) : State :=
  match crewOfPrb v half prb with
  | none => s
  | some c =>
    if !unitWorks v (uCrew c) then zeroPrb s d half tag prb c
    else
      match d with
      | .dl => addItem s c 1 half d tag prb dl
      | .ul => addItem (addItem s c 2 half d tag prb dl) c 3 half d tag prb dl

/-! Packets that return from the extension region (R27, R99, R109, R118, R355) -/

/-- The section and PRB of each block of a payload that has a poisoned byte; `none` where a section header has one. -/
def markedPrbs (blk : Nat) : Nat → List (Byte × Bool) → Option (List (Nat × Nat))
  | 0, _ => some []
  | n + 1, l =>
    let b := l.map Prod.fst
    let cnt := beNat (slice b 6 2)
    if (l.take 8).any Prod.snd then none
    else
      let bad := (List.range cnt).filter fun i => ((l.drop (8 + i * blk)).take blk).any Prod.snd
      (markedPrbs blk n (l.drop (8 + cnt * blk))).map fun r =>
        (bad.map fun i => (beNat (slice b 0 2), beNat (slice b 4 2) + i)) ++ r

/-- Whether a poisoned packet has spoilt a section's PRB: a poisoned header spoils all of them. -/
def spoilt (l : List (Byte × Bool)) (id prb : Nat) : Bool :=
  let h := effHdr (l.map Prod.fst)
  if (l.take 16).any Prod.snd then true
  else
    match markedPrbs (prbBytes (rxMant h)) h.sectionCnt (l.drop 16) with
    | none => true
    | some r => r.contains (id, prb)

/-- A waiting packet is read back from the extension region: PRBs of U-data with a poisoned byte are taken as absent, those of a
partial sum as zero (R99, R119, R355). -/
def readSpilled (s : State) (w : PktWait) : State :=
  match w.ext with
  | none => s
  | some a =>
    let len := ceilDiv w.bytes 32 * 32
    let s := awaitWrites s a len
    let (l, s) := caveRead (moveBytes (openRowsOf s (a / 32) (len / 32)) 2 len) 2 a len []
    if l.any fun x => x.2 then
      { s with fh := { s.fh with
          dlData := s.fh.dlData.filter (fun d => !(decide (d.ext = some a) && spoilt l d.id d.prb)),
          partials := s.fh.partials.map fun e => if decide (e.ext = some a) && spoilt l e.id e.prb then { e with bad := true } else e } }
    else s

/-- Packets of a type that wait for a symbol leave the on-chip buffer and the extension region. -/
def takeWaits (s : State) (typ half : Nat) (tag : TimeTag) : State :=
  let mine (w : PktWait) : Bool := decide (w.typ = typ ∧ w.half = half ∧ w.tag = tag)
  let s := (s.fh.waits.filter mine).foldl readSpilled s
  { s with fh := { s.fh with waits := s.fh.waits.filter (fun w => !mine w),
                             taken := s.fh.taken ++ s.fh.waits.filter fun w => mine w && decide (w.typ = 1) } }

/-- Downlink data of a symbol leaves its buffers; absent PRBs are counted (R99, R109). -/
def takeDlSymbol (s : State) (half : Nat) (tag : TimeTag) (secs : List Section) : State :=
  secs.foldl (fun s x =>
    if (List.range x.prbCnt).all fun i => s.fh.dlData.any (samePrb half tag x.id (x.prbStart + i)) then s
    else fhCount s (upPort s) cUdMissing) (takeWaits s 1 half tag)

/-- The 12 values of a PRB. -/
def prbVals (l : List Cplx) (prb : Nat) : List Cplx := (List.range 12).map fun k => cnth l (12 * prb + k)

/-- Places of a path's PRB in the uplink converter-side bank and of a beam's PRB in the uplink link-side bank: two banks each (R26,
R142). -/
def ulInKey (half : Nat) (tag : TimeTag) (path prb : Nat) : List Nat := [half, tag.symbol % 2, path, prb]
def ulOutKey (half : Nat) (tag : TimeTag) (beam prb : Nat) : List Nat := [half, tag.symbol % 2, beam, prb]

/-- Received values of a symbol enter the uplink bank, for the PRBs that sections cover and the paths that work. -/
def takeUlSymbol (s : State) (half : Nat) (tag : TimeTag) (prbs : List Nat) (samples : List (Nat × List Cplx)) : State :=
  let v := viewFor s half tag
  let data := (samples.filter fun e => rxWorks v e.1).flatMap fun e =>
    prbs.map fun b => ({ half := half, tag := tag, unit := e.1, prb := b, vals := prbVals e.2 b } : PrbData)
  let keep := s.fab.ulIn.filter fun d => decide (d.half ≠ half) || decide (d.tag = prevTag s half tag)
  let s := (data.map fun d => ulInKey half tag d.unit d.prb).foldl (bufWrite bufUlIn) s
  { s with fab := { s.fab with ulIn := keep ++ data } }

/-- Pilot elements of a section in one symbol: PRB, then subcarrier (R92, R201). -/
def pilotElements (i : EstItem) (l : List Cplx) : List Cplx :=
  (List.range i.prbCnt).flatMap fun b =>
    ((List.range 12).filter fun k => decide (k % combStep i.pilot.comb = i.pilot.combOff)).map fun k =>
      cnth l (12 * (i.prbStart + b) + k)

/-- A symbol is one of an estimation item's pilot symbols that it still expects. -/
def pilotHere (half : Nat) (tag : TimeTag) (i : EstItem) : Bool :=
  decide (i.half = half ∧ i.pilot.sym ≤ tag.symbol ∧ tag.symbol < i.pilot.sym + i.pilot.nsym ∧ i.symsLeft ≠ 0) && sameSlot i.slot tag

/-- An estimation item takes the pilot elements of a symbol. -/
def takePilot (half : Nat) (tag : TimeTag) (samples : List (Nat × List Cplx)) (i : EstItem) : EstItem :=
  if pilotHere half tag i then
    { i with symsLeft := i.symsLeft - 1,
             rx := samples.foldl (fun t e => tmod [] t e.1 fun l => l ++ pilotElements i e.2) i.rx }
  else i

/-- The estimator's lookup of an item whose pilot begins (R201, R325). -/
def askEstimate (s : State) (i : EstItem) : State :=
  queueRead s { user := i.user, half := i.half, slot := i.slot, est := some i.id,
                deadline := slotStart s i.half (slotNear s i.half i.slot + 4) }

/-- A half index that the mode uses, and a tag in range. -/
def symbolOk (s : State) (d : Dir) (half : Nat) (tag : TimeTag) : Bool :=
  !planeStopped s && (decide (half = 0) || (decide (half = 1) && isSplit s)) && tagValid (gridMu s half) tag &&
    (decide (d = .ul) || hasDl s)

/-! CHAIN accumulation (R118, R119, R155) -/

/-- The accumulation items of a symbol. -/
def accItems (s : State) (half : Nat) (tag : TimeTag) : List Item :=
  s.fab.items.filter fun i => decide (i.kind = 6 ∧ i.half = half ∧ i.tag = tag)

/-- Accumulation items of a symbol are still to run. -/
def accPending (s : State) (half : Nat) (tag : TimeTag) : Bool := !(accItems s half tag).isEmpty

/-- The combined beams of an uplink symbol are ready at `t`: what came for it early leaves its buffers, and each of its PRBs gets its
accumulation item on the crew that owns it, where the module waits for partial sums; a PRB whose crew has been muted since it combined
is output as zero (R157, R159). -/
def openAcc (s : State) (half : Nat) (tag : TimeTag) (t : Int) : State :=
  if !waitsDown s || (accOf s half tag).isSome then s
  else
    let v := viewFor s half tag
    let dl := accDeadline s t
    let s := putAcc (takeWaits s 4 half tag) { half := half, tag := tag, closed := false, late := false, deadline := dl }
    (prbsOf (covering s .ul half tag) (carrierPrbs s half)).foldl (fun s p =>
      match crewOfPrb v half p with
      | some c =>
        let mine (d : PrbData) : Bool := decide (d.half = half ∧ d.tag = tag ∧ d.prb = p)
        if unitWorks v (uCrew c) then addItem s c 6 half .ul tag p dl
        else if s.fab.ulOut.any mine then
          zeroPrb { s with fab := { s.fab with ulOut := s.fab.ulOut.filter fun d => !mine d } } .ul half tag p c
        else s
      | none => s) s

/-- The symbol of a direction has finished at `t`. -/
def finishSymbol (s : State) (d : Dir) (half : Nat) (tag : TimeTag) (t : Int) : State :=
  let s := { s with fab := { s.fab with symbols := s.fab.symbols.map fun r =>
    if r.dir = d ∧ r.half = half ∧ r.tag = tag then { r with finished := some t } else r } }
  if d = .ul then openAcc s half tag t else s

/-- What the uplink symbol's start takes in: the chains of the RX paths, the uplink bank, and the pilots (R22, R201). -/
def takeUplink (s : State) (half : Nat) (tag : TimeTag) (prbs : List Nat) (samples : List (Nat × List Cplx)) : State :=
  let (s, vals) := receiveSymbol s half tag samples
  let v := viewFor s half tag
  let s := takeUlSymbol s half tag prbs vals
  let begun := s.fab.est.filter fun i => pilotHere half tag i && decide (i.symsLeft = i.pilot.nsym)
  begun.foldl askEstimate
    { s with fab := { s.fab with est := s.fab.est.map (takePilot half tag (vals.filter fun e => rxWorks v e.1)) } }

/-- Start of a symbol: S_j of R140. From the first work for the slot that the next stroke opens, that slot's settings stand (R31). -/
def symbolStartFx (d : Dir) (half : Nat) (tag : TimeTag) (samples : List (Nat × List Cplx)) (s : State) : State :=
  if !symbolOk s d half tag || (s.fab.symbols.any fun r => decide (r.dir = d ∧ r.half = half ∧ r.tag = tag)) then s
  else
    let s := judgePanic s
    let due := dueForms s d half tag
    let s := due.foldl (fun s x => holdChanges s half x.slot) (holdChanges s half tag)
    let s := due.foldl judgeLate s
    let s := (dueForms s d half tag).foldl addForm s
    let secs := covering s d half tag
    let prbs := prbsOf secs (carrierPrbs s half)
    let s := match d with
      | .dl =>
        let s := takeDlSymbol s half tag secs
        let keep := prevTag s half tag
        { s with fab := { s.fab with dlOut := s.fab.dlOut.filter fun e => decide (e.half ≠ half) || decide (e.tag = keep) } }
      | .ul => takeUplink s half tag prbs samples
    if secs = [] then s
    else
      let s := secs.foldl (fun s x => beamMismatch s tag x) s
      let n := slotNear s half tag
      let unsent := decide (d = .ul) && outOfLock s (ballStart s half n tag.symbol) (ballEnd s half n tag.symbol)
      let s := { s with fab := { s.fab with symbols := s.fab.symbols ++ [{ dir := d, half := half, tag := tag, sent := unsent }] } }
      let s := prbs.foldl (addPrb (viewFor s half tag) d half tag (cutOf s d half tag)) s
      if s.fab.items.any fun i => decide (i.kind ≤ 3 ∧ i.dir = d ∧ i.half = half ∧ i.tag = tag) then s
      else finishSymbol s d half tag (uFp s)

/-- SYMBOL_START. -/
def execSymbolStart (dir : Dir) (half : Nat) (tag : TimeTag) (samples : List (Nat × List Cplx)) (s : State) : Out :=
  .next (symbolStartFx dir half tag samples s)

/-! Results of beamforming items (R135) -/

/-- One output value: the sum of products, shifted and clamped; and its clamps (R135). -/
def beamform (l : List (Cplx × Cplx)) (shift : Nat) : Cplx × Nat :=
  let acc := CplxOps.sum (l.map fun p => CplxOps.mul p.1 p.2)
  let v := CplxOps.mapParts (fun x => asr x shift) acc
  (CplxOps.mapParts sat16 v, (if clips16 v.re then 1 else 0) + (if clips16 v.im then 1 else 0))

/-- Sections of an item: those that cover its symbol and PRB. -/
def itemSections (s : State) (i : Item) : List Section :=
  (covering s i.dir i.half i.tag).filter fun x => decide (x.prbStart ≤ i.index ∧ i.index < x.prbStart + x.prbCnt)

/-- The state as the slot of an item sees it (R31). -/
def itemView (s : State) (i : Item) : State := viewFor s i.half i.tag

/-- Data of one section's PRB in the downlink input; zero where the beam does not work or the PRB is absent (R99, R157). -/
def dlInput (s : State) (i : Item) (x : Section) : List Cplx :=
  if beamWorks s .dl i.half x.beam then
    ((s.fh.dlData.find? (samePrb i.half i.tag x.id i.index)).map fun d => d.vals).getD []
  else []

/-- Precoding of one PRB: the values of every working path of the half, and the clamps (R135). -/
def precode (s : State) (i : Item) : List PrbData × Nat :=
  let secs := (itemSections s i).map fun x => (weightsAt s x i.index, dlInput s i x)
  let sh := shiftOf s .dl i.half
  let rows := ((halfPaths s i.half).filter fun p => txWorks s p).map fun p =>
    let v := (List.range 12).map fun k => beamform (secs.map fun x => (cnth x.1 p, cnth x.2 k)) sh
    (({ half := i.half, tag := i.tag, unit := p, prb := i.index, vals := v.map Prod.fst } : PrbData),
      (v.map Prod.snd).foldl (· + ·) 0)
  (rows.map Prod.fst, (rows.map Prod.snd).foldl (· + ·) 0)

/-- Samples of a path on an item's PRB, as they entered the Eight. -/
def ulInput (s : State) (i : Item) (p : Nat) : List Cplx :=
  ((s.fab.ulIn.find? fun d => decide (d.half = i.half ∧ d.tag = i.tag ∧ d.unit = p ∧ d.prb = i.index)).map fun d => d.vals).getD []

/-- An item's input from the uplink bank lies in part in poisoned words (R112, R355). -/
def ulMarked (s : State) (i : Item) : Nat :=
  if s.sramPoison = [] then 0
  else ((halfPaths s i.half).filter fun p => bufMarked s bufUlIn (ulInKey i.half i.tag p i.index)).length

/-- Combining of one PRB: the values of every beam that a section of it names, and the clamps (R135). -/
def combine (s : State) (i : Item) : List PrbData × Nat :=
  let paths := halfPaths s i.half
  let ins := paths.map fun p => (p, ulInput s i p)
  let sh := shiftOf s .ul i.half
  let po := decide (ulMarked s i ≠ 0)
  let rows := ((itemSections s i).filter fun x => beamWorks s .ul i.half x.beam).map fun x =>
    let w := weightsAt s x i.index
    let v := (List.range 12).map fun k => beamform (ins.map fun e => (cnth w e.1, cnth e.2 k)) sh
    (({ half := i.half, tag := i.tag, unit := x.beam, prb := i.index, vals := v.map Prod.fst, id := x.id, poison := po } : PrbData),
      (v.map Prod.snd).foldl (· + ·) 0)
  (rows.map Prod.fst, (rows.map Prod.snd).foldl (· + ·) 0)

/-- The words that an EXPONENT item of a seat gave: its OUT words; the RIN words it holds when its kernel ran whole. -/
def exponentWords (t : Seat) : List DReg := if t.out.length < 12 then t.rin.take 12 else t.out.take 12

/-- Puts uplink results in the bank. -/
def putUl (s : State) (l : List PrbData) (sat : Nat) : State :=
  let same (d e : PrbData) : Bool := decide (d.half = e.half ∧ d.tag = e.tag ∧ d.unit = e.unit ∧ d.prb = e.prb)
  let s := (l.map fun d => ulOutKey d.half d.tag d.unit d.prb).foldl (bufWrite bufUlOut) s
  finc { s with fab := { s.fab with ulOut := (s.fab.ulOut.filter fun e => !(l.any fun d => same d e)) ++ l } } F.fabSatCnt 0 sat

/-- Results of a combining item of the vendor's kernel; poisoned input words are counted (R135, R355). -/
def takeCombined (s : State) (i : Item) : State :=
  let (l, n) := combine (itemView s i) i
  putUl (countPoison s (ulMarked s i)) l n

/-- Results of a precoding item. -/
def takePrecoded (s : State) (i : Item) : State :=
  let (l, n) := precode (itemView s i) i
  let rest := s.fab.dlOut.filter fun d => !decide (d.half = i.half ∧ d.tag = i.tag ∧ d.prb = i.index)
  finc { s with fab := { s.fab with dlOut := rest ++ l } } F.fabSatCnt 0 n

/-- Poison that leaves the crew's seats makes the item's sections poisoned reads: they fall back (R138, R169). -/
def poisonSections (s : State) (i : Item) : State :=
  (itemSections s i).foldl (fun s x => if x.poison then s else fallBack s x true) s

/-- Results of the customer's combiner, as its EXPONENT item delivers them (R183, R185). -/
def takeCustomer (s : State) (i : Item) : State :=
  let v := itemView s i
  let words (b : Nat) : List DReg := exponentWords (seatOf s (64 * i.crew + b))
  let po := decide (ulMarked s i ≠ 0)
  if (itemSections s i).any fun x => (words x.beam).any fun r => r.mark then takeCombined (poisonSections s i) i
  else
    let l := ((itemSections s i).filter fun x => beamWorks v .ul i.half x.beam).map fun x =>
      ({ half := i.half, tag := i.tag, unit := x.beam, prb := i.index, vals := (words x.beam).map (fun r => unpackCplx r.val),
         id := x.id, poison := po } : PrbData)
    putUl (countPoison s (ulMarked s i)) l 0

/-- Accumulation of a PRB: the downstream values are added to the module's own, saturated to 24 bits (R119, R155). -/
def accumulate (s : State) (i : Item) : State :=
  let rows := (itemSections s i).map fun x =>
    let own := s.fab.ulOut.find? fun d => decide (d.half = i.half ∧ d.tag = i.tag ∧ d.unit = x.beam ∧ d.prb = i.index)
    let zero : List Int := List.replicate 24 0
    let v := (own.map fun d => CplxOps.parts d.vals).getD zero
    let add := match partialOf s i.half i.tag x.id i.index with
      | some e => if e.bad then zero else CplxOps.parts e.vals
      | none => zero
    let r := (List.zipWith (· + ·) v add).map (psSat 24)
    let po := ((own.map fun d => d.poison).getD false) || bufMarked s bufUlOut (ulOutKey i.half i.tag x.beam i.index)
    (({ half := i.half, tag := i.tag, unit := x.beam, prb := i.index, vals := cplxOf (r.map Prod.fst), id := x.id,
        poison := po } : PrbData),
      (r.map Prod.snd).foldl (· + ·) 0)
  fhCount (putUl s (rows.map Prod.fst) 0) (downPort s) cPsSat ((rows.map Prod.snd).foldl (· + ·) 0)

/-- The section that a formation item forms. -/
def formTarget (s : State) (i : Item) : Option Section :=
  s.fh.sections.find? fun x => decide (x.dir = i.dir ∧ x.half = i.half ∧ x.id = i.ref) && sameSlot x.slot i.tag

/-- Marks the instant at which a symbol's items have finished; a formation item counts for the symbol before (R145). -/
def noteFinished (s : State) (i : Item) : State :=
  let tag := if i.kind = 4 then prevTag s i.half i.tag else i.tag
  let busy := s.fab.items.any fun j => decide (j.kind ≤ 3 ∧ j.dir = i.dir ∧ j.half = i.half ∧ j.tag = tag)
  let there := s.fab.symbols.any fun r => decide (r.dir = i.dir ∧ r.half = i.half ∧
    r.tag = tag) && (decide (i.kind ≤ 3) || r.finished.isSome)
  if there && !busy then finishSymbol s i.dir i.half tag (uFp s) else s

/-- A marked value has left a seat of the item's crew in this item (R169). -/
def itemLeaked (s : State) (i : Item) : Bool :=
  (List.range 64).any fun k => let t := seatOf s (64 * i.crew + k); t.leaked && decide (t.kind = i.kind)

/-- An estimation result that derives from a poisoned word is dropped, and counts as abandoned; its section is a poisoned read
(R169, R355; log entry 148). -/
def poisonEstimate (s : State) (i : Item) : State :=
  let hit (x : Section) : Bool := (s.fab.est.any fun e => decide (e.id = i.ref ∧ e.half = x.half ∧
    e.sectionId = x.id) && sameSlot e.slot x.slot)
  let s := (s.fh.sections.filter fun x => decide (x.dir = .ul) && hit x).foldl (fun s x => if x.poison then s else fallBack s x true) s
  if s.fab.est.any fun e => decide (e.id = i.ref) then
    finc { s with fab := { s.fab with est := s.fab.est.filter fun e => decide (e.id ≠ i.ref) } } F.estAbandonCnt
  else s

/-- What a completed item gives (R135, R137, R155, R169, R183). -/
def itemResult (s : State) (i : Item) : State :=
  let leaked := itemLeaked s i
  let s := if leaked && decide (i.kind = 1 ∨ i.kind = 2 ∨ i.kind = 3 ∨ i.kind = 6) then poisonSections s i else s
  match i.kind with
  | 1 => takePrecoded s i
  | 2 => if customerCrew s i.crew then s else takeCombined s i
  | 3 => if customerCrew s i.crew then takeCustomer s i else if leaked then takeCombined s i else s
  | 4 =>
    match formTarget s i with
    | some x => if x.formed then s else if leaked then fallBack s x true else formSection s x
    | none => s
  | 5 => if leaked then poisonEstimate s i else s
  | 6 => accumulate s i
  | _ => s

/-- An item completes: its result, and its end. -/
def finishItem (s : State) (i : Item) : State :=
  let s := itemResult { s with fab := { s.fab with items := s.fab.items.filter fun j => decide (j.id ≠ i.id) } } i
  if i.kind ≤ 4 then noteFinished s i else s

/-- The seats of a crew stop what they run of a KIND. -/
def freeSeats (s : State) (crew kind : Nat) : State :=
  (List.range 64).foldl (fun s k =>
    let t := seatOf s (64 * crew + k)
    if t.kind = kind then
      putSeat s (64 * crew + k) { t with running := false, wait := none, loops := [], inq := [], feed := [], out := [] }
    else s) s

/-- The deadline of an accumulation item passes: it completes with what has come (R155). -/
def endAccumulation (s : State) (i : Item) : State := finishItem (if i.running then freeSeats s i.crew 6 else s) i

/-! Dispatch (R130 to R134, R182, R183) -/

/-- Class 1 order: deadline, formation first, downlink first, lower PRB first; COMBINE before its EXPONENT (R130, R182). -/
def itemBefore (a b : Item) : Bool :=
  let k (i : Item) : Nat :=
    ((if i.kind = 4 then 0 else 1) * 2 + (if i.dir = .dl then 0 else 1)) * 65536 * 8 + i.index * 8 + i.kind
  decide (a.deadline < b.deadline) || (decide (a.deadline = b.deadline) && decide (k a ≤ k b))

/-- An item may start: its sections' weights are formed; EXPONENT follows the COMBINE item of its PRB; what accumulation waits for has
come. -/
def itemReady (s : State) (i : Item) : Bool :=
  match i.kind with
  | 4 => true
  | 3 => !(s.fab.items.any fun j => decide (j.kind = 2 ∧ j.half = i.half ∧ j.tag = i.tag ∧ j.index = i.index))
  | 6 => (itemSections s i).all fun x => (partialOf s i.half i.tag x.id i.index).isSome
  | _ => (itemSections s i).all fun x => x.formed

/-- Seats of a crew that a kind uses (R182). -/
def seatsOf (kind nb : Nat) : List Nat := List.range (if kind = 3 ∨ kind = 6 then min nb 64 else 64)

/-- The path whose words seat `k` gets. That in SPLIT path 32 + k of half 1 goes to seat k, and not to the seat of its own number,
is the model's choice (R134; log entry 149). -/
def feedPath (s : State) (half k : Nat) : Nat := if isSplit s ∧ half = 1 then 32 + k else k

/-- The words that the feeder delivers to seat `k` for a COMBINE item (R183). -/
def feedWords (s : State) (i : Item) (nb k : Nat) : List DReg :=
  let secs := itemSections s i
  let path := feedPath s i.half k
  let inHalf := decide (path ∈ halfPaths s i.half)
  let w := (List.range nb).map fun b =>
    match secs.find? fun x => decide (x.beam = b) with
    | some x => if beamWorks s .ul i.half b && inHalf then packCplx (cnth (weightsAt s x i.index) path) else 0
    | none => 0
  let y := (List.range 12).map fun j => if inHalf then packCplx (cnth (ulInput s i path) j) else 0
  (w ++ y).map fun v => { val := v }

/-- Starts an item on a seat: special registers, loop state, PC and queues; registers and memory keep their values (R182). -/
def startSeat (s : State) (i : Item) (nb : Nat) (k : Nat) : State :=
  let n := 64 * i.crew + k
  let t := seatOf s n
  let words := if i.kind = 2 then feedWords (itemView s i) i nb k else []
  let item := i.half * 2 ^ 21 + (if i.dir = .dl then 0 else 2 ^ 20) + i.tag.symbol * 65536 + i.index % 65536
  putSeat s n
    { t with pc := 0, loops := [], inq := words.take 16, feed := words.drop 16, out := [], pushes := 0, outs := 0, leaked := false,
             nb := nb, shf := shiftOf (itemView s i) i.dir i.half, item := item, kind := i.kind, hcnt := 0, running := true, wait := none,
             lastSet := none }

/-- Starts an item on the seats of its kind; the weights that a beamforming item reads are met as they lie (R138). -/
def startItem (s : State) (i : Item) : State :=
  let nb := beamCount s i.dir i.half
  let seats := seatsOf i.kind nb
  let s := if i.kind ≤ 2 then (itemSections s i).foldl checkFormed s else s
  let s := { s with fab := { s.fab with items := s.fab.items.map fun j =>
    if j.id = i.id then { j with running := true, seatsLeft := seats } else j } }
  seats.foldl (fun s k => startSeat s i nb k) s

/-- The estimation item that a crew with spare time starts next (R129, R131). -/
def nextEstimate (s : State) : Option EstItem :=
  s.fab.est.find? fun e => decide (e.symsLeft = 0) && !(s.fab.items.any fun j => decide (j.kind = 5 ∧ j.ref = e.id))

/-- A chunk of class 3 work stands at a crew: the pattern of FABRIC_TEST on every crew, else the run's, on the reserved crew or in spare
time (R47, R131, R151, R154). -/
def chunkWaits (s : State) (crew : Nat) : Bool :=
  let run := (s.cal.run.map fun r => r.captured).getD false
  (decide (s.md.mode = .service) && decide (s.md.full.cfg.test = 1)) ||
    (((decide (crew = 31) && crewReserved s) || !crewReserved s) && run)

/-- The dispatcher of a crew starts its next ready item: class 1 in order, else class 2, else a chunk of class 3 (R130, R131,
R154, R155, R182). -/
def itemDispatchFx (crew : Nat) (s : State) : State :=
  if planeStopped s || !decide (crew < 32) || !unitWorks s (uCrew crew) ||
      (s.fab.items.any fun i => decide (i.crew = crew) && i.running) then s
  else
    match bestOf itemBefore (s.fab.items.filter fun i => decide (i.crew = crew ∧ (i.kind ≤ 4 ∨ i.kind = 6)) && itemReady s i) with
    | some i => startItem s i
    | none =>
      let run (kind half index ref : Nat) (d : Dir) (tag : TimeTag) : State :=
        let i : Item := { id := s.fab.nextItem, crew := crew, kind := kind, half := half, dir := d, tag := tag, index := index,
                          ref := ref, deadline := 0 }
        startItem { s with fab := { s.fab with nextItem := s.fab.nextItem + 1, items := s.fab.items ++ [i] } } i
      match (if decide (crew = 31) && crewReserved s then none else nextEstimate s) with
      | some e => run 5 e.half e.prbStart e.id .ul e.slot
      | none => if chunkWaits s crew then run 7 0 0 0 .dl (tagOfSlot (gridMu s 0) (slotNow s 0) 0) else s

/-- ITEM_DISPATCH. -/
def execItemDispatch (crew : Nat) (s : State) : Out := .next (itemDispatchFx crew s)

/-! END, reduction and timeouts (R178, R180, R184, R185) -/

/-- What a seat leaves in its queues at END of its item: IN and feeder words, and of an EXPONENT item its RIN words (R184). -/
def leftover (t : Seat) : Nat := t.inq.length + t.feed.length + (if t.kind = 3 then t.rin.length else 0)

/-- The words and pushes that a seat's item owes are too few: the item stays open, and the crew meets the fault of R180 (R183, R184). -/
def owes (t : Seat) : Bool := decide ((t.kind = 2 ∧ t.pushes < 12 * t.nb) ∨ (t.kind = 3 ∧ t.outs < 13))

/-- The RIN words that stay for other items after END: an EXPONENT item that ran whole takes twelve; those left of its contract are
discarded. -/
def rinAfter (t : Seat) : List DReg := if t.kind = 3 then [] else t.rin

/-- END: leftovers are discarded and counted; the last seat's END completes the item. An END at handshake 0 of a vendor kernel
stands for the whole kernel, which meets its contract (log entry 36); an EXPONENT kernel that lacks a word of RIN waits for it. -/
def seatEndFx (n : Nat) (s : State) : State :=
  let t := seatOf s n
  let crew := n / 64
  let whole := decide (t.hcnt = 0) && !(decide (t.kind = 2) && customerCrew s crew)
  if !seatRuns s n || (whole && decide (t.kind = 3) && customerCrew s crew && decide (t.rin.length < 12)) then s
  else
    let s := if whole then s else seatProto s n (leftover t)
    let s := putSeat s n ({ t with running := false, loops := [], inq := [], feed := [] }.spend 1 none)
    if !whole && owes t then s
    else
      match s.fab.items.find? fun i => decide (i.crew = crew) && i.running && i.seatsLeft.contains (n % 64) with
      | none => s
      | some i =>
        let i' := { i with seatsLeft := i.seatsLeft.filter fun k => decide (k ≠ n % 64) }
        let s := { s with fab := { s.fab with items := s.fab.items.map fun j => if j.id = i.id then i' else j } }
        if i'.seatsLeft ≠ [] then s
        else
          let s := finishItem s i'
          (seatsOf i.kind t.nb).foldl (fun s k =>
            let u := seatOf s (64 * crew + k)
            putSeat s (64 * crew + k) { u with out := [], rin := rinAfter u }) s

/-- END. -/
def execSeatEnd (seat : SeatFetch) (s : State) : Out := .next (seatStep seat (.seatEnd seat) (seatEndFx seat.n) s)

/-- Delivery of a push of all 64 seats: the exact sum, narrowed by SHIFT_UL, to seat i mod NB (R185). The clamps of a vendor's
COMBINE count with its item (R135), those of the customer's here. -/
def reductionDeliveryFx (crew : Nat) (s : State) : State :=
  let pushed := (List.range 64).filterMap fun k => (seatOf s (64 * crew + k)).red
  match pushed with
  | [] => s
  | p0 :: _ =>
    if pushed.length ≠ 64 ∨ p0.nb = 0 then s
    else
      let n := 64 * crew + p0.index % p0.nb
      if 16 ≤ (seatOf s n).rin.length then s
      else
        let re := narrow (pushed.foldl (fun a p => a + p.re) 0) p0.shf true
        let im := narrow (pushed.foldl (fun a p => a + p.im) 0) p0.shf true
        let w : DReg := { val := ofHalves re.1 im.1, mark := pushed.any fun p => p.mark }
        let s := (List.range 64).foldl (fun s k => putSeat s (64 * crew + k) { seatOf s (64 * crew + k) with red := none }) s
        finc (putSeat s n { seatOf s n with rin := (seatOf s n).rin ++ [w] }) F.fabSatCnt 0 (if customerCrew s crew then re.2 + im.2 else 0)

/-- REDUCTION_DELIVERY. -/
def execReductionDelivery (crew : Nat) (s : State) : Out := .next (reductionDeliveryFx crew s)

/-- A crew is muted: its uncompleted items are lost. Beamforming PRBs are output as zero; formation and estimation go to another
crew (R157, R159; log entry 37). -/
def loseItems (s : State) (crew : Nat) : State :=
  let mine := s.fab.items.filter fun i => decide (i.crew = crew)
  let s := { s with fab := { s.fab with items := s.fab.items.filter fun i => decide (i.crew ≠ crew) } }
  let s := (List.range 64).foldl (fun s k =>
    let t := seatOf s (64 * crew + k)
    putSeat s (64 * crew + k) { t with running := false, wait := none, inq := [], feed := [], rin := [], out := [], red := none }) s
  mine.foldl (fun s i =>
    if i.kind = 1 ∨ i.kind = 2 then noteFinished (zeroPrb s i.dir i.half i.tag i.index crew) i
    else if i.kind = 3 then
      if mine.any fun j => decide (j.kind = 2 ∧ j.half = i.half ∧ j.tag = i.tag ∧ j.index = i.index) then noteFinished s i
      else
        let rest := s.fab.ulOut.filter fun d => !decide (d.half = i.half ∧ d.tag = i.tag ∧ d.prb = i.index)
        noteFinished (zeroPrb { s with fab := { s.fab with ulOut := rest } } i.dir i.half i.tag i.index crew) i
    else if i.kind = 4 then (match formTarget s i with | some x => addForm s x | none => s)
    else if i.kind = 6 then
      let rest := s.fab.ulOut.filter fun d => !decide (d.half = i.half ∧ d.tag = i.tag ∧ d.prb = i.index)
      zeroPrb { s with fab := { s.fab with ulOut := rest } } i.dir i.half i.tag i.index crew
    else s) s

/-- A fault of a crew: muted at once (R158, R159). -/
def crewMutes (s : State) (crew fault : Nat) : State := loseItems (hwFault s (uCrew crew) fault) crew

/-- A handshake of the crew is pending: a seat waits, or the network waits for a push. -/
def handshakePending (s : State) (crew : Nat) : Bool :=
  ((List.range 64).any fun k => let t := seatOf s (64 * crew + k); t.wait.isSome || t.red.isSome || t.running) ||
    s.fab.items.any fun i => decide (i.crew = crew) && i.running

/-! Cuts and slack (R143 to R145) -/

/-- T_s in stream ticks, rounded down (R145). -/
def tsTicks (s : State) (half : Nat) : Nat := nth 0 [8777, 4388, 2194, 1097] (gridMu s half)

/-- Place of a direction and half in the slack minima: DL0, UL0, DL1, UL1. -/
def slackKey (d : Dir) (half : Nat) : Nat := 2 * half + (if d = .dl then 0 else 1)

/-- Records the slack of a symbol in ticks for the round. -/
def noteSlack (s : State) (d : Dir) (half : Nat) (ticks : Nat) : State :=
  let k := slackKey d half
  let v := match nth none s.fab.slackMin k with
    | none => ticks
    | some m => min m ticks
  { s with fab := { s.fab with slackMin := put s.fab.slackMin k (some v) } }

/-- Stream ticks in a span of 2⁻¹⁶ ns, rounded down: 122.88 per µs. -/
def ticksOf (x : Int) : Nat := (x * 12288 / (100000 * fp : Nat)).toNat

/-- Paths that a cut affects (R143). -/
def cutPaths (s : State) (d : Dir) (half : Nat) : List Nat :=
  (halfPaths s half).filter fun p => match d with
    | .dl => !absentTx s p
    | .ul => rxWorks s p

/-- Adds one to the counts of paths. -/
def bumpPaths (t : Tbl Nat) (paths : List Nat) : Tbl Nat := paths.foldl (fun t p => tmod 0 t p fun c => satN 32 (c + 1)) t

/-- Data of one symbol in a bank. -/
def PrbData.isOf (half : Nat) (tag : TimeTag) (d : PrbData) : Bool := decide (d.half = half ∧ d.tag = tag)

/-- A downlink cut: the symbol before is transmitted again (R143). -/
def cutDl (s : State) (half : Nat) (tag : TimeTag) : State :=
  let paths := cutPaths s .dl half
  let again := (s.fab.dlOut.filter (PrbData.isOf half (prevTag s half tag))).map fun d => { d with tag := tag }
  let rest := s.fab.dlOut.filter fun d => !d.isOf half tag
  finc { s with fab := { s.fab with dlOut := rest ++ again, dlRepeat := bumpPaths s.fab.dlRepeat paths } } F.dlRepeatCnt 0 paths.length

/-- An uplink cut: nothing of the symbol is sent (R143). -/
def cutUl (s : State) (half : Nat) (tag : TimeTag) : State :=
  let paths := cutPaths s .ul half
  let rest := s.fab.ulOut.filter fun d => !d.isOf half tag
  finc { s with fab := { s.fab with ulOut := rest, ulDrop := bumpPaths s.fab.ulDrop paths } } F.ulDropCnt 0 paths.length

/-- A cut: what it repeats or drops, its counters and CB_SLIP (R143, R144). -/
def cutSymbol (s : State) (d : Dir) (half : Nat) (tag : TimeTag) : State :=
  let s := match d with
    | .dl => cutDl s half tag
    | .ul => cutUl s half tag
  let s := fset { s with fab := { s.fab with cutInRound := true } } F.fabEventSlip 0 1
  let dn : Nat := if d = .dl then 0 else 1
  raise s 0x20 dn [(tagBits { tag with symbol := 0 } : Nat), (tag.symbol : Nat), (dn : Nat), (half : Nat)]

/-- The seats of a crew drop an item that a cut abandons. -/
def dropRun (s : State) (crew : Nat) : State :=
  (List.range 64).foldl (fun s k =>
    let t := seatOf s (64 * crew + k)
    putSeat s (64 * crew + k) { t with running := false, wait := none, loops := [], inq := [], feed := [], out := [] }) s

/-- The pushes and RIN words of a crew belong to COMBINE and EXPONENT items that a cut abandons: they go with them (R143, R183, R185). -/
def dropSums (s : State) (crew : Nat) : State :=
  (List.range 64).foldl (fun s k =>
    putSeat s (64 * crew + k) { seatOf s (64 * crew + k) with rin := [], red := none }) s

/-- H_j: unfinished class 1 items of the symbol are abandoned, and its slack is recorded (R143, R145). -/
def symbolCutFx (d : Dir) (half : Nat) (tag : TimeTag) (s : State) : State :=
  match s.fab.symbols.find? fun r => decide (r.dir = d ∧ r.half = half ∧ r.tag = tag) with
  | none => s
  | some r =>
    if r.cut then s
    else
    -- `cut` marks a symbol whose H_j has passed with its data still to be sent
    let lost := s.fab.items.filter fun i => decide (i.kind ≤ 4 ∧ i.dir = d ∧ i.half = half ∧ i.tag = tag)
    let s := { s with fab := { s.fab with items := s.fab.items.filter fun i => !lost.contains i } }
    let s := ((lost.filter fun i => i.running).map fun i => i.crew).foldl dropRun s
    let s := (((lost.filter fun i => decide (i.kind = 2 ∨ i.kind = 3)).map fun i => i.crew).eraseDups).foldl dropSums s
    let unfinished := lost.any fun i => decide (i.kind ≤ 3)
    let s :=
      if unfinished then noteSlack (cutSymbol s d half tag) d half 0
      else noteSlack s d half (ticksOf (cutOf s d half tag - r.finished.getD (cutOf s d half tag)))
    let gone := decide (d = .dl) || r.sent || unfinished
    let isIt (q : SymbolRun) : Bool := decide (q.dir = d ∧ q.half = half ∧ q.tag = tag)
    let left := if gone then s.fab.symbols.filter fun q => !isIt q
      else s.fab.symbols.map fun q => if isIt q then { q with cut := true } else q
    { s with fab := { s.fab with symbols := left } }

/-- SYMBOL_CUT. -/
def execSymbolCut (dir : Dir) (half : Nat) (tag : TimeTag) (s : State) : Out := .next (symbolCutFx dir half tag s)

/-! Crew loads (R151, R152, R187, R188, R191, R192) -/

/-- The mode that is being prepared, else the mode in force, as the fabric sees it. -/
def loadMode (s : State) : Mode :=
  match s.md.prep with
  | some p => effOf p.target p.full.cfg
  | none => effMode s

/-- LENGTH of a kernel image (R189). -/
def KernelImage.length (k : KernelImage) : Nat := getBits (nth 0 k.words 1) 0 8

/-- The largest customer combiner of a mode (R192). -/
def kernelLimit (m : Mode) : Nat :=
  match m with
  | .listen => 124
  | .dense => 96
  | .chain => 46
  | _ => 64

/-- Kernels of a crew in a mode in ascending KIND: KIND and words (R192). -/
def crewKinds (m : Mode) (crew combine : Nat) : List (Nat × Nat) :=
  if decide (crew = 31) && decide (m = .listen ∨ m = .dense) then [(7, 32)]
  else
    (if m = .listen then [] else [(1, 28)]) ++ [(2, combine), (3, 16), (4, 72), (5, 44)] ++
      (if m = .chain then [(6, 18)] else []) ++ (if m = .wide ∨ m = .split ∨ m = .chain then [(7, 32)] else [])

/-- Kernels packed from offset 0: KIND, base and words. -/
def packKinds : Nat → List (Nat × Nat) → List (Nat × Nat × Nat)
  | _, [] => []
  | base, (k, n) :: t => (k, base, n) :: packKinds (base + n) t

/-- The 256 program words of a crew: its kernels from offset 0 in ascending KIND, every unused word 0 (R187). -/
def progWords (kinds : List (Nat × Nat × Nat)) (customer : Option KernelImage) : List Word :=
  let of (k : Nat × Nat × Nat) : List Word :=
    match (if k.1 = 2 then customer else none) with
    | some img => img.words.drop 4
    | none => (List.range k.2.2).map (Config.vendorWord k.1)
  let l := kinds.flatMap of
  l ++ List.replicate (256 - l.length) 0

/-- Words of vendor COMBINE. -/
def vendorCombine : Nat := 24

/-- Loads one crew: its seats are cleared, its 256 program words written, and the CRC-32 that its seats' are compared with computed;
the seats whose CRC differs (an operand: what they hold is the hardware's) mute the crew (R187, R188). A customer's combiner that was
installed during the preparation and exceeds the mode's limit is not loaded (R192; log entry 175). -/
def loadCrew (s : State) (crew : Nat) (badSeats : List Nat) : State :=
  let m := loadMode s
  let own := (storedKernel s).filter fun k => decide (KernelImage.length k ≤ kernelLimit m)
  let s := if kernelKept s && (storedKernel s).isNone && s.fab.loads.isEmpty then raise s 0x007 0 [(3 : Int)] else s
  let kinds := packKinds 0 (crewKinds m crew ((own.map KernelImage.length).getD vendorCombine))
  let customer := if kinds.any fun k => decide (k.1 = 2) then own else none
  let prog := progWords kinds customer
  let s := { s with fab := { s.fab with
      loads := tset {} s.fab.loads crew
        { kinds := kinds, customer := customer, prog := prog, crc := crc32 (prog.flatMap fun w => beBytes 4 w.toNat) },
      seats := s.fab.seats.filter fun e => decide (e.1 / 64 ≠ crew),
      items := s.fab.items.filter fun i => decide (i.crew ≠ crew) } }
  if badSeats = [] then s
  else raise (setUnit (setMute (fset s F.fabEventFault 0 1) (uCrew crew) true) (uCrew crew) 2) 0x23 (uCrew crew)
    [5, (crew : Int), 0x0B]

/-- CREW_LOAD: during the preparation of a mode that the Eight runs, once its source has stopped. -/
def crewLoadFx (crew : Nat) (badSeats : List Nat) (s : State) : State :=
  match s.md.prep with
  | some p =>
    if decide (crew < 32) && activeMode p.target && !p.ready && (p.stopped || !activeMode s.md.mode) then loadCrew s crew badSeats
    else s
  | none => s

/-- CREW_LOAD. -/
def execCrewLoad (crew : Nat) (badSeats : List Nat) (s : State) : Out := .next (crewLoadFx crew badSeats s)

end Sys2Proof.Machine
end

