-- ==== Sys2Proof/Machine/Crews.lean ====
section
/-! DEFINITION. Crew faults, and what the loss of crew 31 does to the runs that it serves (R47, R154, R158, R180, R309). -/

namespace Sys2Proof.Machine

/-- A run of LISTEN or DENSE ends INTERRUPTED when crew 31 is muted or faulted; while Cox restarts the restart has interrupted it, and
it is counted when Cox resumes (R309). -/
def crewRun (s : State) : State := if trainerHeld s && coxRuns s then interruptRun s else s

/-- HANDSHAKE_TIMEOUT (R180). -/
def execHandshakeTimeout (crew : Nat) (s : State) : Out :=
  .next (if decide (crew < 32) && unitWorks s (uCrew crew) && handshakePending s crew then crewRun (crewMutes s crew 0x08) else s)

/-- A fault that a crew can meet: an uncorrectable program read, a parity error of the network (R158), or the test pattern of
SERVICE (R47). -/
def crewFaultOk (s : State) (fault : Nat) : Bool :=
  decide (fault = 0x09 ∨ fault = 0x0A ∨ (fault = 0x0D ∧ s.md.mode = .service ∧ s.md.full.cfg.test = 1))

/-- CREW_FAULT. -/
def execCrewFault (crew fault : Nat) (s : State) : Out :=
  .next (if decide (crew < 32) && crewFaultOk s fault && !muted s (uCrew crew) then crewRun (crewMutes s crew fault) else s)

end Sys2Proof.Machine
end

