-- ==== Sys2Proof/Machine/Time.lean ====
section
/-! DEFINITION. Time: the counter and its advance, time steps, the servo and its states, PTP, 1PPS and chain timing (R395 to
R424). Times are in 2⁻¹⁶ ns. -/

namespace Sys2Proof.Machine

/-! Time states (R409) -/

def tsUnset : Nat := 0
def tsAcquiring : Nat := 1
def tsLocked : Nat := 2
def tsHoldover : Nat := 3
def tsStepPending : Nat := 4
def tsFree : Nat := 5

/-- Sources (R402). -/
def srcPtp : Nat := 0
def srcPps : Nat := 1
def srcFree : Nat := 2
def srcChainUp : Nat := 3

def timeState (s : State) : Nat := fget s F.timeStatusState
def syncSrc (s : State) : Nat := fget s F.timeCfgSyncSrc

/-- A time in 2⁻¹⁶ ns as whole nanoseconds, to the nearest. -/
def nsOf (t : Int) : Int := roundDiv t fp

/-- Changes the time state: TIME_STATE on each change, and what entering LOCKED and HOLDOVER leaves (R411, R422, R423). -/
def setTimeState (s : State) (st : Nat) : State :=
  if timeState s = st then s
  else
    let s := fset s F.timeStatusState 0 st
    let s := whenS (decide (st = tsLocked)) s fun s => fset s F.timeEventLocked 0 1
    let s := whenS (decide (st = tsHoldover)) s fun s => fset (finc s F.holdoverCnt) F.timeEventHoldover 0 1
    raise s 0x60 0 [(st : Int)]

/-- Clears the runs of R410 and R412. -/
def clearRuns (s : State) : State :=
  { s with tm := { s.tm with runIn := 0, runOut := 0, cand := 0, runThresh := 0 } }

/-- HOLDOVER, which a device whose time was never set does not enter (R402, R411). A refused step lapses. -/
def enterHoldover (s : State) : State :=
  if timeState s = tsUnset ∨ timeState s = tsHoldover then s else setTimeState (clearRuns s) tsHoldover

/-! Steps (R413, R414) -/

/-- The counter wraps with its 48 bits of seconds (R396). -/
def counterSpan : Nat := 2 ^ 48 * 1000000000 * fp

/-- Steps the counter, with the TIME_STEP event and the state that the step leads to: HOLDOVER while the reference PLL is out of lock
(R413, R415). -/
def stepCounter (s : State) (d : Int) (dst : Option Nat) : State :=
  let c := ((s.tm.counter : Int) + d).toNat % counterSpan
  let s := { s with tm := { s.tm with counter := c, recent := [], step := none } }
  let s := fset s F.timeEventStepApplied 0 1
  let ns := nsOf d
  let s := raise s 0x62 0 [ns / 1000000000, ns % 1000000000]
  match dst with
  | some st => setTimeState (clearRuns s) (if s.pw.refPll then st else tsHoldover)
  | none => s

/-- A step under R414: at once in BOOT, STANDBY and DORMANT; else at the next stroke. -/
def decideStep (s : State) (d : Int) (dst : Option Nat) (op : Option LongOp) : State :=
  if s.md.mode = .boot ∨ s.md.mode = .standby ∨ s.md.mode = .dormant then
    let s := stepCounter s d dst
    match op with
    | some o => complete s o stOk 0 []
    | none => s
  else { s with tm := { s.tm with step := some (d, dst, op) } }

/-- A step is being applied: decided, or the data plane has not yet resumed (R414). -/
def stepping (s : State) : Bool := s.tm.step.isSome || s.md.stepStop.isSome

/-- At the stroke of half 0 the data plane stops, muted, and the counter is stepped (R414). The catch buffers are cleared. -/
def stepAtStroke (s : State) : State :=
  match s.tm.step with
  | none => s
  | some (d, dst, op) =>
    let s := quietTx (stepCounter s d dst) (List.range 64)
    { s with md := { s.md with stepStop := some (ceilDiv s.tm.counter fp + 2000000) },
             tm := { s.tm with stepDone := op },
             fh := { s.fh with dlData := [], waits := [], taken := [], sections := [], partials := [], accs := [] },
             fab := { s.fab with ulIn := [], dlOut := [], ulOut := [], loopIn := [], items := [], symbols := [], formed := [],
                                 mismatch := [] } }

/-- At the first stroke at least 2 ms after the step the data plane resumes, and a command's step is in force (R414). -/
def resumeAtStroke (s : State) : State :=
  match s.md.stepStop with
  | none => s
  | some t =>
    if s.tm.counter / fp < t then s
    else
      let s' := { s with md := { s.md with stepStop := none }, tm := { s.tm with stepDone := none } }
      match s.tm.stepDone with
      | some o => complete s' o stOk 0 []
      | none => s'

/-! The servo (R410 to R412, R420, R421) -/

/-- Cox steers: it runs, the reference PLL is in lock, and the device is not in DORMANT (R411, R415). -/
def servoRuns (s : State) : Bool :=
  coxRuns s && s.pw.refPll && decide (s.pw.power = .on ∨ s.pw.power = .starting) && !decide (s.md.mode = .dormant)

/-- Moves `y` by a free amount within FREQ_SLEW over the time since the last measurement (R395, R410). -/
def steer (s : State) (elapsed : Nat) : State :=
  let (n, s) := drawFree s
  let b : Int := ((s.tm.freqSlew * 1000 * elapsed / tickRate : Nat) : Int)
  { s with tm := { s.tm with y := clampI (-50000000) 50000000 (s.tm.y + clampI (-b) b (signed 64 n)) } }

/-- `y` from the frequency offset of the first two measurements (R410). -/
def firstFreq (s : State) (off : Int) (elapsed : Nat) : State :=
  let dt : Nat := elapsed * 1600000 / 3
  let y := if dt = 0 then s.tm.y else s.tm.y - off * 1000000000000 / (dt : Int)
  { s with tm := { s.tm with y := clampI (-50000000) 50000000 y, firstMeas := false } }

/-- Chain alignment after a measurement (R420). -/
def align (s : State) (off : Int) (mpd : Option Int) : State :=
  let tol : Int := ((fget s F.auxTimeCfgAlignTol * fp : Nat) : Int)
  let within := decide (-tol ≤ off ∧ off ≤ tol) && (match mpd with | some d => decide (d ≤ (500 * fp : Nat)) | none => false)
  let was := decide (fget s F.timeStatusChainAligned = 1)
  let i := if within then s.tm.alignIn + 1 else 0
  let o := if within then 0 else s.tm.alignOut + 1
  let s := { s with tm := { s.tm with alignIn := i, alignOut := o } }
  if !was && decide (16 ≤ i) then endEpisode (fset s F.timeStatusChainAligned 0 1) 0x64 0
  else if was && decide (4 ≤ o) then
    let s := fset s F.timeStatusChainAligned 0 0
    whenS (inChain s) s fun s =>
      raiseEpisode (fset s F.timeEventChainUnaligned 0 1) 0x64 0 [clampI (-2147483647) 2147483647 (nsOf off)]
  else s

/-- What R412 makes of a step candidate, which breaks a run within LOCK_TOL (R410; log entry 87). -/
def candidate (s : State) (off : Int) : State :=
  let s := { s with tm := { s.tm with runIn := 0 } }
  if syncSrc s = srcChainUp then
    decideStep { s with tm := { s.tm with cand := 0, runIn := 0, runOut := 0 } } (-off)
      (if timeState s = tsHoldover then some tsAcquiring else none) none
  else if timeState s = tsStepPending then { s with tm := { s.tm with runThresh := 0 } }
  else
    let s := { s with tm := { s.tm with cand := s.tm.cand + 1 } }
    if fget s F.stepCfgStepPersist ≤ s.tm.cand then
      let s := setTimeState (clearRuns s) tsStepPending
      let s := fset (finc s F.stepRefuseCnt) F.timeEventStepRefused 0 1
      raise s 0x61 0 [clampI (-2147483647) 2147483647 (nsOf off)]
    else s

/-- What R410 makes of a measurement within STEP_THRESH. In HOLDOVER `y` has stayed, so no time to move it in has passed (R411). -/
def trackOffset (s : State) (off : Int) (elapsed : Nat) : State :=
  if timeState s = tsStepPending then
    let s := { s with tm := { s.tm with runThresh := s.tm.runThresh + 1 } }
    if 16 ≤ s.tm.runThresh then setTimeState (clearRuns s) tsAcquiring else s
  else
    let elapsed := if timeState s = tsHoldover then 0 else elapsed
    let s := { s with tm := { s.tm with cand := 0 } }
    let s := if timeState s = tsHoldover then setTimeState (clearRuns s) tsAcquiring else s
    let s := if s.tm.firstMeas then firstFreq s off elapsed else steer s elapsed
    let tol : Int := ((fget s F.stepCfgLockTol * fp : Nat) : Int)
    if -tol ≤ off ∧ off ≤ tol then
      let s := { s with tm := { s.tm with runIn := s.tm.runIn + 1, runOut := 0 } }
      if timeState s = tsAcquiring ∧ 16 ≤ s.tm.runIn then setTimeState s tsLocked else s
    else
      let s := { s with tm := { s.tm with runIn := 0, runOut := s.tm.runOut + 1 } }
      if timeState s = tsLocked ∧ 4 ≤ s.tm.runOut then setTimeState s tsAcquiring else s

/-- One valid measurement of the source: the offset and, for PTP, the mean path delay. -/
def measure (s : State) (off : Int) (mpd : Option Int) : State :=
  if !servoRuns s then s
  else
    let elapsed := match s.tm.lastMeas with | some t => s.tm.now - t | none => 0
    let s := { s with tm := { s.tm with lastMeas := some s.tm.now, offset := off } }
    let s := fsetI s F.timeOffset 0 (nsOf off)
    let s := match mpd with
      | some d => fsetI { s with tm := { s.tm with pathDelay := d } } F.pathDelay 0 (nsOf d)
      | none => s
    let s := whenS (decide (syncSrc s = srcChainUp)) s fun s => align s off mpd
    if stepping s then s
    else if timeState s = tsUnset then
      decideStep { s with tm := { s.tm with firstMeas := true } } (-off) (some tsAcquiring) none
    else
      let thresh : Int := ((fget s F.stepCfgStepThresh * fp : Nat) : Int)
      if off < -thresh ∨ thresh < off then
        candidate (if s.tm.firstMeas then firstFreq s off elapsed else s) off
      else trackOffset s off elapsed

/-- Median of a list of at least one element: the middle one, or the mean of the middle two. -/
def medianI (l : List Int) : Int :=
  let t := sortBy (fun a b => decide (a ≤ b)) l
  (nth 0 t ((t.length - 1) / 2) + nth 0 t (t.length / 2)) / 2

/-- A measurement that R407 discards as an outlier against the last 8. -/
def outlier (l : List Int) (x : Int) : Bool :=
  if l.length < 8 then false
  else
    let m := medianI l
    let mad := medianI (l.map fun v => ((v - m).natAbs : Int))
    let d : Int := ((x - m).natAbs : Int)
    decide (4 * mad < d) && decide (((50 * fp : Nat) : Int) < d)

/-! PTP (R403 to R407, R419) -/

/-- TX and RX corrections of a port in ns (R406). -/
def ptpCorr (s : State) (port : Nat) : Nat × Nat :=
  let c := s.fh.portConfig
  if c = 0 then (118, 236) else if c = 1 then (124, 248)
  else if c ≤ 4 then (131, 262)
  else if ofHalf s.fh.fec port = 0 then (61, 74) else (142, 295)

/-- The port on which the device is a PTP slave: port A, or the upstream-facing port of the chain, before CHAIN port B (R87, R403,
R419). -/
def slavePort (s : State) : Nat := if syncSrc s = srcChainUp then (if inChain s then upPort s else 1) else 0

/-- The port on which a module serves chain timing, its downstream-facing one: port A of a member, else port B. Before CHAIN a module
that takes its time from the chain is a member (R87, R419). -/
def masterPort (s : State) : Nat :=
  if memberRole s || (!inChain s && decide (syncSrc s = srcChainUp)) then 0 else 1

/-- The lane of PTP frames on a port: its lowest (R405, R419). -/
def ptpLane (s : State) (port : Nat) : Nat := ((portLanes s.fh.portConfig port).head?).getD 0

/-- The destination of PTP frames: on a chain link 01-80-C2-00-00-0E, else as MCAST (R403, R419). -/
def ptpDst (s : State) (port : Nat) : Nat :=
  if syncSrc s = srcPtp ∧ port = slavePort s ∧ fget s F.timeCfgMcast = 0 then 0x011B19000000 else 0x0180C200000E

/-- A PTP frame on a lane that carries none, to another destination, or of another domain (R403 to R405, R419; log entry 181). -/
def ptpStray (s : State) (m : PtpMsg) : Bool :=
  decide (m.dst ≠ ptpDst s m.port) || (decide (2 ≤ s.fh.portConfig) && decide (m.lane ≠ ptpLane s m.port)) || decide (m.domain ≠ fget s F.timeCfgDomain)

def ptpDrop (s : State) : State := finc s F.ptpDropCnt

/-- The device is a PTP slave on a port. -/
def slaveOn (s : State) (port : Nat) : Bool :=
  (decide (syncSrc s = srcPtp) || decide (syncSrc s = srcChainUp)) && decide (port = slavePort s)

/-- Forgets the exchange with a master. -/
def clearExchange (s : State) : State :=
  { s with tm := { s.tm with recent := [], syncDelta := none, delayDelta := none, t3 := none } }

/-- A message of the master the slave follows: the selected one, or, on a chain, the neighbour. -/
def fromMaster (s : State) (m : PtpMsg) : Bool :=
  decide (syncSrc s = srcChainUp) || decide (s.tm.selected = some m.source)

/-- The receive stamp referred to the balls (R406). -/
def rxCorrected (s : State) (m : PtpMsg) : Int := m.rxStamp - (((ptpCorr s m.port).2 * fp : Nat) : Int)

/-- The delayAsymmetry of the slave port in 2⁻¹⁶ ns (R407, R419). -/
def asym (s : State) : Int :=
  (if syncSrc s = srcChainUp then fgetI s F.ptpAsymAsymB else fgetI s F.ptpAsymAsymA) * (fp : Int)

/-- Syncs accepted within the last second. -/
def recentSyncs (s : State) : List Nat := s.tm.syncTimes.filter fun t => decide (s.tm.now < t + tickRate)

/-- A Sync of the master: its measurement with the latest Delay_Req exchange (R407). -/
def syncMeasure (s : State) (d : Int) : State :=
  let s := { s with tm := { s.tm with syncDelta := some d } }
  match s.tm.delayDelta with
  | none => s
  | some r =>
    let mpd := (d + r) / 2
    let off := d - mpd - asym s
    let bad := outlier s.tm.recent off
    let s := { s with tm := { s.tm with recent := (off :: s.tm.recent).take 8 } }
    if bad then s else measure s off (some mpd)

/-- SYNC_MESSAGE (R404 to R407). -/
def execSyncMessage (m : PtpMsg) (s : State) : Out := .next (
  if !slaveOn s m.port then s
  else if m.twoStep || ptpStray s m then ptpDrop s
  else if 128 ≤ (recentSyncs s).length then ptpDrop s
  else
    let s := { s with tm := { s.tm with syncTimes := s.tm.now :: recentSyncs s } }
    if fromMaster s m then syncMeasure s (rxCorrected s m - m.stamp - m.correction) else s)

/-- Puts a master's dataset into the list of those heard. -/
def putMaster (l : List Master) (m : Master) : List Master := m :: l.filter fun x => !decide (x.source = m.source)

/-- The better of two datasets; between equals the lower port identity. -/
def betterMaster (a b : Master) : Master :=
  if b.dataset < a.dataset ∨ (b.dataset = a.dataset ∧ b.source < a.source) then b else a

/-- The best master heard (R403). -/
def bestMaster : List Master → Option Nat
  | [] => none
  | m :: t => some (t.foldl betterMaster m).source

/-- Selects the best master; a change starts its exchange anew. -/
def selectMaster (s : State) : State :=
  let b := bestMaster s.tm.masters
  if s.tm.selected = b then s else clearExchange { s with tm := { s.tm with selected := b } }

/-- ANNOUNCE (R403, R404). -/
def execAnnounce (m : PtpMsg) (s : State) : Out := .next (
  if syncSrc s ≠ srcPtp ∨ m.port ≠ 0 then s
  else if ptpStray s m then ptpDrop s
  else selectMaster { s with tm := { s.tm with masters := putMaster s.tm.masters { source := m.source, dataset := m.dataset } } })

/-- SELECTED_MASTER_LOST (R411): HOLDOVER, and the next best master is selected. -/
def execSelectedMasterLost (s : State) : Out := .next (
  match s.tm.selected with
  | none => s
  | some m =>
    let s := { s with tm := { s.tm with masters := s.tm.masters.filter fun x => !decide (x.source = m) } }
    let s := selectMaster s
    if syncSrc s = srcPtp then enterHoldover s else s)

/-- DELAY_RESP (R404, R407). One that answers another slave is none of the device's (log entry 181). -/
def execDelayResp (m : PtpMsg) (s : State) : Out := .next (
  if !slaveOn s m.port then s
  else if ptpStray s m then ptpDrop s
  else if !fromMaster s m || !m.toDevice then s
  else
    let s := { s with tm := { s.tm with delayLog := some (clampI (-7) 0 m.logInterval) } }
    match s.tm.t3 with
    | none => s
    | some t3 => { s with tm := { s.tm with delayDelta := some (m.stamp - t3 - m.correction), t3 := none } })

/-- The domains that send PTP run. -/
def ptpRuns (s : State) : Bool :=
  decide (s.pw.power = .on ∨ s.pw.power = .starting) && !decide (s.md.mode = .dormant)

/-- A PTP message finds its place in the egress buffer (R26). -/
def ptpFits (s : State) (k : PtpKind) : Bool := decide (egressUsed s + (18 + (if k = .delayResp then 54 else 44)) ≤ 1048576)

/-- Sends a PTP message with a one-step stamp (R406, R407); one that finds the egress buffer full is not sent (R26; log entry 147). -/
def sendPtp (s : State) (port : Nat) (k : PtpKind) (stamp corr : Int) (requester : Nat := 0) : State :=
  if !ptpFits s k then s
  else
    { s with tm := { s.tm with ptpOut := s.tm.ptpOut ++
        [{ port := port, lane := ptpLane s port, kind := k, dst := ptpDst s port, domain := fget s F.timeCfgDomain, stamp := stamp,
           correction := corr, requester := requester }] } }

/-- The transmit stamp referred to the balls (R406). -/
def txCorrected (s : State) (port : Nat) (t : Int) : Int := t + (((ptpCorr s port).1 * fp : Nat) : Int)

/-- DELAY_REQ_SEND (R404, R406, R407). -/
def execDelayReqSend (txStamp : Int) (s : State) : Out := .next (
  let following := decide (syncSrc s = srcChainUp) || (decide (syncSrc s = srcPtp) && s.tm.selected.isSome)
  if !following || !ptpRuns s || !coxRuns s then s
  else
    let t3 := txCorrected s (slavePort s) txStamp
    sendPtp { s with tm := { s.tm with t3 := some t3 } } (slavePort s) .delayReq (t3 / (fp : Int)) (t3 % (fp : Int)))

/-- CHAIN_SYNC_SEND (R407, R419). -/
def execChainSyncSend (txStamp : Int) (s : State) : Out := .next (
  if fget s F.timeCfgChainServe = 0 ∨ !ptpRuns s then s
  else
    let t := txCorrected s (masterPort s) txStamp
    sendPtp s (masterPort s) .sync (t / (fp : Int)) (t % (fp : Int)))

/-- DELAY_REQ (R406, R419): answered with the corrected receive stamp. -/
def execDelayReq (m : PtpMsg) (s : State) : Out := .next (
  if fget s F.timeCfgChainServe = 0 ∨ m.port ≠ masterPort s ∨ !ptpRuns s then s
  else if ptpStray s m then ptpDrop s
  else
    let t := rxCorrected s m
    sendPtp s m.port .delayResp (t / (fp : Int)) (m.correction - t % (fp : Int)) m.source)

/-- SYNC_TIMEOUT (R411). -/
def execSyncTimeout (s : State) : Out := .next (
  let span := fget s F.timeCfgSyncTimeout * (tickRate / 10)
  let silent := match s.tm.lastMeas with
    | some t => decide (t + span ≤ s.tm.now)
    | none => true
  if silent && decide (timeState s = tsAcquiring ∨ timeState s = tsLocked ∨ timeState s = tsStepPending)
  then enterHoldover s else s)

/-! 1PPS (R416, R417) -/

/-- Distance of a stamp from the nearest second boundary. -/
def secondOffset (t : Int) : Int :=
  let sec : Int := ((1000000000 * fp : Nat) : Int)
  let r := t % sec
  if 2 * r < sec then r else r - sec

/-- PPS_LOST of R416, once per episode. -/
def ppsLostNow (s : State) : State :=
  if inEpisode s 0x63 0 then s else raiseEpisode (fset s F.timeEventPpsLost 0 1) 0x63 0 []

/-- An edge that a waiting TIME_SET takes is a measurement too, but of a device whose time was never set, which the command sets; while a
step is being applied the command waits for the next edge (R413, R414, R416; log entry 184). -/
def ppsSet (s : State) (stamp : Int) (x : Nat × LongOp) : State :=
  let unset := decide (timeState s = tsUnset)
  let s := if unset then { s with tm := { s.tm with lastMeas := some s.tm.now, firstMeas := true } }
    else measure s (secondOffset stamp) none
  if stepping s then s
  else
    decideStep { s with tm := { s.tm with setAtPps := none } } (((x.1 % 2 ^ 48 * 1000000000 * fp : Nat) : Int) - stamp)
      (if unset then some tsAcquiring else none) (some x.2)

/-- PPS_IN_EDGE (R413, R416). -/
def execPpsInEdge (s : State) : Out := .next (
  if s.pw.power = .off ∨ s.md.mode = .dormant then s
  else
    let stamp : Int := (s.tm.counter : Int) - ((fget s F.auxTimeCfgPpsInDelay * fp : Nat) : Int)
    let s := fset s F.ppsInNs 0 (stamp / (fp : Int) % 1000000000).toNat
    let s := { s with tm := { s.tm with ppsSeen := some s.tm.now } }
    let gap := match s.tm.ppsLast with | some t => s.tm.now - t | none => tickRate
    if syncSrc s ≠ srcPps then { s with tm := { s.tm with ppsLast := some s.tm.now } }
    else if gap < tickRate / 10 * 9 then ptpDrop s
    else
      let s := whenS (decide (tickRate / 10 * 11 < gap)) s ppsLostNow
      let s := endEpisode { s with tm := { s.tm with ppsLast := some s.tm.now } } 0x63 0
      match s.tm.setAtPps with
      | some x => ppsSet s stamp x
      | none => measure s (secondOffset stamp) none)

/-- PPS_LOST (R416). -/
def execPpsLost (s : State) : Out := .next (
  match s.tm.ppsLast with
  | some t => if syncSrc s = srcPps ∧ t + tickRate / 10 * 11 ≤ s.tm.now then ppsLostNow s else s
  | none => s)

/-- PPS_OUT pulses in the present state (R417). -/
def ppsPulses (s : State) : Bool :=
  let t := timeState s
  !decide (s.md.mode = .dormant) && decide (s.pw.power = .on ∨ s.pw.power = .starting) && decide (fget s F.ppsCfgOutEn = 1) &&
    (decide (t = tsAcquiring ∨ t = tsLocked ∨ t = tsFree) ||
     (decide (t = tsHoldover ∨ t = tsStepPending) && decide (fget s F.ppsCfgOutHold = 1)))

/-- The counter is within 5 ns of a second boundary plus OUT_OFFSET (R417). -/
def ppsInstant (s : State) : Bool :=
  let d := secondOffset ((s.tm.counter : Int) - fgetI s F.ppsCfgOutOffset * (fp : Int))
  decide (-((5 * fp : Nat) : Int) ≤ d ∧ d ≤ ((5 * fp : Nat) : Int))

/-- PPS_OUT_PULSE (R417). -/
def execPpsOutPulse (s : State) : Out := .next (
  if ppsPulses s && ppsInstant s then
    { s with tm := { s.tm with ppsOut := true, ppsFall := s.tm.now + fget s F.ppsCfgWidthMs * (tickRate / 1000) } }
  else s)

/-- A change of SYNC_SRC (R402): HOLDOVER, or UNSET stays; what the old source gave is forgotten. Alignment is lost with it, which in
CHAIN raises CHAIN_UNALIGNED (R420; log entry 183). -/
def syncSrcChanged (s : State) : State :=
  let s := whenS (inChain s && decide (fget s F.timeStatusChainAligned = 1)) s fun s =>
    raiseEpisode (fset s F.timeEventChainUnaligned 0 1) 0x64 0 [clampI (-2147483647) 2147483647 (nsOf s.tm.offset)]
  let s := clearExchange (enterHoldover (clearRuns s))
  let s := { s with tm := { s.tm with alignIn := 0, alignOut := 0, firstMeas := false, masters := [], selected := none } }
  fset s F.timeStatusChainAligned 0 0

/-! Commands (R401, R413) -/

/-- TIME_CONFIG (R401, R410, R423). -/
def execTimeConfig (h : CmdHdr) (tlOffset freqSlew : Option Nat) (s : State) : Out := .next (
  ccpRun h 0x0080 (.timeConfig h tlOffset freqSlew) (fun _ s =>
    if tlOffset.isSome ∧ s.md.mode ≠ .standby then (s, fail stWrongMode)
    else if (match tlOffset with | some t => decide (10239999999 < t) | none => false) then (s, fail stBadConfig)
    else if (match freqSlew with | some f => decide (f < 1 ∨ 10000 < f) | none => false) then (s, fail stBadConfig)
    else
      let tm := { s.tm with tlOffset := tlOffset.getD s.tm.tlOffset, freqSlew := freqSlew.getD s.tm.freqSlew }
      ({ s with tm := tm }, okR [numTlv 1 tm.freqSlew])) s)

/-- TIME_SET (R413, R414). -/
def execTimeSet (h : CmdHdr) (sec ns : Nat) (s : State) : Out := .next (
  ccpRun h 0x0081 (.timeSet h sec ns) (fun _ s =>
    let op : LongOp := { hdr := h, opcode := 0x0081 }
    if syncSrc s = srcPtp ∨ syncSrc s = srcChainUp then (s, fail stWrongMode)
    else if 999999999 < ns ∨ (syncSrc s = srcPps ∧ ns ≠ 0) then (s, fail stBadConfig)
    else if s.md.prep.isSome || stepping s || s.tm.setAtPps.isSome then (s, fail stBusy)
    else if syncSrc s = srcPps then
      (s, .accept fun s => { s with tm := { s.tm with setAtPps := some (sec, op) } })
    else
      (s, .accept fun s =>
        decideStep s (((((sec % 2 ^ 48) * 1000000000 + ns) * fp : Nat) : Int) - s.tm.counter) (some tsFree) (some op))) s)

/-- ACCEPT_STEP (R413, R414). -/
def execAcceptStep (h : CmdHdr) (s : State) : Out := .next (
  ccpRun h 0x0082 (.acceptStep h) (fun _ s =>
    if timeState s ≠ tsStepPending then (s, fail stBadState)
    else if s.md.prep.isSome || stepping s || s.tm.setAtPps.isSome then (s, fail stBusy)
    else
      (s, .accept fun s => decideStep s (-s.tm.offset) (some tsAcquiring) (some { hdr := h, opcode := 0x0082 }))) s)

/-! The advance of the counter (R396) -/

/-- The counter runs on the always-on oscillator: the reference PLL is out of lock, or DORMANT. -/
def onAlwaysOn (s : State) : Bool := !s.pw.refPll || decide (s.md.mode = .dormant)

/-- Rate of the counter against the stream clock, in ppt. The stream ticks follow `y` as the counter does, so the two never drift; on the
always-on oscillator, whose rate Cox has measured, an error within ±1 ppm is left (R395, R396, R411; log entry 17). -/
def counterRate (s : State) : Int :=
  if onAlwaysOn s then clampI (-1000000) 1000000 (Config.aonRate s.tm.aon s.tm.now) else 0

/-- One stream tick: the counter and the management clock advance, and PPS_OUT falls at its time or with the conditions
of its pulses (R20, R396, R417). -/
def streamTick (s : State) : State :=
  if s.pw.power = .off then s
  else
    let den : Nat := 3000000000000
    let num : Nat := (1600000 * (1000000000000 + counterRate s)).toNat + s.tm.rem
    let now := s.tm.now + 1
    { s with tm := { s.tm with now := now, counter := (s.tm.counter + num / den) % counterSpan, rem := num % den,
                               ppsOut := s.tm.ppsOut && ppsPulses s && decide (now < s.tm.ppsFall) } }

end Sys2Proof.Machine
end

