-- ==== Sys2Proof/Machine/Regs.lean ====
section
/-! DEFINITION. Register access outside the DMA channels: what a read returns and clears, and what a write does (R13 to R18,
R444, R445, and the register maps of R162, R258, R287, R318, R342, R372 and R423). -/

namespace Sys2Proof.Machine

/-! Reads -/

def bitN (b : Bool) : Nat := if b then 1 else 0

/-- A signed number of 0.1 °C as a code of 0.5 °C, saturating at ±63.5 °C. -/
def halfDegrees (t : Int) : Nat := unsign 8 (clampI (-127) 127 (Int.tdiv t 5))

/-- The host owns a DMA channel (R374): channel 15 follows the rings. -/
def hostOwns (s : State) (c : Nat) : Bool :=
  decide (c < 8) || decide (c = 12) || decide (c = 13) ||
    (decide (c = 15) && !((List.range 16).any (ringActive s)))

/-- Bits of the channels that are not the host's. -/
def dmaOwned (s : State) : Nat := (List.range 16).foldl (fun a c => if hostOwns s c then a else a + 2 ^ c) 0

/-- REF_LOST of R396 and R423. -/
def refLost (s : State) : Bool := onAlwaysOn s

/-- A valid measurement arrived within SYNC_TIMEOUT. -/
def measuredLately (s : State) : Bool :=
  match s.tm.lastMeas with
  | some t => decide (s.tm.now ≤ t + fget s F.timeCfgSyncTimeout * (tickRate / 10))
  | none => false

/-- A master is selected: for PTP by the comparison, on a chain the neighbour. -/
def hasMaster (s : State) : Bool := decide (syncSrc s = srcChainUp) || (decide (syncSrc s = srcPtp) && s.tm.selected.isSome)

/-- Computed fields of the Eight's and the RF registers. -/
def overlayFabRf (s : State) (base i : Nat) (w : Word) : Word :=
  if base = F.fabCrewMute.base then
    BitVec.ofNat 32 ((List.range 32).foldl (fun a c => if unitWorks s (uCrew c) then a else a + 2 ^ c) 0)
  else if base = F.fabCrewRsv.base then (if crewReserved s then 0x80000000 else 0)
  else if base = F.rsmStatusState.base then
    let dt := match tget none s.rf.calTemp i with | some t => groupTemp s i - t | none => 0
    putBits (putBits w 24 8 (halfDegrees dt)) 17 1 (bitN (decide (unitState s (uLo i) = 2)))
  else if base = F.paBusStatusBusy.base then
    putBits (putBits w 8 1 (bitN (paBusy s))) 0 6 s.rf.timed.length
  else if base = F.capRate.base then BitVec.ofNat 32 (satN 16 (ceilDiv (captureRate s) 1000))
  else w

/-- Computed fields of the calibration registers. -/
def overlayCal (s : State) (base i : Nat) (w : Word) : Word :=
  let c := fget s F.calSel
  let x := cluster s c
  if base = F.calStateUncal.base then calStateWord s c
  else if base = F.calRunCnt.base then BitVec.ofNat 32 (satN 32 x.runCnt)
  else if base = F.calAccCnt.base then BitVec.ofNat 32 (satN 32 x.accCnt)
  else if base = F.calDefCnt.base then BitVec.ofNat 32 (satN 32 x.defCnt)
  else if base = F.calRejCnt.base then BitVec.ofNat 32 (satN 32 x.rejCnt)
  else if base = F.calLastTag.base then BitVec.ofNat 32 x.lastTag
  else if base = F.calLastUptHi.base then BitVec.ofNat 32 (x.lastUpt / 2 ^ 32 % 2 ^ 16)
  else if base = F.calLastUptLo.base then BitVec.ofNat 32 (x.lastUpt % 2 ^ 32)
  else if base = F.dpdStatusBypass.base then dpdStatusWord s i
  else if base = F.calStoreStatusQueued.base then putBits w 0 9 s.cal.stores.length
  else w

/-- Computed fields of the Cave and integrity registers. -/
def overlayCave (s : State) (base : Nat) (w : Word) : Word :=
  if base = F.caveStatusPanic.base then putBits (putBits w 8 1 (bitN s.cave.panic)) 0 2 s.cave.mapOrder
  else if base = F.p0StatusPfLevel.base then putBits (putBits w 16 11 (pfLevel s)) 0 7 (wqLevel s)
  else if base = F.miStatusScrubRun.base then
    putBits (putBits w 21 1 (bitN (decide (fget s F.scrubCfgScrubPeriod ≠ 0) && !decide (s.md.mode = .dormant)))) 0 6
      s.mi.tracker.length
  else w

/-- Computed fields of the DMA and time registers. -/
def overlayDmaTime (s : State) (base i : Nat) (w : Word) : Word :=
  if base = F.dmaStatusState.base then
    let w := putBits w 19 1 (bitN (!hostOwns s i))
    putBits w 18 1 (bitN (decide (fget s F.dmaStatusState i ≠ 1 ∧ fget s F.dmaStatusShadowValid i = 1)))
  else if base = F.dmaOwner.base then BitVec.ofNat 32 (dmaOwned s)
  else if base = F.dmaCmdGo.base then 0
  else if base = F.timeStatusState.base then
    let w := putBits w 18 1 (bitN (refLost s))
    let w := putBits w 17 1 (bitN (match s.tm.ppsSeen with | some t => decide (s.tm.now ≤ t + tickRate / 10 * 11) | none => false))
    putBits w 16 1 (bitN (hasMaster s && measuredLately s))
  else if base = F.timeNs.base then BitVec.ofNat 32 (s.tm.counter / fp % 1000000000)
  else if base = F.timeSecHi.base then BitVec.ofNat 32 (s.tm.secLatch / 2 ^ 32 % 2 ^ 16)
  else if base = F.timeSecLo.base then BitVec.ofNat 32 (s.tm.secLatch % 2 ^ 32)
  else if base = F.freqAdj.base then BitVec.ofInt 32 s.tm.y
  else if base = F.tlOffsetHi.base then BitVec.ofNat 32 (s.tm.tlOffset / 2 ^ 32 % 4)
  else if base = F.tlOffsetLo.base then BitVec.ofNat 32 (s.tm.tlOffset % 2 ^ 32)
  else w

/-- The value that a read of a register returns (R17). -/
def regView (s : State) (a : Nat) : Word :=
  match regAt a with
  | none => 0
  | some (r, i) =>
    let w := rget s a
    let b := a / 0x100000
    if b = 7 then overlayCal s r.base i w
    else if b = 8 ∨ b = 9 then overlayCave s r.base w
    else if b = 10 ∨ b = 11 then overlayDmaTime s r.base i w
    else overlayFabRf s r.base i w

/-- Clears the RC fields of a register (R17). -/
def clearRc (s : State) (a : Nat) : State :=
  match regAt a with
  | none => s
  | some (r, i) => r.flds.foldl (fun s f => if f.acc = .rc then fset s f i 0 else s) s

/-- A read of TIME_NS latches the seconds (R397). -/
def latchSeconds (s : State) : State :=
  { s with tm := { s.tm with secLatch := s.tm.counter / fp / 1000000000 % 2 ^ 48 } }

/-- A read of one register: its value, and what the read leaves. -/
def regReadFx (s : State) (a : Nat) : Word × State :=
  (regView s a, whenS (decide (a = F.timeNs.base)) (clearRc s a) latchSeconds)

/-! Writes -/

/-- A value that its field takes: the ranges that the field tables state. A field listed here keeps its value on any other. -/
def fieldTakes (s : State) (f : Fld) (v : Nat) : Bool :=
  let is (g : Fld) : Bool := decide (f.base = g.base ∧ f.lo = g.lo)
  let within (lo hi : Nat) : Bool := decide (lo ≤ v ∧ v ≤ hi)
  if is F.fabVfabCfgLoopEn then decide (s.md.mode = .service)
  else if is F.fabVfabCfgVfabSetMv then within 700 900
  else if f.base = F.fabShiftShiftDl0.base then within 12 24
  else if is F.rsmCfgSynthDt then within 0 40
  else if is F.paBusCfgSckMhz then within 1 25
  else if is F.calCfgCalDt then within 0 40
  else if is F.calPrecondCalOcc then within 0 100
  else if is F.calSel then clusterPresent s v
  else if is F.dpdCfgNmseMax then within 10 50
  else if is F.dpdCfgMu then within 0 4
  else if is F.dpdCfgIdxTol then within 0 40
  else if is F.portCfgAgeLimit then decide (v = 0) || decide (250 ≤ v)
  else if is F.refCfg then within 0 8
  else if is F.rhCfgRhThresh then decide (512 ≤ v)
  else if is F.scrubCfgScrubPeriod then decide (v = 0) || within 10 10080
  else if is F.timeCfgSyncTimeout then within 1 100
  else if is F.stepCfgStepThresh then decide (100 ≤ v)
  else if is F.stepCfgStepPersist then decide (1 ≤ v)
  else if is F.stepCfgLockTol then decide (10 ≤ v)
  else if is F.ppsCfgWidthMs then within 1 900
  else if is F.ppsCfgOutOffset then decide (-500000 ≤ signed 20 v ∧ signed 20 v ≤ 500000)
  else if is F.auxTimeCfgAlignTol then within 5 500
  else true

/-- A pair of fields whose rule takes or leaves them together (R147, R304, R342): `false` when the written word breaks it. -/
def pairTakes (f : Fld) (w : Word) : Bool :=
  let g (h : Fld) : Nat := getBits w h.lo h.width
  if f.base = F.fabSlackCfgSlackCeil.base then
    decide (20 ≤ g F.fabSlackCfgSlackFloor ∧ g F.fabSlackCfgSlackFloor ≤ 400 ∧
      g F.fabSlackCfgSlackFloor + 100 ≤ g F.fabSlackCfgSlackCeil ∧ g F.fabSlackCfgSlackCeil ≤ 600)
  else if f.base = F.calPrecondCalPmin.base ∧ f.lo ≠ F.calPrecondCalOcc.lo then
    decide (g F.calPrecondCalPmax < g F.calPrecondCalPmin ∧ g F.calPrecondCalPmin ≤ 60 ∧ g F.calPrecondCalPmax ≤ 60)
  else if f.base = F.p0CfgPanicHi.base then
    decide (5 ≤ g F.p0CfgPanicLo ∧ g F.p0CfgPanicLo ≤ 50 ∧ g F.p0CfgPanicLo + 10 ≤ g F.p0CfgPanicHi ∧
      g F.p0CfgPanicHi ≤ 90 ∧ 2 ≤ g F.p0CfgWqHi ∧ g F.p0CfgWqHi ≤ 64 ∧ g F.p0CfgWqLo < g F.p0CfgWqHi)
  else true

/-- Writes one field: an RW field takes its bits, a W1C field clears those written as 1 (R17). -/
def writeField (i : Nat) (w : Word) (s : State) (f : Fld) : State :=
  let v := getBits w f.lo f.width
  match f.acc with
  | .rw => if fieldTakes s f v && pairTakes f w then fset s f i v else s
  | .w1c => if v = 0 then s else fset s f i (fget s f i &&& (2 ^ f.width - 1 - v))
  | _ => s

/-- In SERVICE with LOOP_EN = 0, VFAB follows VFAB_SET_MV (R150). -/
def vfabManual (s : State) : State :=
  if s.md.mode = .service ∧ fget s F.fabVfabCfgLoopEn = 0 then fset s F.fabStatusVfabMv 0 (fget s F.fabVfabCfgVfabSetMv) else s

/-- No rank owes more than REF_POSTPONE: refreshes owed beyond a lowered limit are issued at once (R334; log entry 164). -/
def lowerOwed (s : State) : State :=
  (List.range 3).foldl (fun s r => fset s (owedFld r) 0 (min (fget s (owedFld r)) (fget s F.refCfg))) s

/-- What a write brings about beside the fields it sets. -/
def afterWrite (old : State) (base : Nat) (s : State) : State :=
  if base = F.fabVfabCfgLoopEn.base then vfabManual s
  else if base = F.p0CfgPanicHi.base then judgePanic (judgeDrain s)
  else if base = F.refCfg.base then lowerOwed s
  else if base = F.paBusCfgSckMhz.base then paConfig s
  else if base = F.timeCfgSyncSrc.base then (if syncSrc old = syncSrc s then s else syncSrcChanged s)
  else s

/-- A write to a register outside the DMA channels (R445). CAP_RD_CNT, TRAIN_EN and the ring registers follow R278, R300 and
R287. -/
def regWriteCore (s : State) (a : Nat) (w : Word) : State :=
  match regAt a with
  | none => s
  | some (r, i) =>
    if r.base = F.capRdCnt.base then capRdCntFx i w.toNat s
    else if r.base = F.dpdStatusTrainEn.base then (if absentTx s i then s else putTrainEn s i (getBits w 22 1))
    else if 0x600000 ≤ r.base ∧ r.base ≤ F.capTrig2Period.base ∧ (13 < i ∨ ringIdle < ringState s i) then s
    else afterWrite s r.base (r.flds.foldl (writeField i w) s)

/-- Clears W1C bits of a register (R17, R18). -/
def w1cFx (s : State) (a : Nat) (w : Word) : State :=
  match regAt a with
  | none => s
  | some (r, i) => r.flds.foldl (fun s f => if f.acc = .w1c then writeField i w s f else s) s

/-! The rows -/

/-- RC_READ. -/
def execRcRead (addr : Nat) (s : State) : Out := .next (clearRc s addr)

/-- W1C_WRITE. -/
def execW1cWrite (addr : Nat) (value : Word) (s : State) : Out := .next (w1cFx s addr value)

/-- TIME_NS_READ. -/
def execTimeNsRead (s : State) : Out := .next (latchSeconds s)

end Sys2Proof.Machine
end

