-- ==== Sys2Proof/Machine/Dma.lean ====
section
/-! DEFINITION. The DMA engine (R374 to R394), the bulk data port (R447) and the weight-store transfers of channel 14 (R218,
R448). -/

namespace Sys2Proof.Machine

/-! Channels and sets -/

/-- STATE of a channel (R394): 0 IDLE, 1 RUNNING, 2 HALTED. -/
def dmaState (s : State) (c : Nat) : Nat := fget s F.dmaStatusState c
def dmaIdle : Nat := 0
def dmaRunning : Nat := 1
def dmaHalted : Nat := 2

/-- HALT_CODE values (R394). -/
def haltCfg : Nat := 1
def haltProt : Nat := 2
def haltBus : Nat := 3
def haltPoison : Nat := 4
def haltShutdown : Nat := 5

/-- Address spaces (R378). -/
def spCave : Nat := 0
def spSram : Nat := 1
def spMram : Nat := 2
def spReg : Nat := 3
def spBulk : Nat := 4

def chanOf (s : State) (c : Nat) : Chan := tget {} s.dma c
def putChan (s : State) (c : Nat) (x : Chan) : State := { s with dma := tset {} s.dma c x }

/-- Bulk channels (R374). -/
def bulkChan (c : Nat) : Bool := decide (12 ≤ c)

/-- One side of a set: space, address and whether the address is fixed. -/
structure DmaSide where
  space : Nat
  addr : Nat
  fix : Bool
deriving DecidableEq, Repr

/-- The active set of a channel. -/
structure DmaSet where
  src : DmaSide
  dst : DmaSide
  len : Nat
  esize : Nat
  evDone : Bool
deriving DecidableEq, Repr

def activeSet (s : State) (c : Nat) : DmaSet :=
  { src := { space := fget s F.dmaCtrlSrcSpace c, addr := fget s F.dmaSrc c, fix := decide (fget s F.dmaCtrlSrcFix c = 1) },
    dst := { space := fget s F.dmaCtrlDstSpace c, addr := fget s F.dmaDst c, fix := decide (fget s F.dmaCtrlDstFix c = 1) },
    len := fget s F.dmaLen c, esize := if fget s F.dmaCtrlEsize c = 1 then 32 else 4,
    evDone := decide (fget s F.dmaCtrlEvDone c = 1) }

/-- The address of element `i` of a side (R377). -/
def DmaSide.at (d : DmaSide) (esize i : Nat) : Nat := if d.fix then d.addr else d.addr + i * esize

/-- Length of a side's range. -/
def DmaSide.span (d : DmaSide) (q : DmaSet) : Nat := if d.fix then q.esize else q.len

/-! Checks (R379) -/

/-- Bytes of a space; BULK and the reserved spaces ignore the address. -/
def spaceSize (sp : Nat) : Nat :=
  if sp = spSram then 25165824 else if sp = spMram then 4194304 else 2 ^ 32

/-- The register block of the DMA engine, never a DMA address (R378). -/
def inDmaBlock (a : Nat) : Bool := decide (0xA00000 ≤ a ∧ a < 0xA00800)

/-- The words of a side's range in the register space. -/
def regWords (d : DmaSide) (q : DmaSet) : List Nat := (List.range (d.span q / 4)).map fun i => d.addr + 4 * i

/-- Check 1 of one side. -/
def sideCfg (own : Bool) (d : DmaSide) (q : DmaSet) : Bool :=
  decide (d.space ≤ spBulk) && (decide (d.space ≠ spReg) || decide (q.esize = 4)) &&
    (decide (d.space = spBulk) || (decide (d.addr % q.esize = 0) && decide (d.addr + d.span q ≤ spaceSize d.space))) &&
    (own || decide (d.space ≠ spReg) || !((regWords d q).any inDmaBlock))

/-- Check 1: CFG. -/
def cfgOk (s : State) (c : Nat) (q : DmaSet) : Bool :=
  sideCfg (hostOwns s c) q.src q && sideCfg (hostOwns s c) q.dst q && decide (q.len % q.esize = 0) &&
    decide (q.len ≤ if bulkChan c then 0xFFFFFFE0 else 65536)

/-- A block of the capture pool that lies in no configured ring (R276, R378). -/
def freeBlock (s : State) (b : Nat) : Bool :=
  !((List.range 16).any fun r => decide (ringState s r ≠ ringFree ∧ fget s F.capAreaBaseBlk r ≤ b ∧
    b < fget s F.capAreaBaseBlk r + fget s F.capAreaNblk r))

/-- A register that the host reaches by DMA (R378, R443). -/
def hostReg (a : Nat) : Bool := (regAt a).isSome && !inDmaBlock a

/-- Check 2 of one side. -/
def sideProt (s : State) (write : Bool) (d : DmaSide) (q : DmaSet) : Bool :=
  if d.space = spCave then
    !write || (decide (0x60000000 ≤ d.addr ∧ d.addr + d.span q ≤ 2 ^ 32) &&
      ((List.range ((d.addr + d.span q - 1) / 65536 - d.addr / 65536 + 1)).all fun k =>
        freeBlock s (d.addr / 65536 + k - 0x6000)))
  else if d.space = spSram then !write
  else if d.space = spMram then false
  else if d.space = spReg then (regWords d q).all hostReg
  else true

/-- Check 2: PROT, for a channel that the host owns. -/
def protOk (s : State) (c : Nat) (q : DmaSet) : Bool :=
  !hostOwns s c || (sideProt s false q.src q && sideProt s true q.dst q)

/-! Activation, the final handshake and halts (R379 to R382, R390) -/

/-- What a channel has asked the Cave for and not yet moved is given up (R386, R387). -/
def dropRead (s : State) (c : Nat) : State :=
  let x := chanOf s c
  putChan { s with cave := { s.cave with reqs := s.cave.reqs.filter fun q => decide (some q.id ≠ x.req) } } c
    { x with req := none, got := [] }

/-- Halts a channel: DMA_HALT. -/
def dmaHalt (s : State) (c code : Nat) : State :=
  let s := dropRead (fset (fset s F.dmaStatusState c dmaHalted) F.dmaStatusHaltCode c code) c
  let s := putChan s c { chanOf s c with stopping := false, last := false }
  raise s 0x59 c [(c : Int), (code : Int)]

/-- What every final handshake leaves: SET_DONE, DMA_SET_CNT and DMA_DONE (R382, R393). -/
def setDone (s : State) (c : Nat) : State :=
  let s := finc (fset s F.dmaStatusSetDone c 1) F.dmaSetCnt c
  if (activeSet s c).evDone then raise s 0x58 c [(c : Int)] else s

/-- The channel goes idle after a completed set. -/
def goIdle (s : State) (c : Nat) : State :=
  putChan (fset (fset s F.dmaStatusState c dmaIdle) F.dmaStatusDone c 1) c {}

/-- The Cave port of a channel (R376). -/
def chanPort (c : Nat) : Nat := if c = 15 then 1 else 3

/-- A RUNNING channel whose source is the Cave asks for what it moves next: a bulk channel for up to 4,096 bytes, a short one, or one
of fixed source, for one element (R323, R376). -/
def nextRequest (s : State) (c : Nat) : State :=
  let q := activeSet s c
  let x := chanOf s c
  if dmaState s c ≠ dmaRunning ∨ q.src.space ≠ spCave ∨ x.req ≠ none ∨ x.got ≠ [] ∨ x.last then s
  else
    let n := if bulkChan c && !q.src.fix then min 4096 (q.len - x.done * q.esize) else q.esize
    queuePortRead (putChan s c { x with req := some s.cave.nextReq }) (chanPort c) (q.src.at q.esize x.done) n

/-- The active set becomes active (R379): a set of length 0 completes at once, a set that fails a check halts. -/
def activateSet (s : State) (c : Nat) : State :=
  let q := activeSet s c
  let s := putChan (fset s F.dmaRemain c q.len) c {}
  if q.len = 0 then goIdle (setDone s c) c
  else if !cfgOk s c q then dmaHalt s c haltCfg
  else if !protOk s c q then dmaHalt s c haltProt
  else nextRequest (fset s F.dmaStatusState c dmaRunning) c

/-- Copies the shadow set into the active set, and clears SHADOW_VALID. -/
def takeShadow (s : State) (c : Nat) : State :=
  let cp (s : State) (a b : Fld) : State := rput s (a.addr c) (rget s (b.addr c))
  fset (cp (cp (cp (cp s F.dmaSrc F.dmaShSrc) F.dmaDst F.dmaShDst) F.dmaLen F.dmaShLen) F.dmaCtrlEsize F.dmaShCtrlEsize)
    F.dmaStatusShadowValid c 0

/-- DMA_FINAL_HANDSHAKE (R382, R385). -/
def finalHandshakeFx (c : Nat) (s : State) : State :=
  if 15 < c ∨ dmaState s c ≠ dmaRunning ∨ !(chanOf s c).last then s
  else
    let stop := (chanOf s c).stopping
    let s := setDone s c
    if stop then fset (goIdle s c) F.dmaStatusStopped c 1
    else if fget s F.dmaStatusShadowValid c = 1 then activateSet (takeShadow s c) c
    else goIdle s c

def execDmaFinalHandshake (ch : Nat) (s : State) : Out := .next (finalHandshakeFx ch s)

/-! Commands (R381, R385, R386) -/

/-- A DORMANT command has been accepted and the wake has not ended (R391). -/
def dormantComing (s : State) : Bool :=
  s.pw.entering.isSome || s.pw.dormantCmd.isSome || decide (s.md.mode = .dormant) ||
    (match s.md.prep with | some p => decide (p.target = .dormant) | none => false)

/-- A set that names BULK. -/
def namesBulk (q : DmaSet) : Bool := decide (q.src.space = spBulk) || decide (q.dst.space = spBulk)

def ignored (s : State) (c : Nat) : State := fset s F.dmaStatusCmdIgnored c 1

/-- GO. -/
def dmaGoFx (c : Nat) (s : State) : State :=
  if 15 < c then s
  else if hostOwns s c && dormantComing s then s
  else if dmaState s c = dmaRunning then ignored s c
  else
    let s := fset (fset (fset (fset s F.dmaStatusDone c 0) F.dmaStatusStopped c 0) F.dmaStatusAborted c 0) F.dmaStatusHaltCode c 0
    let s := if fget s F.dmaStatusShadowValid c = 1 then takeShadow s c else s
    if hostOwns s c && s.ws.transfer.isSome && namesBulk (activeSet s c) then
      dmaHalt (putChan (fset s F.dmaRemain c (activeSet s c).len) c {}) c haltProt
    else activateSet s c

/-- ARM. -/
def dmaArmFx (c : Nat) (s : State) : State := if 15 < c then s else fset s F.dmaStatusShadowValid c 1

/-- DISARM. -/
def dmaDisarmFx (c : Nat) (s : State) : State := if 15 < c then s else fset s F.dmaStatusShadowValid c 0

/-- STOP. -/
def dmaStopFx (c : Nat) (s : State) : State :=
  if 15 < c then s
  else if dmaState s c = dmaRunning then putChan s c { chanOf s c with stopping := true }
  else ignored s c

/-- Bytes of MRAM; a byte whose content the spec does not place is free. -/
def mramBytes (s : State) (a : Nat) : Nat → List (Byte × Bool) × State
  | 0 => ([], s)
  | n + 1 =>
    let (b, s) := match tget none s.mram.raw a with
      | some b => (b, s)
      | none => let (f, s) := drawFree s; (BitVec.ofNat 8 f, s)
    let (rest, s) := mramBytes s (a + 1) n
    ((b, false) :: rest, s)

/-- Writes MRAM bytes. -/
def mramPut (t : Tbl (Option Byte)) (a : Nat) : List Byte → Tbl (Option Byte)
  | [] => t
  | b :: bs => mramPut (tset none t a (some b)) (a + 1) bs

/-- One byte that an ABORT leaves open: the old one, or the one that the set would have written (R386). -/
def abortByte (old new : Byte) (s : State) : Byte × State :=
  let (f, s) := drawFree s
  (if f % 2 = 0 then old else new, s)

/-- The byte that a set would have written from a source offset: free where the bulk port has not received it, or no register stands
there. `start`: the offset of the first byte not yet accepted. -/
def abortSource (s : State) (q : DmaSet) (start k : Nat) : Byte × State :=
  let a := q.src.addr + (if q.src.fix then k % q.esize else k)
  let (f, s') := drawFree s
  let free := (BitVec.ofNat 8 f, s')
  if q.src.space = spCave then (memGet s.caveMem a, s)
  else if q.src.space = spSram then (memGet s.sramMem a, s)
  else if q.src.space = spMram then (match tget none s.mram.raw a with | some b => (b, s) | none => free)
  else if q.src.space = spReg then
    (if (regAt (a / 4 * 4)).isSome then (nth 0 (beBytes 4 (regReadFx s (a / 4 * 4)).1.toNat) (a % 4), s) else free)
  else
    match s.ccp.bulkIn[k - start]? with
    | some b => (b.1, s)
    | none => free

/-- The register that an ABORT leaves open holds its old word, or takes the set's (R386). -/
def abortWord (s : State) (a : Nat) (new : List Byte) : State :=
  let (f, s) := drawFree s
  if f % 2 = 0 ∨ (regAt a).isNone then s else regWriteCore s a (BitVec.ofNat 32 (beNat new))

/-- The destination bytes from offset `k` on after an ABORT; `word`: the bytes of the register's word so far. -/
def abortBytes (q : DmaSet) (start : Nat) : Nat → Nat → List Byte → State → State
  | 0, _, _, s => s
  | n + 1, k, word, s =>
    let (new, s) := abortSource s q start k
    let a := q.dst.addr + (if q.dst.fix then k % q.esize else k)
    if q.dst.space = spCave then
      let (b, s) := abortByte (memGet s.caveMem a) new s
      abortBytes q start n (k + 1) [] { s with caveMem := memPut s.caveMem a b }
    else if q.dst.space = spSram then
      let (b, s) := abortByte (memGet s.sramMem a) new s
      abortBytes q start n (k + 1) [] { s with sramMem := memPut s.sramMem a b }
    else if q.dst.space = spMram then
      let (f, s) := drawFree s
      abortBytes q start n (k + 1) [] (if f % 2 = 0 then s else { s with mram := { s.mram with raw := mramPut s.mram.raw a [new] } })
    else if q.dst.space = spReg ∧ k % 4 = 3 then abortBytes q start n (k + 1) [] (abortWord s (a - 3) (word ++ [new]))
    else abortBytes q start n (k + 1) (word ++ [new]) s

/-- ABORT (R386): accepted writes complete first, and the bytes of the elements not yet accepted keep their value or take the
set's, which of the two stays open. -/
def dmaAbortFx (c : Nat) (s : State) : State :=
  if 15 < c then s
  else if !bulkChan c ∨ dmaState s c ≠ dmaRunning then ignored s c
  else
    let q := activeSet s c
    let start := (chanOf s c).done * q.esize
    let s := if q.dst.space = spCave then awaitWrites s q.dst.addr (q.dst.span q) (read := false) else s
    let s := if q.src.space = spCave then awaitWrites s q.src.addr (q.src.span q) (read := false) else s
    let s := dropRead (abortBytes q start (q.len - start) start [] s) c
    let (f, s) := drawFree s
    let s := fset (fset (fset s F.dmaStatusShadowValid c 0) F.dmaStatusState c dmaIdle) F.dmaStatusAborted c 1
    putChan (fset s F.dmaRemain c f) c {}

/-- A write to DMA_CMD: one command per write (R381). -/
def dmaCmdFx (c : Nat) (w : Word) (s : State) : State :=
  let v := w.toNat % 32
  if v = 0 then s
  else if v = 1 then dmaGoFx c s
  else if v = 2 then dmaArmFx c s
  else if v = 4 then dmaDisarmFx c s
  else if v = 8 then dmaStopFx c s
  else if v = 16 then dmaAbortFx c s
  else ignored s c

/-- A write to a set field: 0 to 3 SRC, DST, LEN and CTRL of the active set, 4 to 7 of the shadow set (R384). -/
def setFieldFx (c field : Nat) (w : Word) (s : State) : State :=
  if 15 < c ∨ 7 < field then s
  else if (decide (4 ≤ field) && decide (fget s F.dmaStatusShadowValid c = 1)) ||
      (decide (field < 4) && decide (dmaState s c = dmaRunning)) then
    fset s F.dmaStatusShadowBusy c 1
  else regWriteCore s (0xA00000 + 0x40 * c + 4 * field) w

def execDmaGo (ch : Nat) (s : State) : Out := .next (dmaGoFx ch s)
def execDmaArm (ch : Nat) (s : State) : Out := .next (dmaArmFx ch s)
def execDmaDisarm (ch : Nat) (s : State) : Out := .next (dmaDisarmFx ch s)
def execDmaStop (ch : Nat) (s : State) : Out := .next (dmaStopFx ch s)
def execDmaAbort (ch : Nat) (s : State) : Out := .next (dmaAbortFx ch s)
def execDmaSetFieldWrite (ch field : Nat) (value : Word) (s : State) : Out := .next (setFieldFx ch field value s)

/-- A write to any register. -/
def regWriteFx (s : State) (a : Nat) (w : Word) : State :=
  let c := (a - 0xA00000) / 0x40
  let o := (a - 0xA00000) % 0x40
  if 0xA00000 ≤ a ∧ a < 0xA00400 then
    (if o < 0x20 then (if o % 4 = 0 then setFieldFx c (o / 4) w s else s)
     else if o = 0x20 then dmaCmdFx c w s
     else regWriteCore s a w)
  else regWriteCore s a w

/-- REGISTER_WRITE. -/
def execRegisterWrite (addr : Nat) (value : Word) (s : State) : Out := .next (regWriteFx s addr value)

/-! The weight-store transfers (R218, R448) -/

/-- Bytes of a bucket. -/
def bucketBytes : Nat := 2304

/-- Size of each buffer of the bulk data port (R447). -/
def bulkSize : Nat := 65536

/-- Bytes of a transfer that channel 14 has still to move. -/
def transferLeft (t : Transfer) : Nat := t.left * bucketBytes

/-- A transfer begins on channel 14, as a set of its bytes does (R374, R379, R448; log entry 177). -/
def beginTransfer (s : State) (t : Transfer) : State :=
  let s := putChan { s with ws := { s.ws with transfer := some t, transferNow := s.tm.now } } 14 {}
  let s := fset (fset (fset (fset s F.dmaStatusDone 14 0) F.dmaStatusStopped 14 0) F.dmaStatusAborted 14 0) F.dmaStatusHaltCode 14 0
  fset (fset s F.dmaRemain 14 (transferLeft t)) F.dmaStatusState 14 dmaRunning

/-- Ends a transfer with its completion: channel 14, where it runs, goes idle, after the last bucket as a completed set does. -/
def endTransfer (s : State) (t : Transfer) (status : Nat) (results : List Tlv) : State :=
  let s := if dmaState s 14 ≠ dmaRunning then s
    else if status = stOk then goIdle (setDone (fset s F.dmaRemain 14 0) 14) 14
    else putChan (fset (dropRead s 14) F.dmaStatusState 14 dmaIdle) 14 {}
  complete { s with ws := { s.ws with transfer := none } } { hdr := t.hdr, opcode := if t.isImport then 0x0073 else 0x0072 }
    status 0 results

/-- Channel 14 asks P3 for the bucket that an export moves next (R323, R376). -/
def requestBucket (s : State) (t : Transfer) : State :=
  if t.isImport then s
  else queuePortRead (putChan s 14 { chanOf s 14 with req := some s.cave.nextReq, got := [] }) 3 (t.bucket * bucketBytes) bucketBytes

/-- A bucket has been moved, and the next one is. -/
def nextBucket (s : State) (t : Transfer) : State :=
  let t := { t with bucket := t.bucket + 1, left := t.left - 1 }
  requestBucket { fset s F.dmaRemain 14 (transferLeft t) with ws := { s.ws with transfer := some t, transferNow := s.tm.now } } t

/-- Exports the next bucket, once its read has been served: a poisoned word ends the export with MEM_POISON and its offset (R446). -/
def exportBucket (t : Transfer) (s : State) : State :=
  let l := (chanOf s 14).got
  if bulkSize < s.ccp.bulkOut.length + bucketBytes ∨ l.length < bucketBytes then s
  else
    match l.findIdx? fun x => x.2 with
    | some k => endTransfer s t stMemPoison [numTlv 1 (((t.bucket - t.first) * bucketBytes + k / 32 * 32 : Nat) : Int)]
    | none =>
      let s := { s with ccp := { s.ccp with bulkOut := s.ccp.bulkOut ++ l } }
      if t.left ≤ 1 then
        endTransfer s t stOk [numTlv 1 (t.first : Nat), numTlv 2 (t.count : Nat), numTlv 3 (t.uptime : Nat)]
      else nextBucket s t

/-- The ways of an imported bucket: LAST_HEARD continues the idle time at export, which UPTIME, a number of 32 bits, gives modulo 2³²
(R429; log entry 186), and an entry of another bucket, or of a tag that a way before it holds, becomes INVALID (R218). The second part
counts those. -/
def importWays (s : State) (t : Transfer) (data : List Byte) : Nat → List Nat → List Byte × Nat
  | 0, _ => ([], 0)
  | n + 1, tags =>
    let e := entryOf (slice data ((7 - n) * 288) 288)
    let bad := e.holds && (decide (bucketOf e.tag ≠ t.bucket) || tags.contains e.tag)
    let heard := ((s.tm.uptime : Int) - ((t.uptime : Int) - e.lastHeard) % 2 ^ 32) % (2 ^ 48 : Int)
    let raw := slice data ((7 - n) * 288) 288
    let st := if bad then BitVec.ofNat 8 ((nth (0 : Byte) raw 4).toNat % 64 + 192) else nth 0 raw 4
    let out := put raw 4 st
    let out := if e.holds then out.take 12 ++ beBytes 6 heard.toNat ++ out.drop 18 else out
    let (rest, k) := importWays s t data n (if e.holds && !bad then e.tag :: tags else tags)
    (out ++ rest, k + (if bad then 1 else 0))

/-- Imports the next bucket, when it has been received and P3's write queue takes it. -/
def importBucket (t : Transfer) (s : State) : State :=
  if s.ccp.bulkIn.length < bucketBytes ∨ !roomFor s 3 bucketBytes then s
  else
    let data := (s.ccp.bulkIn.take bucketBytes).map fun x => x.1
    let (bytes, bad) := importWays s t data 8 []
    let s := { s with ccp := { s.ccp with bulkIn := s.ccp.bulkIn.drop bucketBytes } }
    let s := queueWrite s 3 (t.bucket * bucketBytes) (bytes.map fun b => (b, false))
    let s := if bad = 0 then s else wsCount s wcImportBad bad
    let t := { t with bad := t.bad + bad }
    if t.left ≤ 1 then endTransfer s t stOk [numTlv 1 (t.bad : Nat)] else nextBucket s t

/-- One bucket of the transfer in progress, while channel 14 runs (R389). -/
def transferStep (s : State) : State :=
  match s.ws.transfer with
  | none => s
  | some t => if dmaState s 14 ≠ dmaRunning then s else if t.isImport then importBucket t s else exportBucket t s

/-- WS_TRANSFER_TIMEOUT (R448). -/
def execWsTransferTimeout (s : State) : Out := .next (
  match s.ws.transfer with
  | none => s
  | some t => if s.tm.now < s.ws.transferNow + 60 * tickRate then s else endTransfer s t stBadState [])

/-! Elements (R377, R380, R387, R388) -/

/-- What reading one element gives: its bytes with their marks, a bus error, or no data yet. -/
inductive Elem where
  | data (l : List (Byte × Bool))
  | busError
  | wait
deriving DecidableEq, Repr

/-- Reads an element. What the Cave delivers comes through the channel's request (R323, R376). -/
def elemRead (s : State) (c : Nat) (d : DmaSide) (es i : Nat) (faults : List WordFault) : Elem × State :=
  let a := d.at es i
  if d.space = spCave then
    let x := chanOf s c
    if x.got.length < es then (.wait, s) else (.data (x.got.take es), putChan s c { x with got := x.got.drop es })
  else if d.space = spSram then
    let (l, s) := sramRead s (chanPort c) a es faults
    (.data l, s)
  else if d.space = spMram then
    let (l, s) := mramBytes s a es
    (.data l, s)
  else if d.space = spReg then
    match regAt a with
    | none => (.busError, s)
    | some _ =>
      let (w, s) := regReadFx s a
      (.data ((beBytes 4 w.toNat).map fun b => (b, false)), s)
  else if s.ccp.bulkIn.length < es then (.wait, s)
  else (.data (s.ccp.bulkIn.take es), { s with ccp := { s.ccp with bulkIn := s.ccp.bulkIn.drop es } })

/-- A destination byte whose content R380 leaves open: destination and source ranges overlap with DST > SRC. -/
def overlapOpen (q : DmaSet) (a : Nat) : Bool :=
  decide (q.src.space = q.dst.space) && decide (q.src.addr < q.dst.addr) &&
    decide (q.src.addr ≤ a ∧ a < q.src.addr + q.src.span q ∧ q.dst.addr ≤ a ∧ a < q.dst.addr + q.dst.span q)

/-- The bytes written at a memory address: free where R380 leaves them open. -/
def openBytes (q : DmaSet) (a : Nat) : List Byte → State → List Byte × State
  | [], s => ([], s)
  | b :: bs, s =>
    let (b, s) := if overlapOpen q a then (let (f, s) := drawFree s; (BitVec.ofNat 8 f, s)) else (b, s)
    let (rest, s) := openBytes q (a + 1) bs s
    (b :: rest, s)

/-- A bus error that retries do not mend: the channel halts (R387). -/
def busHalt (s : State) (c : Nat) : State := dmaHalt (finc s F.dmaRetryCnt c (fget s F.dmaCfg)) c haltBus

/-- An element accepted by its target: DMA_REMAIN, whether it was the last, and the next request (R376). -/
def accepted (s : State) (c : Nat) (q : DmaSet) : State :=
  let n := (chanOf s c).done + 1
  let s := fset s F.dmaRemain c (q.len - n * q.esize)
  nextRequest (putChan s c { chanOf s c with done := n, last := decide (q.len ≤ n * q.esize) }) c

/-- Writes an element that has been read. -/
def elemWrite (s : State) (c : Nat) (q : DmaSet) (i : Nat) (l : List (Byte × Bool)) (faults : List WordFault)
    (verifyFails : Nat) : State :=
  let d := q.dst
  let a := d.at q.esize i
  let poison := l.any fun x => x.2
  let bytes := l.map fun x => x.1
  let mark (s : State) : State := if poison then fset s F.dmaStatusPoisoned c 1 else s
  let (bytes, s) := openBytes q a bytes s
  if d.space = spCave then
    let s := queueWrite s (chanPort c) a (bytes.map fun b => (b, poison))
    accepted (mark s) c q
  else if d.space = spSram then
    accepted (mark (sramWrite s a bytes poison faults)) c q
  else if d.space = spBulk then accepted (mark { s with ccp := { s.ccp with bulkOut := s.ccp.bulkOut ++ l } }) c q
  else if poison then dmaHalt s c haltPoison
  else if d.space = spMram then
    if fget s F.dmaCfg < verifyFails then busHalt s c
    else accepted { finc s F.dmaRetryCnt c verifyFails with mram := { s.mram with raw := mramPut s.mram.raw a bytes } } c q
  else
    match regAt a with
    | none => busHalt s c
    | some _ => accepted (regWriteCore s a (BitVec.ofNat 32 (beNat bytes))) c q

/-- DMA_ELEMENT: one element of a channel's set, when its source has delivered it and its target takes it; on channel 14, while a
weight-store transfer runs, one bucket of it. -/
def dmaElementFx (c : Nat) (faults : List WordFault) (verifyFails : Nat) (s : State) : State :=
  if c = 14 ∧ s.ws.transfer.isSome then transferStep s
  else if 15 < c ∨ dmaState s c ≠ dmaRunning ∨ (chanOf s c).last then s
  else
    let q := activeSet s c
    let i := (chanOf s c).done
    if q.dst.space = spBulk ∧ bulkSize < s.ccp.bulkOut.length + q.esize then s
    else if q.dst.space = spCave ∧ !roomFor s (chanPort c) q.esize then s
    else
      match elemRead s c q.src q.esize i faults with
      | (.wait, _) => s
      | (.busError, s) => busHalt s c
      | (.data l, s) => elemWrite s c q i l faults verifyFails

def execDmaElement (ch : Nat) (faults : List WordFault) (verifyFails : Nat) (s : State) : Out :=
  .next (dmaElementFx ch faults verifyFails s)

/-- Halts every RUNNING channel for a thermal shutdown (R389). -/
def shutdownDma (s : State) : State :=
  each (List.range 16) s fun s c => if dmaState s c = dmaRunning then dmaHalt s c haltShutdown else s

/-- Cox ends its own transfers before step 9 of R71 (R391). -/
def endCoxDma (s : State) : State :=
  each (List.range 16) s fun s c =>
    if !hostOwns s c && decide (dmaState s c = dmaRunning) then putChan (fset (dropRead s c) F.dmaStatusState c dmaIdle) c {} else s

/-- A host channel that runs (R391). -/
def hostDmaRuns (s : State) : Bool := (List.range 16).any fun c => hostOwns s c && decide (dmaState s c = dmaRunning)

/-- A host channel that holds an active or armed set naming BULK (R448). -/
def hostBulkSet (s : State) : Bool :=
  (List.range 16).any fun c => hostOwns s c &&
    ((decide (dmaState s c = dmaRunning) && namesBulk (activeSet s c)) ||
     (decide (fget s F.dmaStatusShadowValid c = 1) &&
       (decide (fget s F.dmaShCtrlSrcSpace c = spBulk) || decide (fget s F.dmaShCtrlDstSpace c = spBulk))))

/-! Register commands (R444, R445) -/

/-- The first word of a range outside R443. -/
def firstBad (addr : Nat) : Nat → Nat → Option Nat
  | 0, _ => none
  | n + 1, i => if (regAt (addr + 4 * i)).isNone then some i else firstBad addr n (i + 1)

/-- Reads of consecutive registers in ascending order. -/
def readRun (addr : Nat) : Nat → State → List Word × State
  | 0, s => ([], s)
  | n + 1, s =>
    let (w, s) := regReadFx s addr
    let (rest, s) := readRun (addr + 4) n s
    (w :: rest, s)

/-- REG_READ (R444). -/
def execRegRead (h : CmdHdr) (addr count : Nat) (s : State) : Out := .next (
  ccpRun h 0x00C0 (.regRead h addr count) (fun _ s =>
    if count < 1 ∨ 64 < count then (s, fail stBadConfig)
    else if addr % 4 ≠ 0 then (s, fail stBadAlign)
    else match firstBad addr count 0 with
      | some i => (s, fail stBadAddr i)
      | none =>
        let (l, s) := readRun addr count s
        (s, okR [{ type := 1, value := l.flatMap fun w => beBytes 4 w.toNat }])) s)

/-- The status of one pair of REG_WRITE, `none` where its write is performed (R374, R391, R445). -/
def pairStatus (s : State) (p : Nat × Word) : Option Nat :=
  let a := p.1
  let c := (a - 0xA00000) / 0x40
  if a % 4 ≠ 0 then some stBadAlign
  else if (regAt a).isNone then some stBadAddr
  else if 0xA00000 ≤ a ∧ a < 0xA00400 ∧ !hostOwns s c then some stBusy
  else if 0xA00000 ≤ a ∧ a < 0xA00400 ∧ (a - 0xA00000) % 0x40 = 0x20 ∧ p.2.toNat % 32 = 1 ∧ dormantComing s then some stBusy
  else if 0x600380 ≤ a ∧ a < 0x600400 then some stDenied
  else none

/-- The first failing pair and its status. -/
def firstRefused (s : State) : List (Nat × Word) → Nat → Option (Nat × Nat)
  | [], _ => none
  | p :: t, i =>
    match pairStatus s p with
    | some st => some (st, i)
    | none => firstRefused s t (i + 1)

/-- REG_WRITE (R445). -/
def execRegWrite (h : CmdHdr) (pairs : List (Nat × Word)) (s : State) : Out := .next (
  ccpRun h 0x00C1 (.regWrite h pairs) (fun _ s =>
    if pairs = [] ∨ 64 < pairs.length then (s, fail stBadParam 1)
    else match firstRefused s pairs 0 with
      | some (st, i) => (s, fail st i)
      | none => (pairs.foldl (fun s p => regWriteFx s p.1 p.2) s, ok)) s)

/-! The bulk data port (R447) -/

/-- BULK_PUT. -/
def execBulkPut (h : CmdHdr) (data : List Byte) (s : State) : Out := .next (
  ccpRun h 0x00B0 (.bulkPut h data) (fun _ s =>
    if data.length < 4 ∨ 8188 < data.length then (s, fail stBadParam 1)
    else if bulkSize < s.ccp.bulkIn.length + data.length then (s, fail stBusy)
    else
      let l := s.ccp.bulkIn ++ data.map fun b => (b, false)
      ({ s with ccp := { s.ccp with bulkIn := l } }, okR [numTlv 1 ((bulkSize - l.length : Nat) : Int)])) s)

/-- BULK_GET. -/
def execBulkGet (h : CmdHdr) (max : Nat) (s : State) : Out := .next (
  ccpRun h 0x00B1 (.bulkGet h max) (fun _ s =>
    if max < 4 ∨ 8176 < max then (s, fail stBadConfig)
    else
      let l := s.ccp.bulkOut.take max
      let poison := l.any fun x => x.2
      ({ s with ccp := { s.ccp with bulkOut := s.ccp.bulkOut.drop max } },
       .done stOk 0 [{ type := 1, value := l.map fun x => x.1 }, numTlv 2 ((bitN poison : Nat) : Int)] poison)) s)

/-! Weight-store commands (R219, R220, R448) -/

/-- WS_CONFIG. -/
def execWsConfig (h : CmdHdr) (q : WsConfigReq) (s : State) : Out := .next (
  ccpRun h 0x0070 (.wsConfig h q) (fun slot s =>
    let past (v : Option Nat) (m : Nat) : Bool := match v with | some x => decide (m < x) | none => false
    let badQ := match q.estMinQ with | some x => decide (x < -300 ∨ 300 < x) | none => false
    let badR := match q.recip with
      | some l => decide (l.length ≠ 64) || l.any fun c => !decide (-32768 ≤ c.re ∧ c.re ≤ 32767 ∧ -32768 ≤ c.im ∧ c.im ≤ 32767)
      | none => false
    if past q.blendK 7 || past q.ageMin 65535 || past q.regZf 1023 || badQ || badR then (s, fail stBadConfig)
    else defer s h 0x0070 slot 0 (.wsConfig q)) s)

/-- WS_STATUS. -/
def execWsStatus (h : CmdHdr) (clear : Option Nat) (s : State) : Out := .next (
  ccpRun h 0x0071 (.wsStatus h clear) (fun _ s =>
    let l := (List.range 14).map fun k => numTlv (k + 1) (tget 0 s.ws.counters k : Nat)
    let s' := if clear.getD 0 = 0 then s else { s with ws := { s.ws with counters := [] } }
    (s', okR (l ++ [numTlv 15 (s.ws.live : Nat), numTlv 16 (s.ws.stale : Nat)]))) s)

/-- The checks of WS_EXPORT and WS_IMPORT. -/
def transferBody (h : CmdHdr) (isImport : Bool) (first count uptime : Nat) (s : State) : State × Ans :=
  if count = 0 ∨ 524288 < first + count then (s, fail stBadConfig)
  else if s.ws.transfer.isSome || hostBulkSet s then (s, fail stBusy)
  else
    (s, .accept fun s =>
      let t : Transfer := { hdr := h, isImport := isImport, bucket := first, left := count,
                            uptime := if isImport then uptime else s.tm.uptime, first := first, count := count, bad := 0 }
      requestBucket (beginTransfer s t) t)

/-- WS_EXPORT. -/
def execWsExport (h : CmdHdr) (first count : Nat) (s : State) : Out := .next (
  ccpRun h 0x0072 (.wsExport h first count) (fun _ s => transferBody h false first count 0 s) s)

/-- WS_IMPORT. -/
def execWsImport (h : CmdHdr) (first count uptime : Nat) (s : State) : Out := .next (
  ccpRun h 0x0073 (.wsImport h first count uptime) (fun _ s => transferBody h true first count uptime s) s)

end Sys2Proof.Machine
end

