-- ==== Sys2Proof/Machine/Info.lean ====
section
/-! DEFINITION. Commands of identity, settings and reports: IDENT, COX_STATUS, EVENT_MASK, the start-up record, units, fronthaul
settings, thermal and housekeeping reports, memory reports and the event log (R66, R78 to R85, R107, R122, R139, R156 to R161,
R321, R322, R364, R365, R442, R451, R452, R469, R476, R498, R507). -/

namespace Sys2Proof.Machine

/-! Identity and Cox's counters (R3, R442) -/

/-- PART_ID[15:0] of the part (00_scope.md). -/
def partId (s : State) : Nat := match s.part with | .vk6464 => 0x6464 | .vk6432 => 0x6432

/-- The image slot Cox runs from; in RECOVERY there is none. -/
def slotImage (s : State) (k : Nat) : ImageSlot := if k = 0 then s.mram.slotA else s.mram.slotB

/-- IDENT. The bits of PART_ID and REV_ID that R1 and R3 do not give are sent as 0 (DESIGN CHOICE, log entry 188). -/
def execIdent (h : CmdHdr) (s : State) : Out :=
  .next (ccpRun h 0x0001 (.ident h) (fun _ s =>
    let m := slotImage s s.mram.running
    (s, okR [numTlv 1 (partId s : Nat), numTlv 2 1, numTlv 3 (s.mram.running : Nat), { type := 4, value := beBytes 8 m.seq },
             numTlv 5 (m.build : Nat), { type := 6, value := beBytes 16 Config.serial }])) s)

/-- COX_STATUS. -/
def execCoxStatus (h : CmdHdr) (s : State) : Out :=
  .next (ccpRun h 0x0002 (.coxStatus h) (fun _ s =>
    (s, okR ({ type := 1, value := beBytes 8 s.tm.uptime } ::
      ([s.ccp.restartCnt, s.ccp.dropCnt, s.ccp.dupCnt, s.ccp.evtLostCnt, s.ccp.mspiCrcCnt, s.ccp.longOps.length].mapIdx
        fun i n => numTlv (i + 2) (satN 32 n : Nat))))) s)

/-- EVENT_MASK (R451). -/
def execEventMask (h : CmdHdr) (path mask : Nat) (s : State) : Out :=
  .next (ccpRun h 0x0003 (.eventMask h path mask) (fun _ s =>
    if 1 < path then (s, fail stBadConfig)
    else if path = 0 then ({ s with ccp := { s.ccp with maskBand := BitVec.ofNat 128 mask } }, ok)
    else ({ s with ccp := { s.ccp with maskMspi := BitVec.ofNat 128 mask } }, ok)) s)

/-! Port settings (R78 to R85, R111) -/

/-- The EtherTypes that FH_PORT_PARAM refuses (R83). -/
def etherTypeOk (e : Nat) : Bool :=
  decide (0x0600 ≤ e ∧ e ≤ 0xFFFF ∧ e ≠ 0x0800 ∧ e ≠ 0x8100 ∧ e ≠ 0x88A8 ∧ e ≠ 0x88F7)

/-- `p` holds of an item where it is given. -/
def given {α : Type} (o : Option α) (p : α → Bool) : Bool := match o with | some a => p a | none => true

/-- Port parameters within their ranges; the packet limit against the maximum of R85 for the port's framing (R83, R84, R111). -/
def portParamOk (old : PortParam) (q : PortParamReq) : Bool :=
  let udp := match q.udpEn with | some e => decide (e = 1) | none => old.udpEn
  decide (q.port ≤ 1) && given q.etherType etherTypeOk &&
    given q.vlan (fun v => decide (v.1 ≤ 1 ∧ v.2.1 ≤ 4095 ∧ v.2.2 ≤ 7)) && given q.udpEn (fun e => decide (e ≤ 1)) &&
    given q.udpPort (fun n => decide (n ≤ 65535)) && given q.dscp (fun n => decide (n ≤ 63)) &&
    given q.pktLimit fun n => decide (2048 ≤ n ∧ n ≤ if udp then 9188 else 9216)

/-- Port parameters with the given items replaced. -/
def mergeParam (p : PortParam) (q : PortParamReq) : PortParam :=
  { localMac := q.localMac.getD p.localMac, hostMac := q.hostMac.getD p.hostMac, etherType := q.etherType.getD p.etherType,
    vlan := q.vlan.getD p.vlan, udpEn := match q.udpEn with | some e => decide (e = 1) | none => p.udpEn,
    localIp := q.localIp.getD p.localIp, hostIp := q.hostIp.getD p.hostIp, udpPort := q.udpPort.getD p.udpPort,
    dscp := q.dscp.getD p.dscp, pktLimit := q.pktLimit.getD p.pktLimit }

def putParam (s : State) (q : PortParamReq) : State :=
  if q.port = 0 then { s with fh := { s.fh with paramA := mergeParam s.fh.paramA q } }
  else { s with fh := { s.fh with paramB := mergeParam s.fh.paramB q } }

/-- FH_PORT_PARAM. -/
def execFhPortParam (h : CmdHdr) (q : PortParamReq) (s : State) : Out :=
  .next (ccpRun h 0x0031 (.fhPortParam h q) (fun _ s =>
    if !portParamOk (paramOf s q.port) q then (s, fail stBadConfig) else (putParam s q, ok)) s)

/-- The FEC of a port in a configuration: RS, but in 0x5 and 0x6 as chosen (R77, R80). -/
def fecOf (config v : Nat) : Nat := if 5 ≤ config then v else 1

/-- The values of FEC and IFACE that a configuration allows; those of an absent port B are ignored (R79, R80). -/
def portConfigOk (config : Nat) (fec iface : Option (Nat × Nat)) : Bool :=
  let hasB := decide (portLanes config 1 ≠ [])
  let fecOk (v : Nat) : Bool := decide (v = 1 ∨ (v = 0 ∧ 5 ≤ config))
  decide (config ≤ 6) && given fec (fun f => fecOk f.1 && (!hasB || fecOk f.2)) &&
    given iface fun i => decide (i.1 ≤ 2) && (!hasB || decide (i.2 ≤ 2))

/-- Takes every lane down, and with it what waits there; LINK_DOWN for each that was up (R78, R113). -/
def lanesDown (s : State) : State :=
  loseFrames ((List.range 4).foldl (fun s l =>
    if laneUp s l then raise { s with fh := { s.fh with linkUp := put s.fh.linkUp l false } } 0x17 l [(l : Int)] else s) s)

/-- Twelve times the bits of one complex sample at a mantissa width (R34). -/
def bits12 (mant : Nat) : Nat := if mant = 0 then 384 else 24 * mant + 8

/-- Twelve times the uplink demand in kb/s, at the widths that `w` gives (R34). -/
def demand12 (m : Mode) (c : ModeCfg) (w : Nat → Nat) : Nat :=
  let e := effOf m c
  let half (i : Nat) : Nat := ofHalf c.ulBeams i * ofHalf c.rateKsps i * bits12 (w (ofHalf c.mantW i))
  half 0 + (if e = .split then half 1 else 0)

/-- Check 10 (R34, R120): port A, and in CHAIN port B with the width of the partial sums. -/
def capacityOk (s : State) (m : Mode) (c : ModeCfg) : Bool :=
  let fits (d port : Nat) : Bool := decide (102 * d ≤ portRate s.fh.portConfig port * 1200000)
  !activeMode m ||
    (fits (demand12 m c id) 0 && (decide (m ≠ .chain) || fits (demand12 m c fun w => if w = 0 then 16 else w) 1))

/-- The demand of the mode in force, and of a change in preparation, fits the rates of another port configuration (R34; log entry
155). -/
def portConfigFits (s : State) (config : Nat) : Bool :=
  let t := { s with fh := { s.fh with portConfig := config } }
  capacityOk t s.md.mode s.md.full.cfg && (match s.md.prep with | some p => capacityOk t p.target p.full.cfg | none => true)

/-- A pair of port values that a command gives: the second is ignored where the configuration has no port B (R79, R80). -/
def portPair (config : Nat) (old : Nat × Nat) (q : Option (Nat × Nat)) : Nat × Nat :=
  match q with
  | none => old
  | some v => (v.1, if portLanes config 1 = [] then old.2 else v.2)

/-- FH_PORT_CONFIG: the lanes go down, and the completion follows when they are up again (R78). Without FEC or IFACE the values in force
stay: the model's choice (log entry 101). -/
def execFhPortConfig (h : CmdHdr) (config : Nat) (fec iface : Option (Nat × Nat)) (s : State) : Out :=
  .next (ccpRun h 0x0030 (.fhPortConfig h config fec iface) (fun _ s =>
    if !portConfigOk config fec iface then (s, fail stBadConfig)
    else if !portConfigFits s config then (s, fail stRefused 0x0A)
    else if s.fh.retrain.isSome then (s, fail stBusy)
    else
      (s, .accept fun s =>
        let f := portPair config s.fh.fec fec
        lanesDown { s with fh := { s.fh with portConfig := config, fec := (fecOf config f.1, fecOf config f.2),
                                             iface := portPair config s.fh.iface iface, retrain := some h } })) s)

/-- FFE taps within R498. -/
def ffeOk (l : List Int) : Bool :=
  decide (l.length = 5) && decide (24 ≤ nth 0 l 2 ∧ nth 0 l 2 ≤ 63) && l.all (fun t => decide (t ≤ 63 ∧ -16 ≤ t)) &&
    [0, 1, 3, 4].all (fun i => decide (nth 0 l i ≤ 16)) && decide ((l.map Int.natAbs).foldl (· + ·) 0 ≤ 63)

/-- FH_EQ. -/
def execFhEq (h : CmdHdr) (lane : Nat) (ffe : Option (List Int)) (ctle : Option Nat) (s : State) : Out :=
  .next (ccpRun h 0x0032 (.fhEq h lane ffe ctle) (fun _ s =>
    if !given ffe (fun l => decide (l.length = 5)) then (s, fail stBadParam 2)
    else if 4 ≤ lane || !given ffe ffeOk || !given ctle (fun c => decide (c ≤ 15)) then (s, fail stBadConfig)
    else
      ({ s with fh := { s.fh with
          ffe := match ffe with | some l => tset [0, 0, 63, 0, 0] s.fh.ffe lane l | none => s.fh.ffe,
          ctle := match ctle with | some c => tset 6 s.fh.ctle lane c | none => s.fh.ctle } }, ok)) s)

/-- L_DL of a configuration in 0.1 µs, with the allowance of the last member; none without a downlink (R107, R116, R141). -/
def modeLatency (m : Mode) (c : ModeCfg) : Option Nat :=
  let e := effOf m c
  if !activeMode e ∨ e = .listen then none
  else
    let l (i : Nat) : Nat := latencyDl (ofHalf c.scsKhz i) (ofHalf c.rateKsps i / max 1 (ofHalf c.scsKhz i))
    some (max (l 0) (if e = .split then l 1 else 0) + (if e = .chain then 20 * c.members else 0))

/-- The windows with the given items, in µs: CS_OPEN, CS_CLOSE, UD_OPEN, UD_CLOSE, ACC_WAIT. -/
def windowsWith (s : State) (q : WindowsReq) : Nat × Nat × Nat × Nat × Nat :=
  (q.csOpen.getD s.fh.csOpen, q.csClose.getD s.fh.csClose, q.udOpen.getD s.fh.udOpen, q.udClose.getD s.fh.udClose,
   q.accWait.getD s.fh.accWait)

/-- The ranges of R107 and R118, and UD_CLOSE against L_DL of the configuration in force. -/
def windowsOk (s : State) (q : WindowsReq) : Bool :=
  let (co, cc, uo, uc, aw) := windowsWith s q
  decide (100 ≤ co ∧ co ≤ 10000 ∧ 50 ≤ cc ∧ cc ≤ 1000 ∧ cc < co ∧ 20 ≤ uo ∧ uo ≤ 10000 ∧ 10 ≤ uc ∧ uc ≤ 1000 ∧ uc < uo ∧
    2 ≤ aw ∧ aw ≤ 50) &&
  (match modeLatency s.md.mode s.md.full.cfg with | some l => decide (l ≤ 10 * uc) | none => true)

def applyWindows (s : State) (q : WindowsReq) : State :=
  let (co, cc, uo, uc, aw) := windowsWith s q
  { s with fh := { s.fh with csOpen := co, csClose := cc, udOpen := uo, udClose := uc, accWait := aw } }

/-- The windows as the changes that wait for their stroke will leave them (R31). -/
def windowsDue (s : State) : State :=
  s.ccp.due.foldl (fun s d => match d.change with | .windows q => applyWindows s q | _ => s) s

/-- FH_WINDOWS: in force at a stroke (R31). It is judged against what waits before it (log entry 156). -/
def execFhWindows (h : CmdHdr) (q : WindowsReq) (s : State) : Out :=
  .next (ccpRun h 0x0033 (.fhWindows h q) (fun id s =>
    if !windowsOk (windowsDue s) q then (s, fail stBadConfig) else defer s h 0x0033 id 0 (.windows q)) s)

/-- FH_STATS: the counters of a port in the order of R122. -/
def execFhStats (h : CmdHdr) (port : Nat) (clear : Option Nat) (s : State) : Out :=
  .next (ccpRun h 0x0034 (.fhStats h port clear) (fun _ s =>
    if 1 < port then (s, fail stBadConfig)
    else
      let r := okR (numTlvs ((List.range 30).map fun k => ((fhCounter s port k : Nat) : Int)))
      if clear.getD 0 = 0 then (s, r)
      else ({ s with fh := { s.fh with counters := s.fh.counters.filter fun e => decide (e.1 / 64 ≠ port) } }, r)) s)

/-! The start-up record (R66) -/

/-- What R66 gives without a record, with an address-map order. -/
def defaultStartup (order : Nat) : StartupReq × Nat :=
  ({ portConfig := 0, portParam := { port := 0, etherType := some 0x88B5 }, pinLimit := 780, slackFloor := 80,
     loKhz := [0, 0, 0, 0] }, order)

/-- A synthesizer frequency in kHz, or 0 for OFF (R229). -/
def loKhzOk (f : Nat) : Bool := decide (f = 0 ∨ (380000 ≤ f ∧ f ≤ 6000000))

def startupOk (q : StartupReq) : Bool :=
  decide (q.portConfig ≤ 6) && portParamOk {} q.portParam && decide (24 ≤ q.pinLimit ∧ q.pinLimit ≤ 780) &&
    decide (20 ≤ q.slackFloor ∧ q.slackFloor ≤ 400) && decide (q.loKhz.length = 4) && q.loKhz.all loKhzOk

/-- STARTUP_WRITE: the record keeps its address-map order; two failed verifications leave the old record (R66, R314, R322). -/
def execStartupWrite (h : CmdHdr) (q : StartupReq) (mismatches : Nat) (s : State) : Out :=
  .next (ccpRun h 0x0004 (.startupWrite h q mismatches) (fun _ s =>
    if q.loKhz.length ≠ 4 then (s, fail stBadParam 5)
    else if !startupOk q then (s, fail stBadConfig)
    else if 2 ≤ mismatches then (s, fail stStoreFail)
    else
      let order := match s.mram.startup with | some r => r.2 | none => s.cave.mapOrder
      ({ s with mram := { s.mram with startup := some (q, order) } }, ok)) s)

/-- A port's parameters as the TLVs of FH_PORT_PARAM. -/
def paramTlvs (q : PortParamReq) : List Tlv :=
  let num (t : Nat) (o : Option Nat) : List Tlv := match o with | some v => [numTlv t (v : Nat)] | none => []
  let mac (t : Nat) (o : Option Nat) : List Tlv := match o with | some v => [{ type := t, value := beBytes 6 v }] | none => []
  numTlv 1 (q.port : Nat) :: (mac 2 q.localMac ++ mac 3 q.hostMac ++ num 4 q.etherType ++
    (match q.vlan with | some v => [numsTlv 5 [(v.1 : Int), (v.2.1 : Int), (v.2.2 : Int)]] | none => []) ++ num 6 q.udpEn ++
    num 7 q.localIp ++ num 8 q.hostIp ++ num 9 q.udpPort ++ num 10 q.dscp ++ num 11 q.pktLimit)

/-- STARTUP_READ: the record, or what R66 gives without one. -/
def execStartupRead (h : CmdHdr) (s : State) : Out :=
  .next (ccpRun h 0x0005 (.startupRead h) (fun _ s =>
    let (q, order) := s.mram.startup.getD (defaultStartup s.cave.mapOrder)
    (s, okR [numTlv 1 (q.portConfig : Nat), { type := 2, value := (paramTlvs q.portParam).flatMap tlvBytes },
             numTlv 3 (q.pinLimit : Nat), numTlv 4 (q.slackFloor : Nat), numsTlv 5 (q.loKhz.map fun (f : Nat) => (f : Int)),
             numTlv 6 (order : Nat), numTlv 7 (if s.mram.startup.isSome then 1 else 0)])) s)

/-! Units (R156 to R161, R507) -/

def kindOf : Nat → Option UnitKind
  | 0 => some .txPath
  | 1 => some .rxPath
  | 2 => some .dlBeam
  | 3 => some .ulBeam
  | 4 => some .loGroup
  | 5 => some .crew
  | _ => none

/-- The half whose grid a unit-state change waits for (R399). -/
def gridOfUnits (s : State) (kind : UnitKind) (units half : Nat) : Nat :=
  match kind with
  | .txPath => gridOfPaths s units
  | .rxPath => gridOfPaths s units
  | .dlBeam => halfIn s half
  | .ulBeam => halfIn s half
  | .loGroup => gridOfGroups s units
  | .crew => if isSplit s ∧ units % 2 ^ 16 = 0 ∧ units ≠ 0 then 1 else 0

/-- UNIT_STATE_SET. -/
def execUnitStateSet (h : CmdHdr) (kind units : Nat) (half : Option Nat) (state failing : Nat) (s : State) : Out :=
  .next (ccpRun h 0x0020 (.unitStateSet h kind units half state failing) (fun id s =>
    match kindOf kind with
    | none => (s, fail stBadConfig)
    | some k =>
      if k = .txPath ∧ namesAbsent s units then (s, fail stUnitAbsent)
      else if beyond units (kindCount k) || decide (1 < state) || decide (1 < half.getD 0) then (s, fail stBadConfig)
      else defer s h 0x0020 id (gridOfUnits s k units (half.getD 0)) (.unitState k units (half.getD 0) (decide (state = 0)) failing)) s)

/-- The byte of a unit in STATES (R507). -/
def stateByte (s : State) (u : Nat) : Nat :=
  let beam (d : Dir) (k : Nat) : Nat :=
    let half := k / 64
    if half = 1 ∧ !isSplit s then 0xFF else if beamCount s d half ≤ k % 64 then 1 else unitState s u
  if u < 128 then unitState s u
  else if u < 256 then beam .dl (u - 128)
  else if u < 384 then beam .ul (u - 256)
  else unitState s u

/-- FABRIC_STATUS. -/
def execFabricStatus (h : CmdHdr) (clear : Option Nat) (s : State) : Out :=
  .next (ccpRun h 0x0021 (.fabricStatus h clear) (fun _ s =>
    let row (t : Tbl Nat) (n : Nat) : List Int := (List.range n).map fun i => ((tget 0 t i : Nat) : Int)
    let r := okR [{ type := 1, value := (List.range 420).map fun u => BitVec.ofNat 8 (stateByte s u) },
      numsTlv 2 (row s.fab.dlRepeat 64), numsTlv 3 (row s.fab.ulDrop 64), numsTlv 4 (row s.fab.seatCorr 32),
      numsTlv 5 (row s.fab.seatProto 32)]
    if clear.getD 0 = 0 then (s, r)
    else ({ s with fab := { s.fab with dlRepeat := [], ulDrop := [], seatCorr := [], seatProto := [] } }, r)) s)

/-- SECTOR_BEAM_SET (R139). -/
def execSectorBeamSet (h : CmdHdr) (dir half beam : Nat) (weights : List Cplx) (s : State) : Out :=
  .next (ccpRun h 0x0022 (.sectorBeamSet h dir half beam weights) (fun id s =>
    if weights.length ≠ 64 then (s, fail stBadParam 4)
    else if 1 < dir ∨ 1 < half ∨ 64 ≤ beam then (s, fail stBadConfig)
    else defer s h 0x0022 id (halfIn s half) (.sectorBeam (if dir = 0 then .dl else .ul) half beam weights)) s)

/-! Thermal and housekeeping reports (R460, R469, R476) -/

/-- STATE: 0 NORMAL, 1 ALERT, 2 WARNING (R476). -/
def thermalCode (s : State) : Nat := if s.th.warning then 2 else if s.th.alert then 1 else 0

/-- A reading as TEMPS gives it (R476). Before the first complete round there is no reading (log entry 45). -/
def tempReading (s : State) (i : Nat) : Int :=
  match s.th.values[i]? with
  | some v => if v < -500 ∨ 1500 < v then -2147483648 else v
  | none => -2147483648

/-- THERMAL_STATUS. -/
def execThermalStatus (h : CmdHdr) (s : State) : Out :=
  .next (ccpRun h 0x0090 (.thermalStatus h) (fun _ s =>
    (s, okR [numsTlv 1 ((List.range 24).map (tempReading s)), { type := 2, value := beBytes 8 s.th.broken },
             numTlv 3 (thermalCode s : Nat), numTlv 4 (satN 32 s.pw.shutdownCnt : Nat)])) s)

/-- Thermal settings within the ranges of R469. -/
def thermalOk (q : ThermalConfigReq) : Bool :=
  given q.pinLimit (fun v => decide (24 ≤ v ∧ v ≤ 780)) && given q.riseLimit (fun v => decide (v ≤ 20)) &&
    given q.warnT (fun v => decide (90 ≤ v ∧ v ≤ 120)) && given q.stepInt fun v => decide (5 ≤ v ∧ v ≤ 300)

/-- Settings waiting for the next round, with later items in place of earlier ones. -/
def mergeThermal (a : Option ThermalConfigReq) (q : ThermalConfigReq) : ThermalConfigReq :=
  match a with
  | none => q
  | some p => { pinLimit := q.pinLimit.or p.pinLimit, riseLimit := q.riseLimit.or p.riseLimit, warnT := q.warnT.or p.warnT,
                stepInt := q.stepInt.or p.stepInt }

/-- THERMAL_CONFIG: each item takes effect at the next round. -/
def execThermalConfig (h : CmdHdr) (q : ThermalConfigReq) (s : State) : Out :=
  .next (ccpRun h 0x0091 (.thermalConfig h q) (fun _ s =>
    if !thermalOk q then (s, fail stBadConfig)
    else ({ s with th := { s.th with next := some (mergeThermal s.th.next q) } }, ok)) s)

/-- HK_READ. -/
def execHkRead (h : CmdHdr) (first count : Nat) (s : State) : Out :=
  .next (ccpRun h 0x0092 (.hkRead h first count) (fun _ s =>
    if count = 0 ∨ 96 < first + count then (s, fail stBadConfig)
    else
      let ch := (List.range count).map (first + ·)
      (s, okR [numsTlv 1 (ch.map fun c => ((nth 0 s.th.codes c : Nat) : Int)), numsTlv 2 (ch.map fun c => nth 0 s.th.values c)])) s)

/-! Memory reports (R321, R322, R364 to R366, R371) -/

/-- Bases of the regions of R27 (R321). -/
def regionBases : List Nat := [0x00000000, 0x48000000, 0x50000000, 0x60000000]

/-- MEM_INFO. -/
def execMemInfo (h : CmdHdr) (s : State) : Out :=
  .next (ccpRun h 0x00A0 (.memInfo h) (fun _ s =>
    (s, okR [{ type := 1, value := regionBases.flatMap (beBytes 8) }, numTlv 2 (s.cave.mapOrder : Nat),
             numTlv 3 (fget s F.caveStatusPhysL0 : Nat), numTlv 4 (fget s F.caveStatusPhysL1 : Nat),
             numTlv 5 (fget s F.miStatusRetired : Nat)])) s)

/-- MEM_CONFIG: the order goes into the start-up record and changes nothing else (R322). -/
def execMemConfig (h : CmdHdr) (mapOrder : Nat) (s : State) : Out :=
  .next (ccpRun h 0x00A1 (.memConfig h mapOrder) (fun _ s =>
    if 2 < mapOrder then (s, fail stBadConfig)
    else
      let (q, _) := s.mram.startup.getD (defaultStartup 2)
      ({ s with mram := { s.mram with startup := some (q, mapOrder) } }, ok)) s)

/-- MEM_SPARE: a migration of the rank named, or of the one that is due; or the health record cleared (R364, R371). -/
def memSpareBody (h : CmdHdr) (op : Nat) (rank : Option Nat) (s : State) : State × Ans :=
  let done : LongOp := { hdr := h, opcode := 0x00A2 }
  if op = 1 then
    if s.md.mode ≠ .standby then (s, fail stWrongMode)
    else (s, .accept fun s =>
      match putRetired s 3 with
      | (s, true) => complete s done stOk 0 []
      | (s, false) => complete s done stStoreFail 0 [])
  else if 1 < op then (s, fail stBadConfig)
  else
    match rank.or s.mi.spareDue with
    | none => (s, fail stBadState)
    | some d =>
      if 2 < d then (s, fail stBadConfig)
      else if fget s F.caveStatusMigrating = 1 then (s, fail stBusy)
      else if fget s F.caveStatusSpareUsed = 1 ∨ (fget s F.caveStatusPhysL0 ≠ d ∧ fget s F.caveStatusPhysL1 ≠ d) then
        (s, fail stBadState)
      else (s, .accept fun s => startMigration { s with mi := { s.mi with spareCmd := some h } } d)

/-- MEM_SPARE. -/
def execMemSpare (h : CmdHdr) (op : Nat) (rank : Option Nat) (s : State) : Out :=
  .next (ccpRun h 0x00A2 (.memSpare h op rank) (fun _ s => memSpareBody h op rank s) s)

/-- The 24 bytes of an entry of the memory error log: their layout is the model's (log entry 41). -/
def memLogBytes (e : MemLogEntry) : List Byte :=
  beBytes 8 e.addr ++ [if e.sram then 1 else 0, BitVec.ofNat 8 e.rank, BitVec.ofNat 8 e.cls, BitVec.ofNat 8 e.reader,
    if e.superseded then 1 else 0, 0, 0, 0] ++ beBytes 8 e.uptime

/-- A report of `n` bytes met a poisoned word at some place: MEM_POISON with the word's offset (R355, R446). -/
def poisonedAt (n word k : Nat) : Ans := .done stMemPoison 0 [numTlv 1 (k % max 1 n / word * word : Nat)] false

/-- MEM_LOG. -/
def execMemLog (h : CmdHdr) (clear poisonAt : Option Nat) (s : State) : Out :=
  .next (ccpRun h 0x00A3 (.memLog h clear poisonAt) (fun _ s =>
    let b := s.mi.log.flatMap memLogBytes
    match poisonAt with
    | some k => if b = [] then (s, okR [{ type := 1, value := [] }]) else (finc s F.poisonReadCnt, poisonedAt b.length 8 k)
    | none =>
      let r := okR [{ type := 1, value := b }]
      if clear.getD 0 = 0 then (s, r) else ({ s with mi := { s.mi with log := [] } }, r)) s)

/-! The event log (R452) -/

/-- The 64 bytes of an entry. -/
def logBytes (e : LogEntry) : List Byte :=
  beBytes 2 e.code ++ beBytes 2 e.heldBack ++ beBytes 6 e.uptime ++ beBytes 2 e.tag ++ e.params.take 52 ++
    List.replicate (52 - e.params.length) 0

/-- The ring with the entries not yet copied to it: its last 65,536. -/
def logAll (s : State) : List LogEntry :=
  let l := s.ccp.logRing ++ s.ccp.logNew
  l.drop (l.length - 65536)

/-- Cox copies the new entries into the ring, once a round. -/
def logCopy (s : State) : State := { s with ccp := { s.ccp with logRing := logAll s, logNew := [] } }

/-- LOG_READ. -/
def execLogRead (h : CmdHdr) (first count : Nat) (poisonAt : Option Nat) (s : State) : Out :=
  .next (ccpRun h 0x00D0 (.logRead h first count poisonAt) (fun _ s =>
    if count = 0 ∨ 120 < count then (s, fail stBadConfig)
    else
      let b := (((logAll s).drop first).take count).flatMap logBytes
      match poisonAt with
      | some k => if b = [] then (s, okR [{ type := 1, value := [] }]) else (finc s F.poisonReadCnt, poisonedAt b.length 32 k)
      | none => (s, okR [{ type := 1, value := b }])) s)

/-- LOG_CLEAR. -/
def execLogClear (h : CmdHdr) (s : State) : Out :=
  .next (ccpRun h 0x00D1 (.logClear h) (fun _ s => ({ s with ccp := { s.ccp with logNew := [], logRing := [] } }, ok)) s)

end Sys2Proof.Machine
end

