-- ==== Sys2Proof/Machine/Firmware.lean ====
section
/-! DEFINITION. Firmware images in MRAM: validity, choice, and the update session (R67, R449, R450). -/

namespace Sys2Proof.Machine

/-- COMMIT of a valid image. -/
def imageCommit : Nat := 0xC0A70F1E

/-- LEN lies in its range (R449). -/
def imageLenOk (n : Nat) : Bool := decide (4 ≤ n ∧ n ≤ 1048512)

/-- The image bytes of a slot. -/
def imageBytes (m : ImageSlot) : List Byte := (List.range m.len).map fun i => tget 0 m.data i

/-- The image bytes match the CRC of the slot's header. -/
def imageCrcOk (m : ImageSlot) : Bool := decide (crc32 (imageBytes m) = m.crc)

/-- A slot is valid (R449). -/
def slotValid (m : ImageSlot) : Bool := decide (m.commit = imageCommit) && imageLenOk m.len && imageCrcOk m

def putSlotImage (s : State) (k : Nat) (m : ImageSlot) : State :=
  if k = 0 then { s with mram := { s.mram with slotA := m } } else { s with mram := { s.mram with slotB := m } }

/-- Of the slots named, the valid one with the higher SEQ, slot A on a tie (R67, R450). -/
def bestSlot (s : State) (among : List Nat) : Option Nat :=
  let ok (k : Nat) : Bool := among.contains k && slotValid (slotImage s k)
  if ok 0 && ok 1 then (if s.mram.slotA.seq < s.mram.slotB.seq then some 1 else some 0)
  else if ok 0 then some 0 else if ok 1 then some 1 else none

/-- The slot that is not running; in RECOVERY slot A, or B where SLOT is 1. -/
def targetSlot (s : State) (slot : Option Nat) : Nat :=
  if s.mram.running = 0 then 1 else if s.mram.running = 1 then 0 else if slot = some 1 then 1 else 0

/-- The session closes; a commit under way that it cuts short completes with BAD_IMAGE (log entry 46). -/
def closeSession (s : State) : State :=
  let s' := { s with mram := { s.mram with session := none, written := 0, commitCmd := none } }
  match s.mram.commitCmd with
  | some h => complete s' { hdr := h, opcode := 0x00E2 } stBadImage 0 []
  | none => s'

/-- FW_BEGIN. -/
def execFwBegin (h : CmdHdr) (len crc build : Nat) (slot : Option Nat) (s : State) : Out :=
  .next (ccpRun h 0x00E0 (.fwBegin h len crc build slot) (fun _ s =>
    if !imageLenOk len then (s, fail stBadConfig)
    else
      let k := targetSlot s slot
      let s := closeSession s
      let s := putSlotImage s k { slotImage s k with commit := 0, len := len, crc := crc, build := build }
      ({ s with mram := { s.mram with session := some k } }, ok)) s)

/-- Writes image bytes from an offset. -/
def writeImage (t : Tbl Byte) (at' : Nat) : List Byte → Tbl Byte
  | [] => t
  | b :: l => writeImage (tset 0 t at' b) (at' + 1) l

/-- FW_WRITE. -/
def execFwWrite (h : CmdHdr) (offset : Nat) (data : List Byte) (s : State) : Out :=
  .next (ccpRun h 0x00E1 (.fwWrite h offset data) (fun _ s =>
    if data.length < 4 ∨ 8180 < data.length then (s, fail stBadParam 2)
    else match s.mram.session with
    | none => (s, fail stBadState)
    | some k =>
      let m := slotImage s k
      if offset % 4 ≠ 0 ∨ ceilDiv m.len 4 * 4 < offset + data.length then (s, fail stBadConfig)
      else
        let s := putSlotImage s k { m with data := writeImage m.data offset data }
        ({ s with mram := { s.mram with written := s.mram.written + data.length } }, ok)) s)

/-- FW_COMMIT: the read-back and the check follow. -/
def execFwCommit (h : CmdHdr) (s : State) : Out :=
  .next (ccpRun h 0x00E2 (.fwCommit h) (fun _ s =>
    if s.mram.session.isNone then (s, fail stBadState)
    else if s.mram.commitCmd.isSome then (s, fail stBusy)
    else (s, .accept fun s => { s with mram := { s.mram with commitCmd := some h } })) s)

/-- The check of a committed image ends. -/
def fwCommitDoneFx (s : State) : State :=
  match s.mram.commitCmd, s.mram.session with
  | some h, some k =>
    let m := slotImage s k
    let op : LongOp := { hdr := h, opcode := 0x00E2 }
    let s := { s with mram := { s.mram with session := none, written := 0, commitCmd := none } }
    if imageCrcOk m then
      let s := putSlotImage s k { m with seq := ((slotImage s (1 - k)).seq + 1) % 2 ^ 64, commit := imageCommit }
      complete s op stOk 0 []
    else complete s op stBadImage 0 []
  | _, _ => s

/-- FW_COMMIT_DONE. -/
def execFwCommitDone (s : State) : Out := .next (fwCommitDoneFx s)

/-- A due change of a long operation, which has had its reply. -/
def Due.long (d : Due) : Bool := decide (d.opcode = 0x0040 ∨ d.opcode = 0x0042)

/-- The state of Cox as a restart leaves it: it no longer takes commands, and the commands that have had no reply are lost
(R30, R427, R440; log entry 47). -/
def coxRestart (s : State) : State :=
  { s with ccp := { s.ccp with restarting := true, inBand := [], mspi := [], doneBand := [], doneMspi := [], replyBand := [],
                               replyMspi := [], due := s.ccp.due.filter Due.long } }

/-- Replies that have their answer leave, and the commands before them that have none are lost to the restart (R30, R439, R450). -/
def sendFilled (s : State) : State :=
  flushReplies { s with ccp := { s.ccp with replyBand := s.ccp.replyBand.filter (fun r => r.reply.isSome),
                                            replyMspi := s.ccp.replyMspi.filter fun r => r.reply.isSome } }

/-- FW_ACTIVATE (R450): its reply is followed by the restart. -/
def execFwActivate (h : CmdHdr) (s : State) : Out :=
  .next (ccpRun h 0x00E3 (.fwActivate h) (fun _ s =>
    let go (k : Nat) (s : State) : State :=
      coxRestart { sendFilled s with mram := { s.mram with running := k, trial := some h } }
    if s.md.mode = .recovery then
      match bestSlot s [0, 1] with
      | none => (s, fail stBadState)
      | some k => (s, .accept fun s => go k { s with md := { s.md with mode := .boot } })
    else
      let k := 1 - s.mram.running
      if slotValid (slotImage s k) && decide ((slotImage s s.mram.running).seq < (slotImage s k).seq) then (s, .accept (go k))
      else (s, fail stBadState)) s)

/-- FW_STATUS. -/
def execFwStatus (h : CmdHdr) (s : State) : Out :=
  .next (ccpRun h 0x00E4 (.fwStatus h) (fun _ s =>
    let a := s.mram.slotA
    let b := s.mram.slotB
    let v (m : ImageSlot) : Int := if slotValid m then 1 else 0
    (s, okR [numsTlv 1 [v a, v b], numsTlv 2 [(a.seq : Int), (b.seq : Int)], numsTlv 3 [(a.len : Int), (b.len : Int)],
             numsTlv 4 [(a.build : Int), (b.build : Int)], numTlv 5 (s.mram.running : Nat),
             numTlv 6 (if s.mram.session.isSome then 1 else 0), numTlv 7 (s.mram.written : Nat)])) s)

end Sys2Proof.Machine
end

