-- ==== Sys2Proof/Machine/Kernel.lean ====
section
/-! DEFINITION. Customer combiners: the loader's checks of a kernel image, and the kernel commands (R165, R170 to R172, R177, R178,
R181, R189 to R191). -/

namespace Sys2Proof.Machine

/-! Flow (R178; R190, check 5) -/

def isLoop (w : Word) : Bool := decide (opOf w = 0x17)
def isBranch (w : Word) : Bool := decide (0x18 ≤ opOf w ∧ opOf w ≤ 0x1A)
def lendOf (w : Word) : Nat := getBits w 14 8
def targetOf (w : Word) : Nat := getBits w 0 8

/-- The bodies of a kernel's loops: offset of the LOOP, first and last offset of its body. -/
def loopBodies (l : List Word) : List (Nat × Nat × Nat) :=
  (l.zipIdx.filter fun e => isLoop e.1).map fun e => (e.2, e.2 + 1, lendOf e.1)

def inBody (b : Nat × Nat × Nat) (o : Nat) : Bool := decide (b.2.1 ≤ o ∧ o ≤ b.2.2)

/-- The flow rules of R178. -/
def flowOk (l : List Word) : Bool :=
  let n := l.length
  let bodies := loopBodies l
  let branches := l.zipIdx.filter fun e => isBranch e.1
  (match l.getLast? with | some w => decide (opOf w = 0x00 ∨ opOf w = 0x18) | none => false) &&
  branches.all (fun e => decide (targetOf e.1 < n)) &&
  bodies.all (fun b => decide (b.2.2 < n)) &&
  branches.all (fun e => bodies.all fun b => !inBody b (targetOf e.1) || inBody b e.2) &&
  bodies.all (fun b => decide ((bodies.filter fun c => inBody c b.1).length ≤ 1)) &&
  bodies.all fun b => match l[b.2.2]? with
    | some w => !(isLoop w || isBranch w || decide (opOf w = 0x00))
    | none => false

/-! The image (R189) -/

/-- The instruction words of an image. -/
def kernelCode (k : KernelImage) : List Word := k.words.drop 4

/-- The CRC of an image's instruction words, each most significant byte first (R12). -/
def kernelCrc (k : KernelImage) : Nat := crc32 ((kernelCode k).flatMap fun w => beBytes 4 w.toNat)

/-- The detail code of the first check of R190 that fails. -/
def imageFault (k : KernelImage) : Option Nat :=
  let w (i : Nat) : Word := nth 0 k.words i
  if getBits (w 0) 16 16 ≠ 1 ∨ getBits (w 0) 8 8 ≠ 2 ∨ getBits (w 0) 0 8 ≠ 0 ∨ getBits (w 1) 8 24 ≠ 0 then some 1
  else if KernelImage.length k < 1 ∨ 124 < KernelImage.length k ∨ k.words.length ≠ 4 + KernelImage.length k then some 2
  else if (w 2).toNat ≠ kernelCrc k then some 3
  else if !(kernelCode k).all wordValid then some 4
  else if !flowOk (kernelCode k) then some 5
  else none

/-! Commands (R190, R191) -/

/-- KERNEL_INSTALL. Its PARAM is the image itself; an empty one fails check 4 of R438, and a store that fails is STORE_FAIL (R441). -/
def execKernelInstall (h : CmdHdr) (image : KernelImage) (s : State) : Out :=
  .next (ccpRun h 0x0023 (.kernelInstall h image) (fun _ s =>
    if image.words = [] then (s, fail stBadLen)
    else
      match imageFault image with
      | some d => (s, fail stBadConfig d)
      | none =>
        match putKernel s image with
        | (s, true) => (s, ok)
        | (s, false) => (s, fail stStoreFail)) s)

/-- KERNEL_REMOVE. -/
def execKernelRemove (h : CmdHdr) (s : State) : Out :=
  .next (ccpRun h 0x0024 (.kernelRemove h) (fun _ s => (clearRecord s kernelOwner, ok)) s)

/-- A crew of the mode in force holds the customer's combiner. -/
def kernelLoaded (s : State) : Bool := s.fab.loads.any fun e => e.2.customer.isSome

/-- KERNEL_STATUS. -/
def execKernelStatus (h : CmdHdr) (s : State) : Out :=
  .next (ccpRun h 0x0025 (.kernelStatus h) (fun _ s =>
    let b (c : Bool) : Int := if c then 1 else 0
    let build := match storedKernel s with | some k => (nth 0 k.words 3).toNat | none => 0
    (s, okR (numTlvs [b (kernelKept s), (build : Int), b (kernelCopyOk s 0), b (kernelCopyOk s 1), b (kernelLoaded s)]))) s)

end Sys2Proof.Machine
end

