-- ==== Sys2Proof/Machine/Modes.lean ====
section
/-! DEFINITION. Operating modes: configurations and their completion, admission, preparation, the effective stroke and
step-down (R39 to R64, R505, R506). -/

namespace Sys2Proof.Machine

/-! Configurations (R39, R44 to R47, R505, R506) -/

/-- The mode's beam limit per direction, per half in SPLIT (R39). -/
def beamLimit (m : Mode) : Nat :=
  match m with
  | .listen => 64
  | .dense | .chain => 32
  | _ => 16

/-- The beam-side rates of a mode in ksps (R39, R224). -/
def modeRates (m : Mode) : List Nat :=
  match m with
  | .listen => [30720, 61440]
  | .wide => [30720, 61440, 122880, 245760, 491520]
  | _ => [30720, 61440, 122880]

/-- Admission power in 0.1 W (R39). -/
def admission (m : Mode) : Nat :=
  match m with
  | .dormant => 24
  | .standby => 180
  | .listen => 420
  | .dense => 700
  | .split => 720
  | .chain => 750
  | .wide | .service => 780
  | _ => 0

/-- The defaults of R44. -/
def defaultCfg (m : Mode) : ModeCfg :=
  let n := beamLimit m
  let f := if m = .listen then 61440 else 122880
  { dlBeams := if m = .listen then (0, 0) else (n, n), ulBeams := (n, n), rateKsps := (f, f) }

/-- The configuration with which a mode was last entered, else its defaults (R44). -/
def storedFull (s : State) (m : Mode) : ModeFull :=
  let f := tget {} s.md.stored (modeCode m)
  if f = {} then { cfg := defaultCfg m } else f

/-- A per-half item completed from a stored pair; outside SPLIT a second number is ignored (R429). -/
def takePair (split : Bool) (old : Nat × Nat) (q : Option Halves) : Nat × Nat :=
  match q with
  | none => old
  | some v => (unsign 32 v.h0, if split then (match v.h1 with | some x => unsign 32 x | none => old.2) else old.2)

/-- The base mode that SERVICE items name: the command's, else that of the last entry of SERVICE, else DENSE (R44, R47). -/
def baseOf (s : State) (q : ModeItems) : Option Mode :=
  match q.base with
  | none => some (storedFull s .service).cfg.base
  | some c => if c ∈ [3, 4, 5, 6] then modeOf c else none

/-- What completes a command for a mode: the configuration of its last entry; in SERVICE that of the last SERVICE of the same base
mode, else the base mode's own (R44, R47). -/
def completeFull (s : State) (m base : Mode) : ModeFull :=
  if m = .service then
    let own := storedFull s .service
    if tget {} s.md.stored (modeCode .service) ≠ {} ∧ own.cfg.base = base then own else storedFull s base
  else storedFull s m

/-- The items that complete a command for a mode. -/
def completeFrom (s : State) (m base : Mode) : ModeCfg := (completeFull s m base).cfg

/-- A command's items completed (R44, R47): only the items listed for the mode are taken. -/
def completeItems (s : State) (m base : Mode) (q : ModeItems) : ModeCfg :=
  let e := if m = .service then base else m
  let sp := decide (e = .split)
  let o := completeFrom s m base
  { dlBeams := if e = .listen then (0, 0) else takePair sp o.dlBeams q.dlBeams, ulBeams := takePair sp o.ulBeams q.ulBeams,
    rateKsps := takePair sp o.rateKsps q.rateKsps, scsKhz := takePair sp o.scsKhz q.scsKhz, mantW := takePair sp o.mantW q.mantW,
    loKhz := q.loKhz.getD [],
    role := if m = .chain then q.role.getD o.role else 1, members := if m = .chain then q.members.getD o.members else 3,
    base := base, test := if m = .service then q.test.getD o.test else 0 }

/-- A per-half item's value holds for each half the mode has. -/
def eachHalf (split : Bool) (f : Nat → Bool) : Bool := f 0 && (!split || f 1)

/-- The ranges of R44 and R45. -/
def rangesOk (m : Mode) (c : ModeCfg) : Bool :=
  let e := effOf m c
  let n := beamLimit e
  eachHalf (decide (e = .split)) (fun i =>
    let f := ofHalf c.rateKsps i
    let k := ofHalf c.scsKhz i
    decide (1 ≤ ofHalf c.ulBeams i ∧ ofHalf c.ulBeams i ≤ n) &&
    decide (e = .listen ∨ (1 ≤ ofHalf c.dlBeams i ∧ ofHalf c.dlBeams i ≤ n)) &&
    decide (f ∈ modeRates e) && decide (k ∈ [15, 30, 60, 120]) && decide (f / k ∈ [256, 512, 1024, 2048, 4096]) &&
    decide (ofHalf c.mantW i ∈ [0, 9, 12, 16])) &&
  decide (m ≠ .chain ∨ (c.role ≤ 1 ∧ 1 ≤ c.members ∧ c.members ≤ 3)) && decide (m ≠ .service ∨ c.test ≤ 1)

/-- R46 for four centre frequencies: equal per half in SPLIT, all equal otherwise. -/
def freqsEqual (split : Bool) (l : List Nat) : Bool :=
  if split then decide (nth 0 l 0 = nth 0 l 1 ∧ nth 0 l 2 = nth 0 l 3)
  else decide (nth 0 l 0 = nth 0 l 1 ∧ nth 0 l 1 = nth 0 l 2 ∧ nth 0 l 2 = nth 0 l 3)

/-- The groups that a mode uses: those IN_SERVICE (check 5 of R48). -/
def usedGroups (s : State) : List Nat := (List.range 4).filter fun g => decide (unitState s (uLo g) = 0)

/-- Centre frequencies (R44, R46): those given in range, or the groups' own, each group in use having one. A group out of use that
has never been tuned has none to compare (log entry 153). -/
def freqsOk (s : State) (split : Bool) (l : List Nat) : Bool :=
  if l ≠ [] then (l.all fun f => decide (380000 ≤ f ∧ f ≤ 6000000)) && freqsEqual split l
  else
    let f (g : Nat) : Nat := fget s F.loFreq g
    let absent (g : Nat) : Bool := decide (g ∉ usedGroups s) && decide (f g = 0)
    let own (a b : Nat) : Bool := absent a || absent b || decide (f a = f b)
    ((usedGroups s).all fun g => decide (f g ≠ 0)) && own 0 1 && own 2 3 && (split || (own 0 2 && own 0 3 && own 1 2 && own 1 3))

/-- The carrier items against a configuration (R262, R263, R267, R505). -/
def carrierOk (s : State) (m : Mode) (c : ModeCfg) : Bool :=
  eachHalf (decide (effOf m c = .split)) (fun i =>
    let f := ofHalf c.rateKsps i
    let n := f / max 1 (ofHalf c.scsKhz i)
    decide (16 * (ofHalf s.rf.nco i).natAbs ≤ 1000 * f) && decide (ofHalf s.rf.nPrb i ≤ n / 15) &&
      decide (ofHalf s.rf.fftAdv i ≤ ((144 * n / 2048 : Nat) : Int)))

/-- The customer combiner fits the mode (R153, R192). -/
def kernelFits (s : State) (m : Mode) : Bool :=
  match storedKernel s with
  | some k => decide (KernelImage.length k ≤ kernelLimit m)
  | none => true

/-- Check 3 of R48 on a completed configuration; a fallback that omits the centre frequency is not judged on it (R506). -/
def modeConfigOk (s : State) (m : Mode) (c : ModeCfg) (isFallback : Bool) : Bool :=
  let e := effOf m c
  rangesOk m c && (decide (isFallback ∧ c.loKhz = []) || freqsOk s (decide (e = .split)) c.loKhz) &&
    (match modeLatency m c with | some l => decide (l ≤ 10 * s.fh.udClose) | none => true) && carrierOk s m c && kernelFits s e

/-- The step-down target of a mode (R63). -/
def ladder (m : Mode) : Option Mode :=
  match m with
  | .wide | .chain => some .dense
  | .dense => some .listen
  | .split | .service | .listen => some .standby
  | _ => none

/-- A LISTEN command's downlink beam count is none or zero (R45). -/
def listenDlOk (m : Mode) (q : ModeItems) : Bool :=
  decide (m ≠ .listen) || (match q.dlBeams with | some v => decide (v.h0 = 0) | none => true)

/-- The fallbacks a command carries for a mode, completed under R506; none where one breaks a rule. Without the item, the stored
fallbacks of the mode stand (R44). SERVICE carries those of its base mode, judged as for it (R47); its ladder never uses them (R63). -/
def completeFallbacks (s : State) (m base : Mode) (l : List ModeItems) : Option (List ModeCfg) :=
  match (if m = .service then base else m), l with
  | .wide, [] | .chain, [] | .dense, [] => some (completeFull s m base).fallbacks
  | .wide, d :: rest | .chain, d :: rest =>
    if d.target ≠ modeCode .dense then none
    else
      let cd := completeItems s .dense .dense d
      if !modeConfigOk s .dense cd true then none
      else
        match rest with
        | [] => some (cd :: (storedFull s .dense).fallbacks)
        | q :: _ =>
          let cl := completeItems s .listen .dense q
          if q.target = modeCode .listen ∧ listenDlOk .listen q ∧ modeConfigOk s .listen cl true then some [cd, cl] else none
  | .dense, q :: _ =>
    let cl := completeItems s .listen .dense q
    if q.target = modeCode .listen ∧ listenDlOk .listen q ∧ modeConfigOk s .listen cl true then some [cl] else none
  | _, _ => some []

/-! Admission (R48 to R53) -/

/-- The changes that a mode command may request (R56). -/
def transitionOk (s : State) (t : Mode) (c : ModeCfg) : Bool :=
  match s.md.mode with
  | .standby => decide (t = .dormant ∨ t = .standby) || activeMode t
  | .listen | .dense | .wide => decide (t = .standby ∨ t = .listen ∨ t = .dense ∨ t = .wide)
  | .split => decide (t = .standby ∨ t = .split)
  | .chain => decide (t = .standby ∨ (t = .chain ∧ c.role = s.md.full.cfg.role ∧ c.members = s.md.full.cfg.members))
  | .service => decide (t = .standby)
  | _ => false

/-- Check 2 of R48. -/
def modeBusy (s : State) (t : Mode) : Bool :=
  s.md.prep.isSome || stepping s || (decide (t = .dormant) && (hostDmaRuns s || s.ws.transfer.isSome))

/-- Check 5: the PLLs are locked, and each group in use is locked at the frequency or can be tuned. -/
def lockOk (s : State) (t : Mode) (c : ModeCfg) : Bool :=
  !activeMode t ||
    (s.pw.refPll && s.pw.cpll && (usedGroups s).all fun g => decide (c.loKhz ≠ [] ∨ fget s F.loFreq g ≠ 0))

/-- Check 6: the time has been set. -/
def timeOk (s : State) (t : Mode) : Bool :=
  decide (t = .service) || !activeMode t || decide (timeState s ≠ tsUnset)

/-- The physical ranks, and so the dies, in service (R320, R342). -/
def diesInService (s : State) : List Nat := [fget s F.caveStatusPhysL0, fget s F.caveStatusPhysL1]

/-- The die of an in-service rank reads above 105 °C (R50, R333). -/
def dramHot (s : State) : Bool := (diesInService s).any fun d => decide (1050 < dramTemp s d)

/-- Check 7 (R50). -/
def thermalOkFor (s : State) (t : Mode) : Bool :=
  !(s.th.warning || s.th.alert || dramHot s) || decide (admission t ≤ admission s.md.mode)

/-- P_AVAIL in mW (R51). -/
def pAvail (s : State) : Int :=
  let v : Int := lowestVin s
  let p : Int := if 8000 ≤ v then 78000 else 66000 + 6 * (v - 6000)
  min p (100 * (s.th.pinLimit : Int))

/-- Check 8 (R51). -/
def powerOk (s : State) (t : Mode) : Bool := decide (100 * (admission t : Int) ≤ pAvail s)

/-- The slack floor in force, in 0.1 % (R146). -/
def slackFloor (s : State) : Nat :=
  let t := fabricTemp s
  fget s F.fabSlackCfgSlackFloor + (if t < 100 then 30 else if 1100 ≤ t then 40 else 0)

/-- The beamforming load L in units of 1,000 operations per second (R52). -/
def fabricLoad (s : State) (m : Mode) (c : ModeCfg) : Nat :=
  let e := effOf m c
  let half (i : Nat) : Nat :=
    let rx := if e = .split then 32 else 64
    let tx := if s.part = .vk6432 then rx / 2 else rx
    4 * (rx * ofHalf c.ulBeams i + tx * (if e = .listen then 0 else ofHalf c.dlBeams i)) * ofHalf c.rateKsps i
  if !activeMode e then 0 else half 0 + (if e = .split then half 1 else 0)

/-- Check 9 (R52). -/
def fabricOk (s : State) (m : Mode) (c : ModeCfg) : Bool :=
  let e := effOf m c
  let k := if e = .listen ∨ e = .dense then 31 else 32
  decide (32 * fabricLoad s m c ≤ (1000 - slackFloor s) * 2048 * fget s F.fabSpeedSpeedMax * k)

/-- Check 11 (R53). How long a member's last record counts is not stated: the model's records never expire and outlive a link loss
(log entry 154). -/
def chainOk (s : State) (m : Mode) (c : ModeCfg) : Bool :=
  decide (m ≠ .chain) ||
    (if c.role = 1 then decide (fget s F.timeStatusChainAligned = 1)
     else (List.range c.members).all fun i =>
      match tget none s.fh.records (i + 1) with
      | some r => decide (r.position = i + 1 ∧ r.mode = modeCode .chain) && r.aligned
      | none => false)

/-- The first check that fails among some, by its code. -/
def firstFail (l : List (Nat × Bool)) : Option Nat := (l.find? fun p => !p.2).map fun p => p.1

/-- Checks 5 to 11 (R48, R54). -/
def checks5 (s : State) (t : Mode) (c : ModeCfg) : List (Nat × Bool) :=
  [(5, lockOk s t c), (6, timeOk s t), (7, thermalOkFor s t), (8, powerOk s t), (9, fabricOk s t c), (10, capacityOk s t c),
   (11, chainOk s t c)]

/-- Checks 5, 6, 9, 10 and 11: the recheck of a step-down (R63). -/
def checksDown (s : State) (t : Mode) (c : ModeCfg) : List (Nat × Bool) :=
  (checks5 s t c).filter fun p => decide (p.1 ≠ 7 ∧ p.1 ≠ 8)

/-- NO_FALLBACK and COX_RESTART as reasons (R48). -/
def rCoxRestart : Nat := 0x0C
def rNoFallback : Nat := 0x0D

/-! MODE_SET (R44 to R49, R57, R60) -/

/-- The TYPE of the first per-half item of a block that lacks its second number where SPLIT needs it (R429). -/
def lackingHalf (split : Bool) (q : ModeItems) : Option Nat :=
  firstAt [(2, lacksHalf split q.dlBeams), (3, lacksHalf split q.ulBeams), (4, lacksHalf split q.rateKsps),
    (5, lacksHalf split q.scsKhz), (6, lacksHalf split q.mantW),
    (7, match q.loKhz with | some l => decide (l.length ≠ 4) | none => false)]

/-- The mode a block concerns is SPLIT, or SERVICE on SPLIT (R429). -/
def blockSplit (s : State) (q : ModeItems) : Bool :=
  decide (q.target = modeCode .split) || (decide (q.target = modeCode .service) && decide (baseOf s q = some .split))

/-- Checks 1 to 11 of R48 on a command: the reason of the first that fails, or the mode and its completed configuration. -/
def judgeMode (s : State) (q : ModeReq) : Nat ⊕ (Mode × ModeFull) :=
  match modeOf q.items.target with
  | none => .inl 1
  | some t =>
    let base := (baseOf s q.items).getD .dense
    let c := completeItems s t base q.items
    if !transitionOk s t c then .inl 1
    else if modeBusy s t then .inl 2
    else if !activeMode t then
      match firstFail (checks5 s t {}) with
      | some k => .inl k
      | none => .inr (t, {})
    else
      let e := effOf t c
      match (if (decide (t ≠ .service) || (baseOf s q.items).isSome) && listenDlOk e q.items && modeConfigOk s t c false
          then completeFallbacks s t base q.fallbacks else none) with
      | none => .inl 3
      | some fb =>
        match firstFail ((4, decide (t ≠ .chain ∨ portLanes s.fh.portConfig 1 ≠ [])) :: checks5 s t c) with
        | some k => .inl k
        | none => .inr (t, { cfg := c, fallbacks := fb })

/-- MODE_SET. -/
def modeSetBody (h : CmdHdr) (q : ModeReq) (s : State) : State × Ans :=
  match lackingHalf (blockSplit s q.items) q.items with
  | some t => (s, fail stBadParam t)
  | none =>
    if q.fallbacks.any fun b => (lackingHalf (blockSplit s b) b).isSome then (s, fail stBadParam 10)
    else
      match judgeMode s q with
      | .inl k => (s, fail stRefused k)
      | .inr (t, f) =>
        (s, .accept fun s =>
          { s with md := { s.md with prep := some { target := t, full := f, cmd := some h } },
                   fab := { s.fab with loads := if activeMode s.md.mode then s.fab.loads else [] },
                   pw := if t = .dormant then { s.pw with entering := some h } else s.pw })

/-- MODE_SET. -/
def execModeSet (h : CmdHdr) (q : ModeReq) (s : State) : Out :=
  .next (ccpRun h 0x0010 (.modeSet h q) (fun _ s => modeSetBody h q s) s)

/-! MODE_STATUS (R59, R62, R63) -/

/-- A number, or one for each half, as a TLV. -/
def halfTlv (split : Bool) (type : Nat) (p : Nat × Nat) : Tlv :=
  numsTlv type (if split then [(p.1 : Int), (p.2 : Int)] else [(p.1 : Int)])

/-- The TLVs of MODE_SET that give a configuration, with the block of its fallbacks. `lo`: the frequencies of a mode in force. -/
def configTlvs (m : Mode) (c : ModeCfg) (lo : List Nat) (fallback : List Tlv) : List Tlv :=
  let e := effOf m c
  let sp := decide (e = .split)
  [numTlv 1 (modeCode m : Nat)] ++
  (if !activeMode m then []
   else
    (if e = .listen then [] else [halfTlv sp 2 c.dlBeams]) ++
    [halfTlv sp 3 c.ulBeams, halfTlv sp 4 c.rateKsps, halfTlv sp 5 c.scsKhz, halfTlv sp 6 c.mantW] ++
    (if lo = [] then [] else [numsTlv 7 (lo.map fun (f : Nat) => (f : Int))]) ++
    (if m = .chain then [numTlv 8 (c.role : Nat), numTlv 9 (c.members : Nat)] else []) ++ fallback ++
    (if m = .service then [numTlv 11 (modeCode c.base : Nat), numTlv 12 (c.test : Nat)] else []))

/-- The FALLBACK item of a mode with stored fallbacks: DENSE holds a LISTEN inside it, DENSE itself a LISTEN. -/
def fallbackTlvs (m : Mode) (l : List ModeCfg) : List Tlv :=
  let block (m : Mode) (c : ModeCfg) (inner : List Tlv) : List Tlv :=
    [{ type := 10, value := (configTlvs m c c.loKhz inner).flatMap tlvBytes }]
  match m, l with
  | .dense, c :: _ => block .listen c []
  | .wide, c :: r | .chain, c :: r => block .dense c (match r with | d :: _ => block .listen d [] | [] => [])
  | _, _ => []

/-- MODE_STATUS. -/
def execModeStatus (h : CmdHdr) (clear : Option Nat) (s : State) : Out :=
  .next (ccpRun h 0x0011 (.modeStatus h clear) (fun _ s =>
    let lo := (List.range 4).map fun g => fget s F.loFreq g
    let cfg := configTlvs s.md.mode s.md.full.cfg lo (fallbackTlvs (effOf s.md.mode s.md.full.cfg) s.md.full.fallbacks)
    let rs : List Tlv := [numTlv 1 (modeCode s.md.mode : Nat), numTlv 2 (if s.md.prep.isSome then 1 else 0),
      numTlv 3 (s.md.dropCnt : Nat), numTlv 4 (s.md.stepdownCnt : Nat), { type := 5, value := cfg.flatMap tlvBytes }]
    (if clear.getD 0 = 0 then s else { s with md := { s.md with dropCnt := 0, stepdownCnt := 0 } }, okR rs)) s)

end Sys2Proof.Machine
end

