-- ==== Sys2Proof/Machine/Strokes.lean ====
section
/-! DEFINITION. Strokes: the effective stroke of a mode change, step-downs, the changes due at a stroke and what every stroke
does (R31, R54 to R64, R398 to R400, R414). -/

namespace Sys2Proof.Machine

/-! Leaving and entering a mode (R52, R54, R58, R59, R142, R148, R152, R224, R505) -/

/-- Ends what seats run. -/
def idleSeats (s : State) : State :=
  (s.fab.seats.map Prod.fst).foldl (fun s n =>
    putSeat s n { seatOf s n with running := false, wait := none, loops := [], inq := [], feed := [], rin := [], out := [], red := none }) s

/-- The data plane's work in progress is discarded and its banks are cleared (R59, R142). -/
def clearPlane (s : State) : State :=
  judgePanic (idleSeats { s with
    fh := { s.fh with sections := [], waits := [], taken := [], dlData := [], partials := [], accs := [] },
    fab := { s.fab with items := [], symbols := [], ulIn := [], dlOut := [], ulOut := [], loopIn := [], formed := [], mismatch := [] },
    ws := { s.ws with reads := s.ws.reads.filter fun r => r.est.isSome, prefetch := [], results := [] } })

/-- Groups outside OFF, CAL and SETTLE stand in LOCKED, and every DAC input is held at zero (R59, R226, R241). -/
def parkGroups (s : State) : State :=
  (List.range 4).foldl (fun s g => if rsmLocked < rsm s g then setRsm s g rsmLocked else s) (quietTx s (List.range 64))

/-- Estimation items and previous weights end with the mode (R152, R213); an unfinished item counts as abandoned (R132). -/
def dropEstimates (s : State) : State :=
  let n := s.fab.est.length
  judgePanic (finc { s with fab := { s.fab with est := [], prev := [] }, ws := { s.ws with reads := [] } } F.estAbandonCnt 0 n)

/-- The carrier items that a configuration resolves (R262, R263, R266, R267, R505), and the filter corners (R224). -/
def resolveCarrier (m : Mode) (c : ModeCfg) (s : State) : State :=
  let part (i : Nat) : Nat := if effOf m c = .split then i else 0
  let n (i : Nat) : Nat := ofHalf c.rateKsps (part i) / max 1 (ofHalf c.scsKhz (part i))
  let prbs (i : Nat) : Nat := let v := ofHalf s.rf.nPrb (part i); if v = 0 then n i / 15 else v
  let shift (p : Int × Int) (i : Nat) : Nat := let v := ofHalf p (part i); if v < 0 then Nat.log2 (n i) / 2 else v.toNat
  let adv (i : Nat) : Nat := let v := ofHalf s.rf.fftAdv (part i); if v < 0 then 144 * n i / 2048 / 4 else v.toNat
  { s with rf := { s.rf with
      ncoF := (ofHalf s.rf.nco (part 0), ofHalf s.rf.nco (part 1)), nPrbF := (prbs 0, prbs 1),
      ofdmDlF := (shift s.rf.ofdmDl 0, shift s.rf.ofdmDl 1), ofdmUlF := (shift s.rf.ofdmUl 0, shift s.rf.ofdmUl 1),
      fftAdvF := (adv 0, adv 1), phaseCompF := s.rf.phaseComp,
      corner := (ofHalf c.rateKsps (part 0) / 2048, ofHalf c.rateKsps (part 1) / 2048) } }

/-- VFAB in mV, *above* and LOOP_EN at the effective stroke of a mode (R148, R150). -/
def enterFabric (t : Mode) (s : State) : State :=
  let s := fset { s with fab := { s.fab with above := 0 } } F.fabStatusVfabMv 0 (if activeMode t then 900 else 700)
  if t = .service then s else fset s F.fabVfabCfgLoopEn 0 1

/-- A mode comes into force at its effective stroke; in STANDBY the last configuration stays as the one the grid of `F` has. -/
def enterMode (t : Mode) (f : ModeFull) (s : State) : State :=
  let before := rateOfPath s
  let on := activeMode t
  let s := parkGroups (dropEstimates (clearPlane (interruptRun s)))
  let pos := if t = .chain ∧ s.md.mode ≠ .chain then 1 else s.fh.position
  let s := { s with
    md := { s.md with mode := t, full := if on then f else s.md.full,
                      stored := if on then tset {} s.md.stored (modeCode t) f else s.md.stored,
                      prep := none, powerRounds := 0, effectiveNow := s.tm.now },
    fh := { s.fh with position := pos },
    fab := { s.fab with loads := if on then s.fab.loads else [] },
    rf := { s.rf with loopback := if t = .service then s.rf.loopback else [], ncoStart := slotStart s 0 (strokeSlot s 0) },
    cal := { s.cal with history := [] } }
  let s := enterFabric t s
  let s := if on then resolveCarrier t f.cfg s else s
  let s := rateStops before (rateOfPath s) s
  if on && decide (t ≠ .service) then fitRings s else s

/-! Preparation (R58, R230, R233) -/

/-- A group in use is tuned to the frequency the change gives it, and calibrates where a calibration is pending. -/
def prepGroup (lo : List Nat) (s : State) (g : Nat) : State :=
  let f := if lo = [] then fget s F.loFreq g else nth 0 lo g
  let s := if f ≠ 0 ∧ (f ≠ fget s F.loFreq g ∨ rsm s g = rsmOff) then tuneGroup f s g else s
  if fget s F.rsmStatusCalPend g = 1 ∧ rsm s g ≠ rsmOff ∧ rsm s g ≠ rsmCal then calGroup s g else s

/-- The first stroke after the acceptance of a change to an active mode: the source's data plane stops and the groups are tuned. -/
def beginPrep (p : Prep) (s : State) : State :=
  let s := if activeMode s.md.mode then
      let t := parkGroups (clearPlane s)
      { t with fab := { t.fab with loads := [] } }
    else s
  let s := { s with md := { s.md with prep := some { p with stopped := true } } }
  (usedGroups s).foldl (prepGroup p.full.cfg.loKhz) s

/-- Crews that the preparation has not loaded. -/
def unloaded (s : State) : List Nat := (List.range 32).filter fun c => decide (tget {} s.fab.loads c = {})

/-- A group in use still calibrates or settles. -/
def settling (s : State) : Bool := (usedGroups s).any fun g => decide (rsm s g = rsmCal ∨ rsm s g = rsmSettle)

/-- Preparation ends: the groups have settled, and the crews that are left are loaded. -/
def prepDoneFx (s : State) : State :=
  match s.md.prep with
  | none => s
  | some p =>
    if p.ready || !coxRuns s || decide (p.target = .dormant) then s
    else if !activeMode p.target then { s with md := { s.md with prep := some { p with ready := true } } }
    else if !p.stopped || settling s then s
    else
      let s := (unloaded s).foldl (fun s c => loadCrew s c []) s
      { s with md := { s.md with prep := some { p with ready := true } } }

/-- MODE_PREP_DONE. -/
def execModePrepDone (s : State) : Out := .next (prepDoneFx s)

/-! Step-down (R55, R63, R467, R468) -/

/-- A step-down comes into force: its event and its count. -/
def stepDownDone (s : State) (src : Mode) (t : Mode) (f : ModeFull) (cause reason : Nat) : State :=
  let s := enterMode t f s
  let s := { s with md := { s.md with stepdownCnt := satN 32 (s.md.stepdownCnt + 1), lastStepdown := s.tm.uptime } }
  raise s 0x005 0 [(modeCode src : Int), (modeCode t : Int), (cause : Int), (reason : Int)]

/-- A fallback passes every check of R48 but THERMAL and POWER_LIMIT. -/
def fallbackOk (s : State) (t : Mode) (c : ModeCfg) : Bool :=
  !stepping s && modeConfigOk s t c true && (firstFail (checksDown s t c)).isNone

/-- Cox calls a step-down: to the ladder's target with its stored fallback, else to STANDBY. -/
def callStepDown (cause : Nat) (s : State) : State :=
  let go (t : Mode) (f : ModeFull) (reason : Nat) : State :=
    { s with md := { s.md with prep := some { target := t, full := f, cmd := none, cause := cause, reason := reason },
                               powerRounds := 0 } }
  match ladder s.md.mode with
  | none => s
  | some .standby => go .standby {} 0
  | some t =>
    match s.md.full.fallbacks with
    | c :: rest => if fallbackOk s t c then go t { cfg := c, fallbacks := rest } 0 else go .standby {} rNoFallback
    | [] => go .standby {} rNoFallback

/-! The effective stroke (R54, R58, R63) -/

/-- The spacing of a target's stroke grid. -/
def targetMu (p : Prep) : Nat := if activeMode p.target then muOf p.full.cfg.scsKhz.1 else 1

/-- The present stroke falls on the grid of the target: the instant is the nearest boundary of the finer of the two grids. -/
def onTargetGrid (s : State) (p : Prep) : Bool :=
  let l := slotFp (max (gridMu s 0) (targetMu p))
  let at' := (uFp s + (l / 2 : Nat)) / (l : Int) * l
  decide (at' % (slotFp (targetMu p) : Int) = 0)

/-- Packets that the source mode has accepted for slots from the effective stroke of STANDBY on, also those that S_j has taken already,
are dropped and counted (R59). -/
def dropLater (s : State) : State :=
  let later (w : PktWait) : Bool := decide (w.typ ≠ 4) && decide (strokeSlot s w.half ≤ slotNear s w.half w.tag)
  let n := ((s.fh.waits ++ s.fh.taken).filter later).length
  { s with md := { s.md with dropCnt := satN 32 (s.md.dropCnt + n) } }

/-- What the last recheck decides at the effective stroke. -/
def modeEffective (p : Prep) (s : State) : State :=
  let src := s.md.mode
  let left := if activeMode src && !p.stopped then dropLater s else s
  match p.cmd with
  | some h =>
    let op : LongOp := { hdr := h, opcode := 0x0010 }
    match p.recheck with
    | none => complete (enterMode p.target p.full left) op stOk 0 []
    | some k =>
      let s := if p.stopped && activeMode src then enterMode .standby {} s else { s with md := { s.md with prep := none } }
      complete s op stRefused k []
  | none =>
    match p.recheck with
    | none => stepDownDone left src p.target p.full p.cause p.reason
    | some _ => stepDownDone left src .standby {} p.cause rNoFallback

/-- The mode change in preparation at a stroke of half 0; it waits while Cox restarts (R29, R61). -/
def modeStroke (s : State) : State :=
  match s.md.prep with
  | none => s
  | some p =>
    if p.target = .dormant || !coxRuns s then s
    else if p.ready && onTargetGrid s p then modeEffective p s
    else if activeMode p.target && !p.stopped then beginPrep p s
    else s

/-! Changes due at a stroke (R31, R60, R399) -/

/-- One due change comes into force and its command is answered. A power step of a group in CAL or SETTLE is one (R243; DEDUCED, log
entry 193). -/
def applyDue (s : State) (d : Due) : State :=
  let yes (s : State) : State := answerDue s d stOk 0
  let op : LongOp := { hdr := d.hdr, opcode := d.opcode }
  match d.change with
  | .unitState k units half on failing =>
    match applyUnitState s k units half on failing with
    | (s, none) => yes s
    | (s, some n) => answerDue s d stUnitFault n
  | .sectorBeam dir half beam w => yes (applySectorBeam s dir half beam w)
  | .windows q => if windowsOk s q then yes (applyWindows s q) else answerDue s d stBadConfig 0
  | .loOff groups =>
    if s.md.mode = .standby ∨ s.md.mode = .service then yes (applyLoOff s groups) else answerDue s d stWrongMode 0
  | .loTune groups f => applyLoTune s op groups f
  | .synthCal groups => applySynthCal s op groups
  | .rxAtt paths att => yes (applyRxAtt s paths att)
  | .powerTable g e b => yes (applyPowerTable s g e b)
  | .powerStep paths st tr => yes (applyPowerStep s paths st tr)
  | .loopback groups code =>
    if s.md.mode = .service then yes (applyLoopback s groups code) else answerDue s d stWrongMode 0
  | .dpdBypass paths force => yes (applyDpdBypass s paths force)
  | .dpdSlot p k r => yes (applyDpdSlot s p k r)
  | .wsConfig q => yes (applyWsConfig s q)
  | .phaseComp v => yes { s with rf := { s.rf with phaseComp := v, phaseCompF := v } }

/-- Applies them in the order in which their commands came. -/
def dueStroke (now : List Due) (s : State) : State :=
  now.foldl applyDue { s with ccp := { s.ccp with due := s.ccp.due.filter fun d => !now.contains d } }

/-- Paths whose bank a host command changes at this stroke (R301). -/
def bankedPaths (l : List Due) : List Nat :=
  l.filterMap fun d => match d.change with | .dpdSlot p _ _ => some p | _ => none

/-! What a slot leaves behind -/

/-- The previous weights of a beam from formed weights that leave the buffer: those of its latest slot (R213). -/
def keepPrev (s : State) (half : Nat) (gone : List Formed) (l : List PrevWeights) (k : Dir × Nat) : List PrevWeights :=
  let mine := gone.filter fun f => decide (f.dir = k.1 ∧ f.beam = k.2)
  let slot (f : Formed) : Int := slotNear s half f.slot
  let last := (mine.map slot).foldl max ((mine.map slot).headD 0)
  let groups := (mine.filter fun f => decide (slot f = last)).map fun f => (f.prbStart, f.prbCnt, f.weights)
  { dir := k.1, half := half, beam := k.2, groups := groups } ::
    l.filter fun p => !decide (p.dir = k.1 ∧ p.half = half ∧ p.beam = k.2)

/-- Data, sections and weights of slots more than two before the present one leave the buffers. -/
def retireSlots (half : Nat) (s : State) : State :=
  let old (h : Nat) (t : TimeTag) : Bool := decide (h = half) && decide (slotNear s half t + 2 < strokeSlot s half)
  let gone := s.fab.formed.filter fun f => old f.half f.slot
  let keys := (gone.map fun f => (f.dir, f.beam)).eraseDups
  let fresh (d : PrbData) : Bool := !old d.half d.tag
  { s with
    fh := { s.fh with sections := s.fh.sections.filter (fun x => !old x.half x.slot), dlData := s.fh.dlData.filter fresh,
                      partials := s.fh.partials.filter (fun p => !old p.half p.tag), accs := s.fh.accs.filter (fun a => !old a.half a.tag),
                      waits := s.fh.waits.filter (fun w => !old w.half w.tag),
                      taken := s.fh.taken.filter fun w => decide (w.half ≠ half ∨ strokeSlot s half < slotNear s half w.tag) },
    fab := { s.fab with formed := s.fab.formed.filter (fun f => !old f.half f.slot),
                        prev := keys.foldl (keepPrev s half gone) s.fab.prev,
                        mismatch := s.fab.mismatch.filter (fun m => !old m.2.1 m.2.2.1), ulIn := s.fab.ulIn.filter fresh,
                        dlOut := s.fab.dlOut.filter fresh, ulOut := s.fab.ulOut.filter fresh, loopIn := s.fab.loopIn.filter fresh },
    ws := { s.ws with results := s.ws.results.filter fun r => !old r.2.1 r.2.2.1 } }

/-! STROKE -/

/-- Shifts of a half in force from its stroke (R162), of both halves at an effective stroke. -/
def shiftStroke (half : Nat) (entered : Bool) (s : State) : State :=
  let one (h : Nat) (s : State) : State :=
    let l := nextShifts s h
    { s with fab := { s.fab with shifts := put (put s.fab.shifts (2 * h) (nth 0 l (2 * h))) (2 * h + 1) (nth 0 l (2 * h + 1)) } }
  if entered then one 1 (one 0 s) else one half s

/-- TX of a half comes back at its first stroke after the PLLs have relocked, while Cox runs; outside SPLIT, of the whole array
(R28). -/
def txStroke (half : Nat) (s : State) : State :=
  if coxRuns s && s.pw.refPll && s.pw.cpll then
    { s with pw := { s.pw with txHeld := if isSplit s then setHalf s.pw.txHeld half false else (false, false) } }
  else s

/-- The limit on changes of a stroke ends with it; at an effective stroke, of both halves. -/
def freeChanges (half : Nat) (entered : Bool) (s : State) : State :=
  { s with ccp := { s.ccp with dueLimit := if entered then [none, none] else put s.ccp.dueLimit half none } }

/-- The slot, by its number in the cycle of 1,024 frames, that a stroke opens. -/
def openedSlot (s : State) (half : Nat) : Nat := (strokeSlot s half % (slotCycle (gridMu s half) : Int)).toNat

/-- Strokes occur while the clocks of the data plane run. -/
def strokesRun (s : State) : Bool :=
  decide (s.pw.power = .on ∨ s.pw.power = .starting ∨ s.pw.power = .waking) &&
    !decide (s.md.mode = .dormant ∨ s.md.mode = .shutdown)

/-- What a stroke does after the mode change: the changes due, weights, models, levels and the state of the radio. Without Cox no
result or model comes into force, and no run is requested or ended (R29, R309). -/
def strokeBody (half : Nat) (entered : Bool) (s : State) : State :=
  let n := openedSlot s half
  let s := takeCPackets half (tagOfSlot (gridMu s half) n 0) (openSlotCfg half n s)
  let now := dueNow s half entered
  let t := freeChanges half entered (shiftStroke half entered (renewCrews half (dueStroke now s)))
  let t := if half = 0 then wsStroke t else t
  let t :=
    if coxRuns s then
      crewRun (disturbStroke half s (bankedPaths now) (powerStroke half (selectStroke half (rfStroke half (resultsStroke half t)))))
    else powerStroke half (rfStroke half t)
  retireSlots half t

/-- A stroke of a half's grid (R398, R399, R414). -/
def strokeFx (half : Nat) (s : State) : State :=
  if !strokesRun s || !(decide (half = 0) || (decide (half = 1) && isSplit s)) then s
  else
    let s := txStroke half s
    if half ≠ 0 then strokeBody half false s
    else
      let s := resumeAtStroke s
      if s.tm.step.isSome && coxRuns s then stepAtStroke s
      else
        let t := modeStroke s
        strokeBody 0 (s.md.prep.isSome && t.md.prep.isNone) t

/-- STROKE. -/
def execStroke (half : Nat) (s : State) : Out := .next (strokeFx half s)

/-- UPTIME_TICK (R400): the uptime count runs from the first start on. -/
def execUptimeTick (s : State) : Out :=
  .next (if s.pw.power = .off ∧ s.pw.powerOn then s
    else { s with tm := { s.tm with uptime := (s.tm.uptime + 1) % 2 ^ 48 } })

end Sys2Proof.Machine
end

