-- ==== Sys2Proof/Machine/Rounds.lean ====
section
/-! DEFINITION. The housekeeping round: readings, sensor checks, thermal policy, the power recheck, the slack loop, triggers and
what Cox does once a round (R55, R114, R127, R145 to R150, R332, R333, R426, R452, R460 to R469, R473). -/

namespace Sys2Proof.Machine

/-! Readings and sensors (R460, R464, R465) -/

/-- The 96 channels of a round; the reserved ones are 0 (R460). -/
def hkChannels {α : Type} (zero : α) (l : List α) : List α := (List.range 96).map fun i => if i < 88 then nth zero l i else zero

/-- The lowest of a round's samples (R460). -/
def lowestSample : List Int → Int
  | [] => 0
  | x :: t => t.foldl min x

/-- The mean of a round's samples, rounded down (R460; log entry 198). -/
def meanSample (l : List Int) : Int := l.foldl (· + ·) 0 / (max 1 l.length : Nat)

/-- The VALUEs of a round: channel 24 the lowest VIN, channel 25 the mean IIN (R460). -/
def roundValues (hk : HkSample) : List Int :=
  (hkChannels 0 hk.values).mapIdx fun i v => if i = 24 then lowestSample hk.vin else if i = 25 then meanSample hk.iin else v

/-- A round's codes and values. -/
def recordRound (hk : HkSample) (s : State) : State :=
  { s with th := { s.th with codes := hkChannels 0 hk.codes, values := roundValues hk } }

/-- The settings of THERMAL_CONFIG take effect (R469). -/
def applyThermal (s : State) : State :=
  match s.th.next with
  | none => s
  | some q => { s with th := { s.th with
      next := none, pinLimit := q.pinLimit.getD s.th.pinLimit, riseLimit := q.riseLimit.getD s.th.riseLimit,
      warnT := q.warnT.getD s.th.warnT, stepInt := q.stepInt.getD s.th.stepInt } }

/-- A reading beyond 8.0 °C of its neighbour median, with at least two valid neighbours (R464). -/
def farFrom (vals : List Int) (broken i : Nat) : Bool :=
  let l := validReadings vals broken (neighbours i)
  match median l with
  | some m => decide (2 ≤ l.length) && decide (80 < nth 0 vals i - m ∨ 80 < m - nth 0 vals i)
  | none => false

/-- Runs of such rounds after this one. -/
def farRun (s : State) (i : Nat) : Nat :=
  if !sensorBroken s i && farFrom s.th.values s.th.broken i then tget 0 s.th.farRuns i + 1 else 0

/-- Valid sensors that become broken in this round. -/
def newlyBroken (s : State) : List Nat :=
  (List.range 24).filter fun i => !sensorBroken s i &&
    decide (nth 0 s.th.values i < -500 ∨ 1500 < nth 0 s.th.values i ∨ 3 ≤ farRun s i)

/-- An event of the thermal rules; during a shutdown it waits for STANDBY (R473). -/
def thermalEvent (s : State) (code unit : Nat) (vals : List Int) : State :=
  if s.md.mode = .shutdown then { s with th := { s.th with deferred := s.th.deferred ++ [(code, vals)] } } else raise s code unit vals

/-- The readings of a round in the history of the sensors that are not broken (R466). -/
def historyRound (s : State) (broken : Nat) : Tbl (List Int) :=
  (List.range 24).foldl (fun t i =>
    tset [] t i (if broken.testBit i then [] else (nth 0 s.th.values i :: tget [] s.th.history i).take 101)) []

/-- The sensor checks of a round: all sensors are judged against the state at its start. -/
def judgeSensors (s : State) : State :=
  let gone := newlyBroken s
  let runs := (List.range 24).foldl (fun t i => tset 0 t i (if gone.contains i then 0 else farRun s i)) []
  let broken := gone.foldl (fun b i => b ||| 2 ^ i) s.th.broken
  let hist := historyRound s broken
  let s := { s with th := { s.th with brokenAt := s.th.broken, broken := broken, farRuns := runs, history := hist } }
  gone.foldl (fun s i => thermalEvent s 0x6B i [(i : Int)]) s

/-! Thermal states (R466) -/

/-- The largest of some numbered readings, the lower number on a tie. -/
def largest (l : List (Nat × Int)) : Option (Nat × Int) :=
  l.foldl (fun b x => match b with
    | none => some x
    | some y => if y.2 < x.2 then some x else some y) none

/-- Values of the RF and digital sensors. -/
def dieValues (s : State) : List (Nat × Int) :=
  ((List.range 24).filter fun i => decide (i % 6 < 4)).filterMap fun i => (sensorValue s i).map fun v => (i, v)

/-- The rise of a valid sensor over 100 rounds, in 0.1 °C, which is its rate in 0.1 °C/s. -/
def riseOf (s : State) (i : Nat) : Option Int :=
  let h := tget [] s.th.history i
  if sensorBroken s i then none else (h[100]?).map fun old => nth 0 h 0 - old

/-- Valid sensors that meet the opening condition of ALERT. -/
def risers (s : State) : List (Nat × Int) :=
  if s.th.riseLimit = 0 then []
  else ((List.range 24).filterMap fun i => (riseOf s i).map fun v => (i, v)).filter fun p => decide (10 * (s.th.riseLimit : Int) ≤ p.2)

/-- A closed episode takes back the event of its opening that still waits (R473). -/
def dropDeferred (s : State) (code : Nat) : State :=
  { s with th := { s.th with deferred := s.th.deferred.filter fun e => decide (e.1 ≠ code) } }

/-- Every value of the RF and digital sensors is 5 °C below WARN_T (R466). -/
def warnCools (s : State) : Bool := (dieValues s).all fun p => decide (p.2 < 10 * (s.th.warnT : Int) - 50)

/-- The WARNING episode in a round; whether it opens. -/
def warningRound (s : State) : State × Bool :=
  let hot := (dieValues s).filter fun p => decide (10 * (s.th.warnT : Int) ≤ p.2)
  if !s.th.warning then
    match largest hot with
    | some (i, v) => (thermalEvent { s with th := { s.th with warning := true, warnCool := 0 } } 0x69 0 [(i : Int), v], true)
    | none => (s, false)
  else
    let n := if warnCools s then s.th.warnCool + 1 else 0
    if 100 ≤ n then (dropDeferred { s with th := { s.th with warning := false, warnCool := 0 } } 0x69, false)
    else ({ s with th := { s.th with warnCool := n } }, false)

/-- The ALERT episode in a round. -/
def alertRound (s : State) : State :=
  if !s.th.alert then
    match largest (risers s) with
    | some (i, v) => thermalEvent { s with th := { s.th with alert := true, alertCool := 0 } } 0x68 0 [(i : Int), v]
    | none => s
  else
    let n := if risers s = [] then s.th.alertCool + 1 else 0
    if 500 ≤ n then dropDeferred { s with th := { s.th with alert := false, alertCool := 0 } } 0x68
    else { s with th := { s.th with alertCool := n } }

/-! Step-down calls (R55, R333, R467, R468) -/

/-- A step-down is in preparation. -/
def steppingDown (s : State) : Bool := match s.md.prep with | some p => p.cmd.isNone | none => false

/-- The call of WARNING: answered by a step-down in preparation; while a command's change is, it waits. -/
def warningCall (opened : Bool) (s : State) : State :=
  let due := s.th.callDue || (s.th.warning && (opened || decide (s.md.lastStepdown + 800 * s.th.stepInt ≤ s.tm.uptime)))
  if !due then s
  else if s.md.prep.isNone then callStepDown 1 { s with th := { s.th with callDue := false } }
  else { s with th := { s.th with callDue := !steppingDown s } }

/-- DRAM_HOT and its call (R333). -/
def dramRound (s : State) : State :=
  let hot := (diesInService s).filter fun d => decide (1050 < dramTemp s d)
  let s := hot.foldl (fun s d =>
    if inEpisode s 0x4A d then s
    else raiseEpisode (fset s F.caveEventDramHot 0 1) 0x4A d [(d : Int)]) s
  if hot ≠ [] ∧ s.md.prep.isNone then callStepDown 2 s else s

/-- The power recheck (R55). -/
def powerRound (s : State) : State :=
  if !activeMode s.md.mode || steppingDown s then { s with md := { s.md with powerRounds := 0 } }
  else
    let n := if powerOk s s.md.mode then 0 else s.md.powerRounds + 1
    let s := { s with md := { s.md with powerRounds := n } }
    if 3 ≤ n ∧ s.md.prep.isNone then callStepDown 3 s else s

/-! Refresh multipliers (R332) -/

/-- The multiplier that a temperature enters, as 0 to 3 for 1× to 8×. -/
def refxEntry (t : Int) : Nat := if 1050 < t then 3 else if 950 ≤ t then 2 else if 850 ≤ t then 1 else 0

/-- The temperature below which a multiplier is left. -/
def refxLeave (m : Nat) : Int := if m = 3 then 1030 else if m = 2 then 930 else 830

/-- REFX of a die. -/
def refxFld (d : Nat) : Fld := if d = 0 then F.caveStatusRefxD0 else if d = 1 then F.caveStatusRefxD1 else F.caveStatusRefxD2

/-- One die's multiplier in a round; leaving 8× ends its DRAM_HOT episode. -/
def refxRound (s : State) (d : Nat) : State :=
  let t := dramTemp s d
  let m := fget s (refxFld d)
  if m < refxEntry t then fset s (refxFld d) 0 (refxEntry t)
  else if 0 < m ∧ t < refxLeave m then
    let s := fset s (refxFld d) 0 (m - 1)
    if m = 3 then endEpisode s 0x4A d else s
  else s

/-! The slack loop (R127, R145 to R150) -/

/-- The minimum slack of a direction and half in 0.1 %. -/
def slackPct (s : State) (k : Nat) : Option Nat := (nth none s.fab.slackMin k).map fun t => 1000 * t / tsTicks s (k / 2)

/-- PCT and TICKS of FAB_SLACK_MIN_DL0, UL0, DL1 and UL1. -/
def slackFlds (k : Nat) : Fld × Fld :=
  if k = 0 then (F.fabSlackMinDl0Pct, F.fabSlackMinDl0Ticks) else if k = 1 then (F.fabSlackMinUl0Pct, F.fabSlackMinUl0Ticks)
  else if k = 2 then (F.fabSlackMinDl1Pct, F.fabSlackMinDl1Ticks) else (F.fabSlackMinUl1Pct, F.fabSlackMinUl1Ticks)

/-- The minima of the round in their registers. -/
def slackRegs (s : State) : State :=
  (List.range 4).foldl (fun s k =>
    let (p, t) := slackFlds k
    fset (fset s p 0 ((slackPct s k).getD 0xFFFF)) t 0 ((nth none s.fab.slackMin k).getD 0xFFFF)) s

/-- LOOP_STATE codes (R162). -/
def loopIdle : Nat := 0
def loopHold : Nat := 1
def loopRaise : Nat := 2
def loopLower : Nat := 3
def loopLimit : Nat := 4

/-- The loop of R148 on the least slack of the round: VFAB, *above*, and what the loop did. -/
def loopStep (v floor ceil above sMin : Nat) (cut : Bool) : Nat × Nat :=
  if cut then (min (v + 40) 900, 0)
  else if sMin < floor then (min (v + 20) 900, 0)
  else if ceil < sMin then (if above + 1 = 10 then (max (v - 10) 700, 0) else (v, above + 1))
  else (v, 0)

/-- The loop in a round with symbols. LOOP_STATE reads limit in every round that ends short with VFAB at 900 mV (DESIGN CHOICE, log entry
115). -/
def slackLoop (sMin : Nat) (s : State) : State :=
  let v := fget s F.fabStatusVfabMv
  let floor := slackFloor s
  let cut := s.fab.cutInRound
  let (v', above) := loopStep v floor (fget s F.fabSlackCfgSlackCeil) s.fab.above sMin cut
  let short := decide (v' = 900) && (cut || decide (sMin < floor))
  let limit := if short then s.fab.limit + 1 else 0
  let st := if short then loopLimit else if v < v' then loopRaise else if v' < v then loopLower else loopHold
  let s := fset (fset s F.fabStatusVfabMv 0 v') F.fabStatusLoopState 0 st
  let s := { s with fab := { s.fab with above := above, limit := limit } }
  if limit = 0 then endEpisode s 0x21 0
  else if limit = 3 then raiseEpisode (fset s F.fabEventLimit 0 1) 0x21 0 [(sMin : Int), (v' : Int)]
  else s

/-- The fabric part of a round. -/
def fabricRound (s : State) : State :=
  let l := (List.range 4).filterMap (slackPct s)
  let s := slackRegs s
  let runs := activeMode s.md.mode && decide (fget s F.fabVfabCfgLoopEn = 1)
  let s :=
    if !runs then fset s F.fabStatusLoopState 0 loopIdle
    else match l with
      | [] => fset s F.fabStatusLoopState 0 loopIdle
      | x :: t => slackLoop (t.foldl min x) s
  { s with fab := { s.fab with slackMin := [none, none, none, none], cutInRound := false } }

/-- The crews whose monitors give the fabric speed: those in beamforming service, or, outside an active mode, those that work. -/
def speedCrews (s : State) : List Nat :=
  let l := nth [] s.fab.crews 0 ++ nth [] s.fab.crews 1
  if l = [] then (List.range 32).filter fun c => unitWorks s (uCrew c) else l

/-- FAB_SPEED (R127). -/
def speedRound (hk : HkSample) (s : State) : State :=
  let low (l : List Nat) : Nat :=
    match (speedCrews s).map fun c => nth 0 l c with
    | [] => 0
    | x :: t => t.foldl min x
  fset (fset s F.fabSpeedSpeedNow 0 (satN 16 (low hk.speedNow))) F.fabSpeedSpeedMax 0 (satN 16 (low hk.speedMax))

/-! Once a round -/

/-- PORT_BW of each port: MB/s over the round (R342). -/
def bandwidthRound (s : State) : State :=
  let s := (List.range 4).foldl (fun s p => fset s F.portBw p (satN 16 (ceilDiv (tget 0 s.cave.moved p) 10000))) s
  { s with cave := { s.cave with moved := [] } }

/-- Cox measures the always-on oscillator against the reference (R396). -/
def aonRound (s : State) : State :=
  if !s.pw.refPll then s
  else
    let (n, s) := drawFree s
    { s with tm := { s.tm with aon := signed 32 n } }

/-- The CHAIN status record on each chain-facing port, and its place in the event log (R114, R452, R453). -/
def chainRound (s : State) : State :=
  if !inChain s then s
  else
    let e : Event :=
      { code := 0x008, uptime := s.tm.uptime, evtSeq := s.ccp.seqBand,
        vals := [(chainPos s : Int), (modeCode s.md.mode : Int), (fget s F.timeStatusChainAligned : Int)] }
    let s := raiseOn 2 0 e s
    (if isHub s then [1] else [1, 0]).foldl (fun s p => if portUp s p then sendCcp s p false (eventBytes e) else s) s

/-- The recheck of R54 and R63 on the state of this round. -/
def recheckRound (s : State) : State :=
  match s.md.prep with
  | none => s
  | some p =>
    let l := match p.cmd with
      | some _ => checks5 s p.target p.full.cfg
      | none => if activeMode p.target then checksDown s p.target p.full.cfg else []
    { s with md := { s.md with prep := some { p with recheck := if p.target = .dormant then none else firstFail l } } }

/-- Ageing that fell due in DORMANT or a shutdown (R73, R474). -/
def ageingRound (s : State) : State :=
  if s.ws.ageingDue && s.ws.transfer.isNone then ageingWalkFx { s with ws := { s.ws with ageingDue := false } } else s

/-- Rounds in a row in which every unmasked sensor has read below 110.0 °C (R474, R475). -/
def coolRound (vals : List Int) (s : State) : State :=
  let cool := (List.range 24).all fun i => sensorBroken s i || decide (nth 0 vals i < 1100)
  { s with pw := { s.pw with coolRounds := if cool then s.pw.coolRounds + 1 else 0 } }

/-! HOUSEKEEPING_ROUND (R426) -/

/-- The policies of Cox in their order. -/
def policies (hk : HkSample) (s : State) : State :=
  let s := recordFaults (judgeSensors s)
  let (s, opened) := warningRound s
  let s := (List.range 3).foldl refxRound (alertRound s)
  let s := powerRound (dramRound (warningCall opened s))
  let s := fabricRound (speedRound hk s)
  let s := (List.range 4).foldl (fun s g => compRound (synthTrigger s g) g) s
  recheckRound (logCopy (chainRound (aonRound (bandwidthRound (ageingRound (calRound s))))))

/-- The temperature channels of a round, which alone run in a shutdown (R473). -/
def recordTemps (hk : HkSample) (s : State) : State :=
  let put {α : Type} (zero : α) (new old : List α) : List α := (List.range 96).map fun i => nth zero (if i < 24 then new else old) i
  { s with th := { s.th with codes := put 0 hk.codes s.th.codes, values := put 0 hk.values s.th.values } }

/-- What the always-on domain judges during a shutdown (R473, R474). -/
def shutdownRound (hk : HkSample) (s : State) : State :=
  alertRound (warningRound (judgeSensors (coolRound hk.values
    (if s.pw.power = .shutdown then recordTemps hk s else recordRound hk s)))).1

/-- A round without Cox's policies, in a restart of Cox or in RECOVERY: no sensor is judged, which breaks the runs of R464, and the
readings and the rounds of open episodes count (R464, R466). -/
def unjudgedRound (s : State) : State :=
  let s := { s with th := { s.th with farRuns := [], history := historyRound s s.th.broken } }
  { s with th := { s.th with
      warnCool := if s.th.warning && warnCools s then s.th.warnCool + 1 else 0,
      alertCool := if s.th.alert && decide (risers s = []) then s.th.alertCool + 1 else 0 } }

/-- A housekeeping round ends (R426, R460, R469, R473): in DORMANT only the readings and what a trip there waits for, else
without Cox only the readings (log entry 117). -/
def roundFx (hk : HkSample) (s : State) : State :=
  if s.md.mode = .dormant then (if s.pw.tripPending then coolRound hk.values (recordRound hk s) else recordRound hk s)
  else if s.md.mode = .shutdown then shutdownRound hk (applyThermal s)
  else if s.pw.power = .on ∨ s.pw.power = .starting ∨ s.pw.power = .waking then
    let s := applyThermal (recordRound hk s)
    if coxRuns s && decide (s.md.mode ≠ .recovery) then policies hk s else unjudgedRound s
  else s

/-- HOUSEKEEPING_ROUND, at every 80th count of the uptime count (R460). -/
def execHousekeepingRound (hk : HkSample) (s : State) : Out := .next (if s.tm.uptime % 80 = 0 then roundFx hk s else s)

end Sys2Proof.Machine
end

