-- ==== Sys2Proof/Machine/Startup.lean ====
section
/-! DEFINITION. Power input and the cold start: VIN, rails, DRAM training, the memory fill, the choice of firmware, the reference
clock and the PLLs, up to STANDBY (R28, R65 to R70, R227, R320, R371, R415, R454 to R458). -/

namespace Sys2Proof.Machine

/-! VIN and rails (R454 to R458) -/

/-- The rails are on: neither off after a brown-out nor held (R456, R457). -/
def railsOn (s : State) : Bool := decide (s.pw.power ≠ .off ∧ s.pw.power ≠ .held)

/-- Nominal voltages of the rails of R455 in mV; VFAB as set. -/
def railNominal (s : State) : List Nat :=
  [3300, 800, 1800, 750, 850, fget s F.fabStatusVfabMv, 1050, 500, 1200, 900, 1200, 950, 1800, 2500]

/-- Rail `k` of R455 in mV, 0 when off: after a brown-out only VAON is on, held also VIO18 (R456, R457); in DORMANT and a shutdown those
of the table, with VSRAM at its retention voltage. -/
def railMv (s : State) (k : Nat) : Nat :=
  let on (l : List Nat) : Nat := if k ∈ l then nth 0 (railNominal s) k else 0
  match s.pw.power with
  | .off => on [1]
  | .held => on [1, 2]
  | .dormant | .shutdown => if k = 4 then 650 else on [0, 1, 2, 6, 7]
  | _ => nth 0 (railNominal s) k

def railOn (s : State) (k : Nat) : Bool := decide (0 < railMv s k)

/-- What a loss of all rails but VAON leaves: MRAM, the uptime count, the management clock and the always-on latches (R72, R457). -/
def coldReset (s : State) : State :=
  { State.reset with
    part := s.part, freeCnt := s.freeCnt, pending := s.pending,
    mram := { s.mram with running := 2, trial := none, trialBad := none, session := none, written := 0, commitCmd := none },
    tm := { now := s.tm.now, uptime := s.tm.uptime }, mi := { passStart := s.tm.uptime },
    pw := { powerOn := s.pw.powerOn, brownout := s.pw.brownout, railRestarts := s.pw.railRestarts } }

/-- VIN_START (R65). -/
def execVinStart (s : State) : Out :=
  .next (if s.pw.power ≠ .off then s
    else let s := coldReset s; { s with pw := { s.pw with power := .starting, startTick := s.tm.now } })

/-- POWER_ON_RESET (R454). -/
def execPowerOnReset (s : State) : Out :=
  let c := coldReset s
  .next { c with tm := { now := s.tm.now }, mi := {}, mram := { c.mram with failed := [] }, pw := {} }

/-- A brown-out with its cause, rail and VIN extreme (R457). -/
def brownOutFx (cause rail vin : Nat) (s : State) : State :=
  let c := coldReset s
  { c with pw := { c.pw with powerOn := false, brownout := some (cause, rail, vin) } }

/-- BROWN_OUT: cause UNDER. -/
def execBrownOut (vin10mV : Nat) (s : State) : Out :=
  .next (if !railsOn s then s
    else let c := brownOutFx 0 0 vin10mV s; { c with pw := { c.pw with railRestarts := 0 } })

/-- OVERVOLTAGE: cause OVER. -/
def execOvervoltage (vin10mV : Nat) (s : State) : Out :=
  .next (if !railsOn s then s
    else let c := brownOutFx 1 0 vin10mV s; { c with pw := { c.pw with railRestarts := 0 } })

/-- RAIL_FAULT of a rail that is on: cause RAIL; after three restarts without STANDBY the rails are held off (R456). -/
def execRailFault (rail vin10mV : Nat) (s : State) : Out :=
  .next (if !railsOn s || !railOn s rail then s
    else
      let c := brownOutFx 2 rail vin10mV s
      if 3 ≤ s.pw.railRestarts then { c with pw := { c.pw with power := .held } }
      else { c with pw := { c.pw with railRestarts := s.pw.railRestarts + 1 } })

/-! DRAM training and the fill (R65, R68, R70, R320, R322, R352, R371) -/

/-- The start-up sequence of BOOT runs. -/
def booting (s : State) : Bool := decide (s.pw.power = .starting ∧ s.md.mode = .boot)

/-- Every lane is down, without LINK_DOWN, and the egress buffer is discarded (R472). -/
def dropLinks (s : State) : State :=
  { s with fh := { s.fh with linkUp := [false, false, false, false], egress := [] }, tm := { s.tm with ptpOut := [] } }

/-- RECOVERY, in which the firmware-update commands run and only MSPI is alive: the links are down, and what waited in band is gone
(R67, R68). -/
def enterRecovery (s : State) : State :=
  let s := dropLinks s
  { s with md := { s.md with mode := .recovery },
           ccp := { s.ccp with ready := true, restarting := false, inBand := [], outBand := [], replyBand := [] },
           mram := { s.mram with running := 2 } }

/-- Rank 2 takes the place of a rank before the fill, for a start-up fault bit of BOOT_DONE (R68, R320, R371). -/
def replaceRank (d bit : Nat) (s : State) : State :=
  let s := fset (fset s (if d = 0 then F.caveStatusPhysL0 else F.caveStatusPhysL1) 0 2) F.caveStatusSpareUsed 0 1
  { s with pw := { s.pw with rankReplaced := d, bootFaults := s.pw.bootFaults ||| 2 ^ bit } }

/-- The map order of the start-up record, 0x2 without one (R322). -/
def recordOrder (s : State) : Nat := match s.mram.startup with | some r => (if r.2 < 3 then r.2 else 2) | none => 2

/-- DRAM training ends, with the physical ranks that failed it. -/
def trainingDoneFx (failed : List Nat) (s : State) : State :=
  if !booting s || s.pw.trained then s
  else
    let s := { s with pw := { s.pw with trained := true }, cave := { s.cave with mapOrder := recordOrder s } }
    let s := fset s F.miStatusRetired 0 (retiredRank s)
    let good (r : Nat) : Bool := !failed.contains r && decide (r ≠ retiredRank s)
    match good 0, good 1, good 2 with
    | true, true, _ => s
    | false, true, true => replaceRank 0 (if retiredRank s = 0 then 4 else 1) s
    | true, false, true => replaceRank 1 (if retiredRank s = 1 then 4 else 1) s
    | _, _, _ => enterRecovery { s with pw := { s.pw with caveFail := true } }

/-- DRAM_TRAINING_DONE. -/
def execDramTrainingDone (failed : List Nat) (s : State) : Out := .next (trainingDoneFx failed s)

/-- MEMORY_FILL_DONE: every word is zero, with valid check bits. -/
def execMemoryFillDone (s : State) : Out :=
  .next (if !booting s || !s.pw.trained || s.pw.filled then s
    else { s with pw := { s.pw with filled := true }, caveMem := [], sramMem := [], cavePoison := [], sramPoison := [] })

/-! Firmware, records and the clocks (R65 to R68, R227) -/

/-- Settings of the start-up record; bit 3 of the start-up faults without a valid one. -/
def loadRecord (s : State) : State :=
  let (q, _) := s.mram.startup.getD (defaultStartup 2)
  let s := if s.mram.startup.isSome then s else { s with pw := { s.pw with bootFaults := s.pw.bootFaults ||| 8 } }
  let s := { s with fh := { s.fh with portConfig := q.portConfig, fec := (1, 1), iface := (0, 0) },
                    th := { s.th with pinLimit := q.pinLimit } }
  let s := putParam s q.portParam
  let s := fset s F.fabSlackCfgSlackFloor 0 q.slackFloor
  let s := fset s F.fabSlackCfgSlackCeil 0 (max (fget s F.fabSlackCfgSlackCeil) (q.slackFloor + 100))
  (List.range 4).foldl (fun s g => fset s F.loFreq g (nth 0 q.loKhz g)) s

/-- Calibration values and model banks from MRAM; bit 2 where a cluster starts from the factory record (R68, R315, R316). -/
def loadCalibration (s : State) : State :=
  let s := loadClusters s
  if (presentClusters s).any fun c => decide (c < 384) && (cluster s c).uncal then
    { s with pw := { s.pw with bootFaults := s.pw.bootFaults ||| 4 } } else s

/-- The PLLs lock on a valid reference, which ends an episode of REF_UNLOCK. -/
def lockPlls (s : State) : State :=
  let s := { s with pw := { s.pw with refPll := s.pw.refValid, cpll := s.pw.refValid, pllFrom := none } }
  if s.pw.refValid then endEpisode (endEpisode s 0x006 0) 0x006 1 else s

/-- Groups with a frequency are tuned, once the clocks run; the others are OFF (R65, R66). -/
def tuneStored (s : State) : State :=
  (List.range 4).foldl (fun s g =>
    if fget s F.loFreq g ≠ 0 then tuneGroup (fget s F.loFreq g) s g
    else if rsm s g ≠ rsmOff then stopGroup s g else s) s

/-- The clocks and the radio of a start-up in which Cox runs. -/
def startClocks (s : State) : State := if s.pw.refValid then tuneStored (lockPlls s) else s

/-- Cox starts from an image slot: it reads its records, and the clocks follow. -/
def startCox (k : Nat) (s : State) : State :=
  let s := { s with mram := { s.mram with running := k }, ccp := { s.ccp with ready := true, restarting := false, watchdog := false },
                    pw := { s.pw with power := .starting, bootFaults := s.pw.bootFaults &&& 0x13 } }
  startClocks (loadCalibration (loadRecord s))

/-- Events of a start of Cox after a restart by the watchdog (R28, R427). -/
def countRestart (s : State) : State :=
  raise { s with ccp := { s.ccp with restartCnt := s.ccp.restartCnt + 1 } } 0x004 0 [(s.mram.running : Int)]

/-- Event numbers start from 0 and the intervals of R123 afresh at each start of Cox (R427, R431). -/
def freshEvents (s : State) : State :=
  { s with ccp := { s.ccp with seqBand := 0, seqMspi := 0, tracks := s.ccp.tracks.map fun t => { t with sent := [] } } }

/-- Cox chooses its image among the slots that have not failed; without one, RECOVERY (R67). -/
def firmwareSelectFx (s : State) : State :=
  if !booting s || !s.pw.filled || s.ccp.ready then s
  else
    match bestSlot s ([0, 1].filter fun k => !s.mram.failed.contains k) with
    | none => enterRecovery s
    | some k => (fun t => if s.ccp.watchdog then countRestart t else t) (startCox k (freshEvents s))

/-- FIRMWARE_SELECT. -/
def execFirmwareSelect (s : State) : Out := .next (firmwareSelectFx s)

/-- A reference rate in kHz lies within 100 ppm of a listed one (R227). -/
def rateListed (khz : Nat) : Bool :=
  [30720, 61440, 122880, 245760].any fun r => decide (r * 9999 ≤ khz * 10000 ∧ khz * 10000 ≤ r * 10001)

/-- REFERENCE_VALID (R68, R227). -/
def execReferenceValid (rateKhz : Nat) (s : State) : Out :=
  .next (if !railsOn s || !rateListed rateKhz then s
    else
      let s := { s with pw := { s.pw with refValid := true, refRateKhz := rateKhz } }
      if booting s && s.ccp.ready && !s.pw.refPll then startClocks s else s)

/-- BROWNOUT's number (R457). -/
def brownoutWord (b : Nat × Nat × Nat) : Nat := b.1 * 2 ^ 28 + b.2.1 % 16 * 2 ^ 24 + satN 16 b.2.2

/-- BOOT_DONE's numbers (R504). -/
def bootDoneVals (s : State) : List Int :=
  let faults := s.pw.bootFaults + (if s.pw.noReference then 1 else 0)
  let spare := s.pw.rankReplaced + 4 * fget s F.caveStatusSpareUsed
  [(faults : Int), (spare : Int)]

/-- A group still calibrates or settles. -/
def groupsMoving (s : State) : Bool := (List.range 4).any fun g => decide (rsm s g = rsmCal ∨ rsm s g = rsmSettle)

/-- THERMAL_SHUTDOWN, the thermal events that waited for STANDBY, and what else waited for Cox (R473, R474; log entry 178). -/
def shutdownEvents (s : State) : State :=
  let l := s.th.deferred
  let s := raise { s with pw := { s.pw with tripPending := false }, th := { s.th with deferred := [] } } 0x6A 0
    [(s.pw.tripSensor : Int), (s.pw.shutdownCnt : Int)]
  sendHeld (l.foldl (fun s e => raise s e.1 (if e.1 = 0x6B then (e.2.headD 0).toNat else 0) e.2) s)

/-- The end of the start-up: without a reference NO_REFERENCE, else STANDBY with BOOT_DONE, and BROWNOUT after a brown-out. -/
def startupFx (s : State) : State :=
  if !booting s || !coxRuns s || !s.pw.filled then s
  else if !s.pw.refPll then { s with pw := { s.pw with noReference := true } }
  else if groupsMoving s then s
  else
    let vals := bootDoneVals s
    let b := s.pw.brownout
    let s := enterFabric .standby
      { s with md := { s.md with mode := .standby },
               pw := { s.pw with power := .on, powerOn := false, brownout := none, railRestarts := 0 },
               mram := { s.mram with failed := [] } }
    let s := raise s 0x002 0 vals
    let s := match b with
      | some x => raise s 0x06C 0 [(brownoutWord x : Int)]
      | none => s
    if s.pw.tripPending then shutdownEvents s else s

/-- STARTUP_COMPLETE. -/
def execStartupComplete (s : State) : Out := .next (startupFx s)

/-! Loss of the PLLs (R28, R411, R415) -/

/-- A PLL loses lock: TX is held muted from the next converter sample, and with the reference PLL the counter runs on the always-on
oscillator. -/
def pllUnlockFx (cpll : Bool) (s : State) : State :=
  if !(if cpll then s.pw.cpll else s.pw.refPll) then s
  else
    let pw := { s.pw with pllFrom := some (s.pw.pllFrom.getD (uFp s)), txHeld := (true, true) }
    let s := quietTx { s with pw := if cpll then { pw with cpll := false } else { pw with refPll := false } } (List.range 64)
    let u := if cpll then 1 else 0
    let s := raiseEpisode s 0x006 u [(u : Int)]
    if cpll then s else enterHoldover s

/-- PLL_UNLOCK. -/
def execPllUnlock (cpll : Bool) (s : State) : Out := .next (pllUnlockFx cpll s)

/-- The PLLs lock again: the data plane comes back at the next stroke. -/
def pllRelockFx (s : State) : State :=
  match s.pw.pllFrom with
  | none => s
  | some t =>
    let s := { s with pw := { s.pw with refPll := true, cpll := true, pllFrom := none, pllSpan := some (t, uFp s) } }
    endEpisode (endEpisode s 0x006 0) 0x006 1

/-- PLL_RELOCK. -/
def execPllRelock (s : State) : Out := .next (pllRelockFx s)

end Sys2Proof.Machine
end

