-- ==== Sys2Proof/Machine/Power.lean ====
section
/-! DEFINITION. DORMANT, the wake, the watchdog and the hardware shutdown (R28 to R30, R61, R71 to R76, R338, R339, R418, R450,
R471 to R475). -/

namespace Sys2Proof.Machine

/-! What DORMANT and a shutdown do to the units -/

/-- Groups that are on now are tuned again at the wake; all go to OFF, and every TX path is muted at once (R71, R74, R472). -/
def parkRadio (s : State) : State :=
  let on := (List.range 4).foldl (fun t g => tset false t g (decide (rsm s g ≠ rsmOff))) []
  (List.range 4).foldl stopGroup (quietTx { s with rf := { s.rf with restore := on } } (List.range 64))

/-- Every refresh owed or due is issued (R338). -/
def repayAll (s : State) : State :=
  (List.range 3).foldl (fun s r => fset s (owedFld r) 0 0) { s with cave := { s.cave with refDue := [] } }

/-- Write queues are drained, queued reads abandoned, and the ranks refresh themselves (R338, R339); a migration pauses (R368). -/
def sleepCave (s : State) : State :=
  let s := drainAll s
  let s := each (s.cave.reqs.filter fun r => r.write) s fun s r => serve s r []
  let s := { s with cave := { s.cave with reqs := [], panic := false }, ws := { s.ws with reads := [], prefetch := [] } }
  let s := if fget s F.caveStatusMigrating = 1 then fset s F.miStatusPaused 0 1 else s
  fset s F.caveStatusSelfRefresh 0 1

/-- The Cave leaves self-refresh: trackers are cleared, and the refresh grids start afresh (R338). -/
def wakeCave (s : State) : State :=
  let s := repayAll s
  let s := { s with cave := { s.cave with tracks := [], trrs := [], metered := [] } }
  fset (fset s F.miStatusPaused 0 0) F.caveStatusSelfRefresh 0 0

/-- The Eight without power: seats and their loads are lost, VFAB is off, and LOOP_EN reads 1 outside SERVICE (R72, R150, R455). -/
def stopFabric (s : State) : State :=
  let s := dropEstimates (clearPlane s)
  fset (fset { s with fab := { s.fab with seats := [], loads := [] } } F.fabStatusVfabMv 0 0) F.fabVfabCfgLoopEn 0 1

/-- The PLLs without power. -/
def stopPlls (s : State) : State := { s with pw := { s.pw with refPll := false, cpll := false, pllFrom := none } }

/-- ORX switch lines are low (R492). -/
def lowSwitches (s : State) : State := (List.range 4).foldl (fun s k => fset s F.orxSwState k 0) s

/-- The thermal episodes close and the history restarts (R466). -/
def closeThermal (s : State) : State :=
  { s with th := { s.th with history := [], farRuns := [], warning := false, alert := false, warnCool := 0, alertCool := 0,
                             callDue := false } }

/-! The wake (R74, R75, R341, R418, R475) -/

/-- Addresses of P0_CFG, PORT_CFG, REF_CFG and RH_CFG. -/
def caveCfgRegs : List Nat := [F.p0CfgWqLo.addr 0, F.portCfgAgeLimit.addr 0, F.refCfg.addr 0, F.rhCfgRhThresh.addr 0]

/-- From the wake until Cox writes them back, the Cave's configuration registers hold their reset values (R341). -/
def resetCaveCfg (s : State) : State :=
  if s.md.mode ≠ .dormant ∨ s.pw.caveCfg ≠ [] then s
  else
    let s := { s with pw := { s.pw with caveCfg := caveCfgRegs.map (rget s) } }
    caveCfgRegs.foldl (fun s a => rput s a (regReset a)) s

/-- Cox writes back the values of the entry (R341). -/
def restoreCaveCfg (s : State) : State :=
  let s' := (caveCfgRegs.zip s.pw.caveCfg).foldl (fun s p => rput s p.1 p.2) s
  { s' with pw := { s'.pw with caveCfg := [] } }

/-- A wake waits for the restart condition after a trip in DORMANT (R475). -/
def wakeWaits (s : State) : Bool := s.pw.tripPending && decide (s.pw.coolRounds < 100)

/-- The wake sequence begins: Cox runs, from DORMANT at once (R62, R74); the rails, VFAB at 0.70 V among them, the clocks, the radio and
the Cave come back. -/
def beginWake (s : State) : State :=
  let s := resetCaveCfg s
  let s := wakeCave (lockPlls { s with pw := { s.pw with power := .waking, wakeHeld := none },
                                       ccp := { s.ccp with ready := s.ccp.ready || decide (s.md.mode = .dormant) } })
  let s := fset s F.fabStatusVfabMv 0 700
  let s := (List.range 4).foldl (fun s g =>
    if tget false s.rf.restore g then tuneGroup (fget s F.loFreq g) s g else s) s
  { s with rf := { s.rf with restore := [] } }

/-- A wake source: in DORMANT it starts the wake, during the entry it is kept, elsewhere it is ignored (R74, R75, R436). -/
def wakeSource (w : WakeSource) (s : State) : State :=
  if s.pw.power = .dormant then
    if s.pw.wakeHeld.isSome then s
    else if wakeWaits s then { s with pw := { s.pw with wakeHeld := some w } }
    else beginWake { s with pw := { s.pw with wake := some w } }
  else if s.pw.entering.isSome ∧ s.pw.wakeHeld.isNone then { s with pw := { s.pw with wakeHeld := some w } }
  else s

/-- WAKE_PIN. -/
def execWakePin (s : State) : Out := .next (wakeSource .pin s)

/-- The entry is under way. -/
def enteringDormant (s : State) : Option CmdHdr := if s.md.mode = .standby then s.pw.entering else none

/-- WAKE_SEC_MATCH, in DORMANT or during the entry to it (R75). -/
def execWakeSecMatch (s : State) : Out :=
  .next (if (s.pw.power = .dormant ∨ (enteringDormant s).isSome) ∧ fget s F.wakeSec ≠ 0 ∧
    s.tm.counter / fp / 1000000000 % 2 ^ 32 = fget s F.wakeSec then
    wakeSource .counter s else s)

/-! Entry to DORMANT (R71, R73, R76, R275, R466) -/

/-- Steps 2 to 9 of R71; a wake source met on the way starts the wake at once. `trip`: the sequence of R472 completes the entry. -/
def enterDormant (trip : Bool) (h : CmdHdr) (s : State) : State :=
  let s := if trip then dropLinks (shutdownDma s) else endCoxDma s
  let s := lowSwitches (dormantStops (parkRadio (safeSequence s)))
  let s := lanesDown (mramStoreFx 0 (interruptRun s))
  let s := closeThermal (stopPlls (stopFabric (sleepCave (repayAll s))))
  let w := s.pw.wakeHeld
  let s := { s with
    md := { s.md with mode := .dormant, prep := none },
    ccp := { s.ccp with ready := false, restarting := false },
    tm := { s.tm with ppsOut := false },
    pw := { s.pw with power := .dormant, entering := none, dormantCmd := some h, wake := w, short := w.isSome, wakeHeld := none } }
  match w with
  | none => s
  | some _ => if wakeWaits s then { s with pw := { s.pw with wakeHeld := w } } else beginWake s

/-- DORMANT_ENTRY. -/
def execDormantEntry (s : State) : Out :=
  .next (match enteringDormant s with
    | some h => if coxRuns s then enterDormant false h s else s
    | none => s)

/-! Registers at the exit from DORMANT (R19, R391, R424, R492) -/

/-- A register word at the exit: event bits and counters at their Reset values; the DMA block, WAKE_SEC and ORX_SW_STATE too. -/
def wakeWord (a : Nat) (w : Word) : Word :=
  if inDmaBlock a || decide (a = F.wakeSec.base) || (List.range 4).any (fun k => decide (a = F.orxSwState.addr k)) then regReset a
  else
    match regAt a with
    | none => w
    | some (r, _) =>
      r.flds.foldl (fun w f => if f.acc = .rc ∨ f.acc = .w1c then putBits w f.lo f.width f.reset else w) w

def wakeRegs (s : State) : State :=
  { (s.regs.map Prod.fst).foldl (fun s a => rput s a (wakeWord a (rget s a))) s with dma := [] }

/-! The end of the wake and of the restart (R74, R75, R473, R474) -/

/-- Numbers of the wake sources (R504). -/
def wakeCode : WakeSource → Nat
  | .pin => 0
  | .mspi => 1
  | .counter => 2

/-- The completion of the entry, on MSPI only and in the log (R71, R452), and WAKE. -/
def wakeEvents (h : CmdHdr) (s : State) : State :=
  let e : Event := { code := 0x001, tag := h.tag, uptime := s.tm.uptime,
                     completion := some { opcode := 0x0010, tag := h.tag, status := stOk } }
  let s := { s with ccp := { s.ccp with longOps := s.ccp.longOps.erase { hdr := h, opcode := 0x0010 } } }
  let s := raiseOn 2 0 e (raiseOn 1 0 e s)
  let src := match s.pw.wake with | some w => wakeCode w | none => 0
  raise s 0x003 0 [(src : Int), (if s.pw.short then 1 else 0 : Int), (h.tag : Int)]

/-- A mode command that the shutdown abandoned completes (R61, R473). -/
def abandonedEvents (s : State) : State :=
  match s.pw.abandoned with
  | none => s
  | some h => complete { s with pw := { s.pw with abandoned := none } } { hdr := h, opcode := 0x0010 } stRefused rCoxRestart []

/-- The outcome of a firmware activation (R450). -/
def endTrial (s : State) : State :=
  let s := match s.mram.trial with
    | some h => complete { s with mram := { s.mram with trial := none } } { hdr := h, opcode := 0x00E3 } stOk 0 []
    | none => s
  match s.mram.trialBad with
  | some h => complete { s with mram := { s.mram with trialBad := none } } { hdr := h, opcode := 0x00E3 } stBadImage 0 []
  | none => s

/-- The wake sequence ends in STANDBY. For a shutdown that met the start-up the start-up ends there too, where Cox had come to run, and
goes on where it had not; RECOVERY, where no image is valid, stays (R65, R67, R474; log entry 131). -/
def wakeCompleteFx (s : State) : State :=
  if s.pw.power ≠ .waking ∨ groupsMoving s then s
  else if s.md.mode = .shutdown ∧ (s.pw.before = .boot ∨ s.pw.before = .recovery) then
    let up := decide (s.pw.before = .recovery) || decide (s.mram.running < 2)
    startupFx (restoreCaveCfg
      { s with md := { s.md with mode := s.pw.before }, ccp := { s.ccp with ready := up }, pw := { s.pw with power := .starting } })
  else
    let cmd := s.pw.dormantCmd
    let s := { s with md := { s.md with mode := .standby }, pw := { s.pw with power := .on, dormantCmd := none },
                      ccp := { s.ccp with ready := true }, ws := { s.ws with ageingDue := true } }
    let s := restoreCaveCfg (if cmd.isSome then wakeRegs s else s)
    let s := enterHoldover (enterFabric .standby s)
    let s := match cmd with | some h => wakeEvents h s | none => s
    let s := { s with pw := { s.pw with wake := none, short := false } }
    let s := if s.pw.tripPending then shutdownEvents s else s
    abandonedEvents (endTrial s)

/-- WAKE_COMPLETE. -/
def execWakeComplete (s : State) : Out := .next (wakeCompleteFx s)

/-- The restart condition holds (R474, R475): the restart begins, or a wake held in DORMANT. -/
def thermalRestartFx (s : State) : State :=
  if s.pw.coolRounds < 100 then s
  else if s.pw.power = .shutdown then beginWake { s with ccp := { s.ccp with ready := decide (s.mram.running < 2) } }
  else if s.pw.power = .dormant ∧ s.pw.wakeHeld.isSome then beginWake { s with pw := { s.pw with wake := s.pw.wakeHeld } }
  else s

/-- THERMAL_RESTART. -/
def execThermalRestart (s : State) : Out := .next (thermalRestartFx s)

/-! Hardware shutdown (R471 to R475) -/

/-- A trip latches: SHUTDOWN_CNT, the sensor and the restart condition. -/
def latchTrip (sensor : Nat) (s : State) : State :=
  { s with pw := { s.pw with shutdownCnt := satN 32 (s.pw.shutdownCnt + 1), tripSensor := sensor, tripPending := true,
                             tripNow := s.tm.now, coolRounds := 0 } }

/-- A further trip of the instant that latched: the lowest-numbered sensor is reported. -/
def sameTrip (sensor : Nat) (s : State) : State :=
  if s.pw.tripNow = s.tm.now then { s with pw := { s.pw with tripSensor := min s.pw.tripSensor sensor } } else s

/-- The command that a change in preparation would have answered. -/
def prepCmd (s : State) : Option CmdHdr := s.md.prep.bind fun p => p.cmd

/-- The sequence of R472 outside DORMANT. -/
def shutdownFx (s : State) : State :=
  let s := { s with
    pw := { s.pw with power := .shutdown, before := if s.md.mode = .shutdown then s.pw.before else s.md.mode,
                      abandoned := s.pw.abandoned.or (prepCmd s) },
    md := { s.md with prep := none } }
  let s := parkRadio (safeSequence (shutdownDma (interruptRun s)))
  let s := stopPlls (sleepCave (stopFabric (lowSwitches (dropLinks s))))
  { s with
    md := { s.md with mode := .shutdown },
    rf := { s.rf with loopback := [] },
    ccp := { s.ccp with ready := false, restarting := false, watchdog := false },
    tm := { s.tm with ppsOut := false },
    pw := { s.pw with entering := none, wakeHeld := none } }

/-- A comparator trips (R471, R472, R475). -/
def tripFx (sensor : Nat) (s : State) : State :=
  if 24 ≤ sensor ∨ sensorBroken s sensor ∨ !railsOn s then s
  else if s.pw.power = .shutdown then sameTrip sensor s
  else if s.pw.power = .dormant then (if wakeWaits s then sameTrip sensor s else latchTrip sensor s)
  else
    match enteringDormant s with
    | some h => enterDormant true h (latchTrip sensor s)
    | none => shutdownFx (latchTrip sensor s)

/-- COMPARATOR_TRIP. -/
def execComparatorTrip (sensor : Nat) (s : State) : Out := .next (tripFx sensor s)

/-! The watchdog (R28, R67, R450) -/

/-- A failed trial: the slot loses its COMMIT, and the watchdog restarts Cox from the other image, or RECOVERY follows (R427, R450). -/
def trialFails (h : CmdHdr) (s : State) : State :=
  let k := s.mram.running
  let s := putSlotImage s k { slotImage s k with commit := 0 }
  let s := { s with mram := { s.mram with trial := none } }
  match bestSlot s [0, 1] with
  | some j => coxRestart { s with mram := { s.mram with running := j, trialBad := some h }, ccp := { s.ccp with watchdog := true } }
  | none =>
    let e : Event := { code := 0x001, tag := h.tag, uptime := s.tm.uptime,
                       completion := some { opcode := 0x00E3, tag := h.tag, status := stBadImage } }
    let s := enterRecovery { s with md := { s.md with prep := none }, pw := { s.pw with entering := none, wakeHeld := none } }
    raiseOn 2 0 e (raiseOn 1 0 e { s with ccp := { s.ccp with longOps := s.ccp.longOps.erase { hdr := h, opcode := 0x00E3 } } })

/-- No heartbeat for 500 ms. -/
def watchdogFx (s : State) : State :=
  if s.pw.power ≠ .on ∧ s.pw.power ≠ .starting then s
  else if !s.ccp.ready || decide (s.md.mode = .recovery) then s
  else
    match s.mram.trial with
    | some h => trialFails h s
    | none =>
      let s := coxRestart { s with ccp := { s.ccp with watchdog := true } }
      if s.md.mode = .boot then
        { s with mram := { s.mram with failed := s.mram.running :: s.mram.failed, running := 2 }, ccp := { s.ccp with ready := false } }
      else s

/-- WATCHDOG_EXPIRY. -/
def execWatchdogExpiry (s : State) : Out := .next (watchdogFx s)

/-! The end of a restart (R28, R61, R427, R450) -/

/-- A change in preparation that the restart met (R61). -/
def restartPrep (s : State) : State :=
  match s.md.prep with
  | none => s
  | some p =>
    match p.cmd with
    | some h =>
      let s := { s with pw := { s.pw with entering := none, wakeHeld := none } }
      let s := if s.md.mode = .standby then { s with md := { s.md with prep := none } } else enterMode .standby {} s
      complete s { hdr := h, opcode := 0x0010 } stRefused rCoxRestart []
    | none => stepDownDone s s.md.mode .standby {} p.cause rCoxRestart

/-- Cox resumes after a restart. -/
def coxResumeFx (s : State) : State :=
  if !s.ccp.restarting || !s.ccp.ready then s
  else
    let by' := s.ccp.watchdog
    let s := freshEvents s
    let s := { s with ccp := { s.ccp with restarting := false, watchdog := false } }
    let s := if by' then countRestart s else s
    if s.md.mode = .boot then
      let s := endTrial (enterHoldover s)
      if s.pw.caveFail then enterRecovery s else startCox s.mram.running s
    else restartPrep (endTrial (interruptRun (enterHoldover s)))

/-- COX_RESUME. -/
def execCoxResume (s : State) : Out := .next (coxResumeFx s)

end Sys2Proof.Machine
end

