-- ==== Sys2Proof/Machine/Packets.lean ====
section
/-! DEFINITION. CCP packets: the MSPI transactions, and how Cox reads a packet as a command (R428, R429, R432 to R438, R442). -/

namespace Sys2Proof.Machine

/-! MSPI (R433, R434) -/

/-- The always-on domain answers MSPI: VIO18 is on (R434, R456). -/
def mspiRuns (s : State) : Bool := decide (s.pw.power ≠ .off)

/-- COX_READY. -/
def coxReady (s : State) : Bool := coxRuns s && railsOn s

/-- The word of READ_STATUS (R433). -/
def statusWord (s : State) : Nat :=
  (if coxReady s then 2 ^ 31 else 0) + (if s.md.mode = .dormant then 2 ^ 30 else 0) +
    (if s.md.mode = .recovery then 2 ^ 29 else 0) + (16 - s.ccp.mspi.length) * 2 ^ 16 + satN 16 s.ccp.outMspi.length

def sendMiso (s : State) (l : List Byte) : State := { s with ccp := { s.ccp with miso := l } }

/-- READ_STATUS. -/
def execReadStatus (s : State) : Out :=
  .next (sendMiso s (if mspiRuns s then beBytes 4 (statusWord s) else []))

/-- The packet of an output (R428). -/
def outBytes : CcpOut → List Byte
  | .reply r => replyBytes r
  | .event e => eventBytes e
  | .keepalive _ => []

/-- MISO carries packets: not in DORMANT nor a shutdown, where it is released (R473, R492). -/
def misoOpen (s : State) : Bool := mspiRuns s && decide (s.pw.power ≠ .dormant ∧ s.pw.power ≠ .shutdown)

/-- READ_PACKET: the oldest packet with its LEN and CRC, which leaves the queue when the host has clocked all of it. -/
def readPacketFx (complete : Bool) (s : State) : State :=
  if !misoOpen s then sendMiso s []
  else
    match s.ccp.outMspi with
    | [] => sendMiso s [0, 0]
    | o :: rest =>
      let body := beBytes 2 (outBytes o).length ++ outBytes o
      let s := sendMiso s (body ++ beBytes 4 (crc32 body))
      if complete then { s with ccp := { s.ccp with outMspi := rest } } else s

/-- READ_PACKET. -/
def execReadPacket (complete : Bool) (s : State) : Out := .next (readPacketFx complete s)

/-- A WRITE_PACKET that ends well: LEN in its range, all bytes there, and the CRC-32 that of LEN and the packet (R433). -/
def writeOk (len : Nat) (bytes : List Byte) (crc : Nat) : Bool :=
  decide (crc = crc32 (beBytes 2 len ++ bytes)) && decide (6 ≤ len ∧ len ≤ 8198 ∧ bytes.length = len)

/-- WRITE_PACKET (R434): a wake source in DORMANT and during its entry, else a command for Cox. -/
def writePacketFx (len : Nat) (bytes : List Byte) (crc : Nat) (s : State) : State :=
  if !mspiRuns s then s
  else if !writeOk len bytes crc then { s with ccp := { s.ccp with mspiCrcCnt := satN 32 (s.ccp.mspiCrcCnt + 1) } }
  else if s.pw.power = .dormant ∨ (enteringDormant s).isSome then wakeSource .mspi s
  else if !coxReady s then s
  else if 16 ≤ s.ccp.mspi.length then { s with ccp := { s.ccp with dropCnt := satN 32 (s.ccp.dropCnt + 1) } }
  else { s with ccp := { s.ccp with mspi := s.ccp.mspi ++ [(s.tm.now, bytes)] } }

/-- WRITE_PACKET. -/
def execWritePacket (len : Nat) (bytes : List Byte) (crc : Nat) (s : State) : Out :=
  .next (sendMiso (writePacketFx len bytes crc s) [])

/-! TLV items (R429) -/

/-- The items of PARAM; none where one runs past its end. `n` bounds their number. -/
def readTlvs : Nat → List Byte → Option (List Tlv)
  | 0, l => if l = [] then some [] else none
  | n + 1, l =>
    if l = [] then some []
    else
      let len := beNat (slice l 2 2)
      if l.length < 4 ∨ l.length < 4 + len then none
      else (readTlvs n (l.drop (4 + len + (4 - len % 4) % 4))).map ({ type := beNat (slice l 0 2), value := (l.drop 4).take len } :: ·)

def tlvsOf (l : List Byte) : Option (List Tlv) := readTlvs l.length l

/-- A parameter of an opcode: optional or not, and the lengths its value may have: from `lo` to `hi` in steps of `step`. -/
structure Param where
  opt : Bool
  lo : Nat
  hi : Nat
  step : Nat
deriving DecidableEq, Repr

def Param.takes (p : Param) (n : Nat) : Bool := decide (p.lo ≤ n ∧ n ≤ p.hi ∧ (n - p.lo) % max 1 p.step = 0)

/-- A value of one length. -/
def pFix (n : Nat) : Param := ⟨false, n, n, 1⟩
/-- A number; 1 or 2 numbers; one or more numbers; any block. -/
def pNum : Param := pFix 4
def pHalf : Param := ⟨false, 4, 8, 4⟩
def pNums : Param := ⟨false, 4, 8192, 4⟩
def pBlock : Param := ⟨false, 0, 8192, 1⟩
def Param.o (p : Param) : Param := { p with opt := true }

/-- Check 5 of R438: the TYPE of the first item that is unknown, repeated or of a wrong length; then of the first one missing. -/
def itemFault (ps : List Param) (seen : List Nat) : List Tlv → Option Nat
  | [] => ((List.range ps.length).find? fun i =>
      !seen.contains (i + 1) && (match ps[i]? with | some p => !p.opt | none => false)).map (· + 1)
  | t :: l =>
    match (if t.type = 0 then none else ps[t.type - 1]?) with
    | none => some t.type
    | some p => if seen.contains t.type || !p.takes t.value.length then some t.type else itemFault ps (t.type :: seen) l

/-- Parameters of MODE_SET and of FH_PORT_PARAM, which also stand in blocks. -/
def modeParams : List Param :=
  [pNum, pHalf.o, pHalf.o, pHalf.o, pHalf.o, pHalf.o, (pFix 16).o, pNum.o, pNum.o, pBlock.o, pNum.o, pNum.o]

def portParams : List Param :=
  [pNum, (pFix 6).o, (pFix 6).o, pNum.o, (pFix 12).o, pNum.o, pNum.o, pNum.o, pNum.o, pNum.o, pNum.o]

/-- Parameters of each opcode in the order of R442; none for an opcode that is no command. KERNEL_INSTALL has no TLVs. -/
def opParams (op : Nat) : Option (List Param) :=
  if op ∈ [0x0001, 0x0002, 0x0005, 0x0023, 0x0024, 0x0025, 0x0082, 0x0090, 0x00A0, 0x00D1, 0x00E2, 0x00E3, 0x00E4] then some []
  else if op ∈ [0x0011, 0x0021, 0x0048, 0x0071, 0x00A3] then some [pNum.o]
  else if op ∈ [0x0049, 0x0055, 0x0061, 0x0062, 0x0063, 0x0064, 0x00A1, 0x00B1] then some [pNum]
  else if op ∈ [0x0034, 0x0057, 0x00A2] then some [pNum, pNum.o]
  else if op ∈ [0x0052, 0x0054, 0x0072, 0x0092, 0x00C0, 0x00D0] then some [pNum, pNum]
  else if op ∈ [0x0040, 0x0045, 0x004C, 0x0050, 0x0051] then some [pFix 8, pNum]
  else if op ∈ [0x0041, 0x0042] then some [pFix 8]
  else if op = 0x0003 then some [pNum, pFix 16]
  else if op = 0x0004 then some [pNum, pBlock, pNum, pNum, pFix 16]
  else if op = 0x0010 then some modeParams
  else if op = 0x0012 then some [pHalf.o, pHalf.o, pHalf.o, pHalf.o, pHalf.o, pNum.o]
  else if op = 0x0020 then some [pNum, pFix 8, pNum.o, pNum]
  else if op = 0x0022 then some [pNum, pNum, pNum, pFix 256]
  else if op = 0x0030 then some [pNum, (pFix 8).o, (pFix 8).o]
  else if op = 0x0031 then some portParams
  else if op = 0x0032 then some [pNum, (pFix 20).o, pNum.o]
  else if op = 0x0033 then some [pNum.o, pNum.o, pNum.o, pNum.o, pNum.o]
  else if op = 0x0043 then some [pNum, pFix 8, pNum.o, pNum.o, pNum.o, pNum.o]
  else if op = 0x0044 then some [pFix 8, pNum, pNum, pNums]
  else if op = 0x0046 then some [pNum, ⟨false, 0, 8192, 4⟩, pNum.o]
  else if op = 0x0047 then some [pFix 8, pNum.o, pNum.o]
  else if op = 0x004A then some [pNum, pNum.o, pBlock.o, pNum.o, pNum.o, pBlock.o]
  else if op = 0x004B then some [pNum, pNum.o, pNum.o, pNum.o]
  else if op = 0x0053 then some [pNum, pNum, pFix 1056]
  else if op = 0x0056 then some [⟨false, 4, 256, 4⟩]
  else if op = 0x0060 then some [pNum, pNum, pNum, pNum, pNum, pNum]
  else if op = 0x0065 then some [pNum, pNum, pNum, pNum]
  else if op = 0x0070 then some [pNum.o, pNum.o, pNum.o, pNum.o, (pFix 256).o]
  else if op = 0x0073 then some [pNum, pNum, pNum]
  else if op = 0x0080 then some [(pFix 8).o, pNum.o]
  else if op = 0x0081 then some [pFix 8, pNum]
  else if op = 0x0091 then some [pNum.o, pNum.o, pNum.o, pNum.o]
  else if op = 0x00B0 then some [⟨false, 4, 8188, 1⟩]
  else if op = 0x00C1 then some [⟨false, 8, 512, 8⟩]
  else if op = 0x00E0 then some [pNum, pNum, pNum, pNum.o]
  else if op = 0x00E1 then some [pNum, ⟨false, 4, 8180, 1⟩]
  else none

/-- A block of TLVs breaks checks 4 and 5, the FALLBACK blocks inside it included. `n` bounds the nesting. -/
def blockBad : Nat → List Param → List Byte → Bool
  | 0, _, _ => true
  | n + 1, ps, l =>
    match tlvsOf l with
    | none => true
    | some ts => (itemFault ps [] ts).isSome || (decide (ps = modeParams) && ts.any fun t => decide (t.type = 10) && blockBad n ps t.value)

/-- The TYPE of the item at fault in a command's items, those of its blocks included. -/
def paramFault (op : Nat) (ps : List Param) (ts : List Tlv) : Option Nat :=
  match itemFault ps [] ts with
  | some k => some k
  | none =>
    let bad (type : Nat) (inner : List Param) : Bool :=
      ts.any fun t => decide (t.type = type) && blockBad (t.value.length + 1) inner t.value
    if op = 0x0010 ∧ bad 10 modeParams then some 10 else if op = 0x0004 ∧ bad 2 portParams then some 2 else none

/-! Values -/

/-- The value of an item. -/
def valO (ts : List Tlv) (k : Nat) : Option (List Byte) := (ts.find? fun t => decide (t.type = k)).map fun t => t.value

def val (ts : List Tlv) (k : Nat) : List Byte := (valO ts k).getD []
def num (ts : List Tlv) (k : Nat) : Nat := beNat (val ts k)
def numO (ts : List Tlv) (k : Nat) : Option Nat := (valO ts k).map beNat
def intO (ts : List Tlv) (k : Nat) : Option Int := (numO ts k).map (signed 32)

/-- The numbers of a value. -/
def numbers (l : List Byte) : List Nat := (List.range (l.length / 4)).map fun i => beNat (slice l (4 * i) 4)

def numsO (ts : List Tlv) (k : Nat) : Option (List Nat) := (valO ts k).map numbers

def pairO (ts : List Tlv) (k : Nat) : Option (Nat × Nat) := (numsO ts k).map fun l => (nth 0 l 0, nth 0 l 1)

/-- A per-half item: signed where its range has negative values (R429). -/
def halfO (neg : Bool) (ts : List Tlv) (k : Nat) : Option Halves :=
  (numsO ts k).map fun l =>
    let f (n : Nat) : Int := if neg then signed 32 n else n
    { h0 := f (nth 0 l 0), h1 := (l[1]?).map f }

/-- A time tag in the layout of R86. -/
def tagOf (n : Nat) : TimeTag :=
  { frame := n / 16384 % 1024, subframe := n / 1024 % 16, slot := n / 16 % 64, symbol := n % 16 }

/-- Coefficients, as R102. -/
def coefs (l : List Byte) : List Cplx := (List.range (l.length / 4)).map fun i => unpackCplx (BitVec.ofNat 32 (beNat (slice l (4 * i) 4)))

def modeItems (ts : List Tlv) : ModeItems :=
  { target := num ts 1, dlBeams := halfO false ts 2, ulBeams := halfO false ts 3, rateKsps := halfO false ts 4,
    scsKhz := halfO false ts 5, mantW := halfO false ts 6, loKhz := numsO ts 7, role := numO ts 8, members := numO ts 9,
    base := numO ts 11, test := numO ts 12 }

/-- The chain of FALLBACK blocks, outermost first. `n` bounds its length. -/
def fallbackChain : Nat → List Tlv → List ModeItems
  | 0, _ => []
  | n + 1, ts =>
    match valO ts 10 with
    | none => []
    | some b => let l := (tlvsOf b).getD []; modeItems l :: fallbackChain n l

def portReq (ts : List Tlv) : PortParamReq :=
  { port := num ts 1, localMac := numO ts 2, hostMac := numO ts 3, etherType := numO ts 4,
    vlan := (numsO ts 5).map (fun l => (nth 0 l 0, nth 0 l 1, nth 0 l 2)), udpEn := numO ts 6, localIp := numO ts 7,
    hostIp := numO ts 8, udpPort := numO ts 9, dscp := numO ts 10, pktLimit := numO ts 11 }

/-- A stored sequence: per transaction its chip select, its length and its bytes. `n` bounds their number. -/
def xfers : Nat → List Byte → List PaXfer
  | 0, _ => []
  | _ + 1, [] => []
  | n + 1, cs :: l =>
    let k := (l.headD 0).toNat
    { cs := cs.toNat, bytes := (l.drop 1).take k } :: xfers n (l.drop (1 + k))

def paReq (miso : List Byte) (ts : List Tlv) : PaBusReq :=
  { op := num ts 1, cs := numO ts 2, bytes := valO ts 3, tag := (numO ts 4).map tagOf, offsetNs := intO ts 5,
    sequence := (valO ts 6).map (fun l => xfers l.length l), miso := miso }

def word (n : Nat) : Word := BitVec.ofNat 32 n

/-- Pairs of address and value. -/
def pairs : List Nat → List (Nat × Word)
  | a :: v :: l => (a, word v) :: pairs l
  | _ => []

/-! From a packet to its command (R428, R442) -/

/-- The commands of the opcodes up to 0x003F; memory that is read shows no fault. -/
def cmdSystem (h : CmdHdr) (op : Nat) (ts : List Tlv) (raw : List Byte) : Option Instr :=
  match op with
  | 0x0001 => some (.ident h)
  | 0x0002 => some (.coxStatus h)
  | 0x0003 => some (.eventMask h (num ts 1) (num ts 2))
  | 0x0004 => some (.startupWrite h { portConfig := num ts 1, portParam := portReq ((tlvsOf (val ts 2)).getD []), pinLimit := num ts 3,
                                      slackFloor := num ts 4, loKhz := numbers (val ts 5) } 0)
  | 0x0005 => some (.startupRead h)
  | 0x0010 => some (.modeSet h { items := modeItems ts, fallbacks := fallbackChain raw.length ts })
  | 0x0011 => some (.modeStatus h (numO ts 1))
  | 0x0012 => some (.carrierSet h { ncoHz := halfO true ts 1, nPrb := halfO false ts 2, shiftDl := halfO true ts 3,
                                    shiftUl := halfO true ts 4, fftAdv := halfO true ts 5, phaseComp := numO ts 6 })
  | 0x0020 => some (.unitStateSet h (num ts 1) (num ts 2) (numO ts 3) (num ts 4) 0)
  | 0x0021 => some (.fabricStatus h (numO ts 1))
  | 0x0022 => some (.sectorBeamSet h (num ts 1) (num ts 2) (num ts 3) (coefs (val ts 4)))
  | 0x0023 => some (.kernelInstall h { words := (numbers raw).map word })
  | 0x0024 => some (.kernelRemove h)
  | 0x0025 => some (.kernelStatus h)
  | 0x0030 => some (.fhPortConfig h (num ts 1) (pairO ts 2) (pairO ts 3))
  | 0x0031 => some (.fhPortParam h (portReq ts))
  | 0x0032 => some (.fhEq h (num ts 1) ((numsO ts 2).map fun l => l.map (signed 32)) (numO ts 3))
  | 0x0033 => some (.fhWindows h { csOpen := numO ts 1, csClose := numO ts 2, udOpen := numO ts 3, udClose := numO ts 4,
                                   accWait := numO ts 5 })
  | 0x0034 => some (.fhStats h (num ts 1) (numO ts 2))
  | _ => none

/-- Those of RF, DPD, calibration and capture. `miso`: what the PA bus delivers. -/
def cmdRadio (miso : List Byte) (h : CmdHdr) (op : Nat) (ts : List Tlv) : Option Instr :=
  match op with
  | 0x0040 => some (.loTune h (num ts 1) (num ts 2))
  | 0x0041 => some (.loOff h (num ts 1))
  | 0x0042 => some (.synthCal h (num ts 1))
  | 0x0043 => some (.idleGap h { op := num ts 1, groups := num ts 2, start := (numO ts 3).map tagOf, slots := numO ts 4,
                                 period := numO ts 5, id := numO ts 6 })
  | 0x0044 => some (.tddPattern h (num ts 1) (num ts 2) (num ts 3) (numbers (val ts 4)))
  | 0x0045 => some (.rxAttSet h (num ts 1) (num ts 2))
  | 0x0046 => some (.powerTableSet h (num ts 1) ((numbers (val ts 2)).map word) (numO ts 3))
  | 0x0047 => some (.powerStepSet h (num ts 1) (numO ts 2) (intO ts 3))
  | 0x0048 => some (.rfStatus h (numO ts 1))
  | 0x0049 => some (.rfCoefRead h (num ts 1))
  | 0x004A => some (.paBus h (paReq miso ts))
  | 0x004B => some (.orxSwitch h (num ts 1) (numO ts 2) (numO ts 3) (numO ts 4))
  | 0x004C => some (.loopbackSet h (num ts 1) (num ts 2))
  | 0x0050 => some (.dpdBypassCmd h (num ts 1) (num ts 2))
  | 0x0051 => some (.dpdTrainEn h (num ts 1) (num ts 2))
  | 0x0052 => some (.dpdSlotRead h (num ts 1) (num ts 2) none)
  | 0x0053 => some (.dpdSlotWrite h (num ts 1) (num ts 2) (recordFrom (val ts 3)))
  | 0x0054 => some (.dpdSlotClear h (num ts 1) (num ts 2))
  | 0x0055 => some (.dpdStatusCmd h (num ts 1))
  | 0x0056 => some (.calRun h (numbers (val ts 1)))
  | 0x0057 => some (.calStatus h (num ts 1) (numO ts 2))
  | 0x0060 => some (.capConfig h (num ts 1) (word (num ts 2)) (word (num ts 3)) (word (num ts 4)) (word (num ts 5)) (word (num ts 6)))
  | 0x0061 => some (.capArm h (num ts 1))
  | 0x0062 => some (.capTrigger h (num ts 1))
  | 0x0063 => some (.capStop h (num ts 1))
  | 0x0064 => some (.capRelease h (num ts 1))
  | 0x0065 => some (.capRead h (num ts 1) (num ts 2) (num ts 3) (num ts 4) [])
  | _ => none

/-- Those of the weight store, time, sensors, memory, registers, the log and firmware. -/
def cmdStore (h : CmdHdr) (op : Nat) (ts : List Tlv) : Option Instr :=
  match op with
  | 0x0070 => some (.wsConfig h { blendK := numO ts 1, estMinQ := intO ts 2, ageMin := numO ts 3, regZf := numO ts 4,
                                  recip := (valO ts 5).map coefs })
  | 0x0071 => some (.wsStatus h (numO ts 1))
  | 0x0072 => some (.wsExport h (num ts 1) (num ts 2))
  | 0x0073 => some (.wsImport h (num ts 1) (num ts 2) (num ts 3))
  | 0x0080 => some (.timeConfig h (numO ts 1) (numO ts 2))
  | 0x0081 => some (.timeSet h (num ts 1) (num ts 2))
  | 0x0082 => some (.acceptStep h)
  | 0x0090 => some (.thermalStatus h)
  | 0x0091 => some (.thermalConfig h { pinLimit := numO ts 1, riseLimit := numO ts 2, warnT := numO ts 3, stepInt := numO ts 4 })
  | 0x0092 => some (.hkRead h (num ts 1) (num ts 2))
  | 0x00A0 => some (.memInfo h)
  | 0x00A1 => some (.memConfig h (num ts 1))
  | 0x00A2 => some (.memSpare h (num ts 1) (numO ts 2))
  | 0x00A3 => some (.memLog h (numO ts 1) none)
  | 0x00B0 => some (.bulkPut h (val ts 1))
  | 0x00B1 => some (.bulkGet h (num ts 1))
  | 0x00C0 => some (.regRead h (num ts 1) (num ts 2))
  | 0x00C1 => some (.regWrite h (pairs (numbers (val ts 1))))
  | 0x00D0 => some (.logRead h (num ts 1) (num ts 2) none)
  | 0x00D1 => some (.logClear h)
  | 0x00E0 => some (.fwBegin h (num ts 1) (num ts 2) (num ts 3) (numO ts 4))
  | 0x00E1 => some (.fwWrite h (num ts 1) (val ts 2))
  | 0x00E2 => some (.fwCommit h)
  | 0x00E3 => some (.fwActivate h)
  | 0x00E4 => some (.fwStatus h)
  | _ => none

/-- The command of an opcode and its items. -/
def cmdOf (miso : List Byte) (h : CmdHdr) (op : Nat) (ts : List Tlv) (raw : List Byte) : Option Instr :=
  ((cmdSystem h op ts raw).or (cmdRadio miso h op ts)).or (cmdStore h op ts)

/-- Checks 1 to 5 of R438 on a packet: the failing status and DETAIL, or the command. -/
def judgePacket (s : State) (miso : List Byte) (h : CmdHdr) (b : List Byte) : (Nat × Nat) ⊕ Instr :=
  let op := beNat (slice b 0 2)
  let n := beNat (slice b 4 2)
  let param := b.drop 6
  if n % 4 ≠ 0 ∨ n ≠ param.length ∨ 8192 < n then .inl (stBadLen, 0)
  else
    match opParams op with
    | none => .inl (stBadOpcode, 0)
    | some ps =>
      match modeCheck s op with
      | some e => .inl e
      | none =>
        if n = 0 ∧ (op = 0x0023 ∨ !ps.all fun p => p.opt) then .inl (stBadLen, 0)
        else
          match (if op = 0x0023 then some [] else tlvsOf param) with
          | none => .inl (stBadLen, 0)
          | some ts =>
            match (if op = 0x0023 then none else paramFault op ps ts) with
            | some k => .inl (stBadParam, k)
            | none =>
              match cmdOf miso h op ts param with
              | some i => .inr i
              | none => .inl (stBadOpcode, 0)

/-- A packet that fails is answered, and kept for R440. -/
def refusePacket (s : State) (h : CmdHdr) (b : List Byte) (status detail : Nat) : State :=
  let op := beNat (slice b 0 2) % 0x8000
  let id := s.ccp.nextSlot
  let s := pushDone (openSlot s h op) h.path { tag := h.tag, slot := id, instr := none, raw := b, reply := none }
  answer s id { opcode := op, tag := h.tag, status := status, detail := detail }

/-- The oldest waiting packet: on equal arrival, in band first (R437). -/
def nextPacket (s : State) : Option (CcpPath × List Byte × State) :=
  let band (p : Nat × List Byte) (l : List (Nat × List Byte)) : Option (CcpPath × List Byte × State) :=
    some (.inBand, p.2, { s with ccp := { s.ccp with inBand := l } })
  let mspi (p : Nat × List Byte) (l : List (Nat × List Byte)) : Option (CcpPath × List Byte × State) :=
    some (.mspi, p.2, { s with ccp := { s.ccp with mspi := l } })
  match s.ccp.inBand, s.ccp.mspi with
  | p :: l, [] => band p l
  | [], q :: m => mspi q m
  | p :: l, q :: m => if p.1 ≤ q.1 then band p l else mspi q m
  | [], [] => none

/-! What leaves in band (R82, R111, R407, R431, R451) -/

/-- Until a command has arrived in band, events leave by the link of lane 0, port A's (R451; log entry 187). -/
def eventLane (s : State) : Option Nat := if s.ccp.bandPort.isNone && decide (upPort s = 0) then some 0 else none

/-- The oldest packet of Cox may leave: its port is up, and the link of an event that has one of its own. -/
def outReady (s : State) : Bool :=
  portUp s (upPort s) &&
    match s.ccp.outBand.head?, eventLane s with
    | some (.event _), some l => linkIsUp s l
    | _, _ => true

/-- One packet of Cox leaves in band, once the upstream-facing port is up. -/
def sendOut (s : State) : State :=
  let port := upPort s
  if !outReady s then s
  else
    match s.ccp.outBand with
    | [] => s
    | o :: rest =>
      let s := { s with ccp := { s.ccp with outBand := rest } }
      match o with
      | .keepalive n => sendOn s port (effCcp s n false [])
      | .reply r => sendCcp s port r.poison (replyBytes r)
      | .event e => sendCcp s port false (eventBytes e) (eventLane s)

/-- The oldest frame of a lane leaves, read from the egress buffer (R82, R112, R355). -/
def frameLeaves (s : State) (lane : Nat) : State :=
  if linkIsUp s lane then
    let s := match s.fh.egress.find? fun e => decide (e.lane = lane) with
      | some e =>
        let s := countPoison s (if !e.forwarded && bufMarked s bufEgress (egressKey e) then 1 else 0)
        { s with fh := { s.fh with sent := tset none s.fh.sent lane (some (leaves s e)) } }
      | none => s
    { s with fh := { s.fh with egress := s.fh.egress.eraseP fun e => decide (e.lane = lane) },
             tm := { s.tm with ptpOut := s.tm.ptpOut.eraseP fun e => decide (e.lane = lane) } }
  else s

/-- What leaves on the links in a tick. -/
def linksTick (s : State) : State := sendOut ((List.range 4).foldl frameLeaves s)

end Sys2Proof.Machine
end

