-- ==== Sys2Proof/Machine/Uplink.lean ====
section
/-! DEFINITION. Uplink data that leaves: packing and sending of a symbol, and the deadline of CHAIN accumulation (R100, R111 to
R113, R117 to R119, R155). -/

namespace Sys2Proof.Machine

/-! Uplink transmission (R100, R111 to R113, R117 to R119) -/

/-- A PRB on its way out: its section, status bits, PRB, and its block with the poison mark. -/
structure OutPrb where
  id : Nat
  beam : Nat
  status : Nat
  prb : Nat
  block : List Byte
  poison : Bool
deriving DecidableEq, Repr

/-- A packet being filled: its sections, newest first, each with its first PRB, PRB count and blocks in order. -/
structure OutPkt where
  secs : List (OutPrb × Nat × List Byte) := []
  poison : Bool := false
  part : Bool := false
deriving DecidableEq, Repr

def OutPkt.size (p : OutPkt) : Nat := p.secs.foldl (fun n x => n + 8 + x.2.2.length) 16

/-- Adds a PRB to a packet: to its last section where it continues it. -/
def OutPkt.add (p : OutPkt) (b : OutPrb) : OutPkt :=
  match p.secs with
  | (f, n, bytes) :: t =>
    if f.id = b.id then { p with secs := (f, n + 1, bytes ++ b.block) :: t, poison := p.poison || b.poison }
    else { p with secs := (b, 1, b.block) :: p.secs, poison := p.poison || b.poison }
  | [] => { p with secs := [(b, 1, b.block)], poison := p.poison || b.poison }

def OutPkt.continues (p : OutPkt) (b : OutPrb) : Bool :=
  match p.secs with
  | (f, _, _) :: _ => decide (f.id = b.id)
  | [] => false

/-- Packs PRBs into packets of at most `limit` bytes; a section splits at the last PRB boundary that fits (R111). -/
def packPrbs (limit : Nat) : List OutPrb → OutPkt → List OutPkt
  | [], p => if p.secs = [] then [] else [p]
  | b :: t, p =>
    let need := b.block.length + (if p.continues b then 0 else 8)
    if p.secs = [] ∨ p.size + need ≤ limit then packPrbs limit t (p.add b)
    else { p with part := p.continues b } :: packPrbs limit t (OutPkt.add {} b)

/-- A packet's payload. -/
def OutPkt.payload (p : OutPkt) : List Byte :=
  p.secs.reverse.flatMap fun x =>
    beBytes 2 x.1.id ++ [BitVec.ofNat 8 x.1.beam, BitVec.ofNat 8 x.1.status] ++ beBytes 2 x.1.prb ++ beBytes 2 x.2.1 ++ x.2.2

/-- The most bytes of an EFF packet on a port (R85, R111). -/
def pktLimitOf (s : State) (port : Nat) : Nat :=
  let p := paramOf s port
  if p.udpEn ∧ !chainFacing s port then min p.pktLimit 9188 else min p.pktLimit 9216

/-- Sends one packet of a symbol; one that is due on a link that is down is discarded after it took its number (R111, R113). -/
def sendPkt (half : Nat) (tag : TimeTag) (typ m : Nat) (late : Bool) (s : State) (p : OutPkt) : State :=
  let port := upPort s
  let (seq, s) := nextSeq s port typ half (chainPos s)
  let pl := p.payload
  let h : EffHdr :=
    { version := 1, typ := typ, half := half, module := chainPos s, seq := seq, tag := tag, poison := p.poison, late := late,
      partialBit := p.part, compressed := decide (m ≠ 0), sectionCnt := p.secs.length, payloadLen := pl.length, mantW := m }
  if linkIsUp s (dueLane s port) then sendOn s port (effHdrBytes h ++ pl) else fhCount s port cTxDrop

/-- The values of one PRB of a section, those of the accumulation in CHAIN; how often the hub's narrowing saturated, and whether they
derive from a poisoned word (R111, R112, R119). -/
def ulValues (s : State) (half : Nat) (tag : TimeTag) (x : Section) (prb : Nat) : List Int × Nat × Bool :=
  let own := s.fab.ulOut.find? fun d => decide (d.half = half ∧ d.tag = tag ∧ d.unit = x.beam ∧ d.prb = prb)
  let works := beamWorks (viewFor s half tag) .ul half x.beam || waitsDown s
  let v := if works then ((own.map fun d => CplxOps.parts d.vals).getD (List.replicate 24 0)) else List.replicate 24 0
  let po := ((own.map fun d => d.poison).getD false) || bufMarked s bufUlOut (ulOutKey half tag x.beam prb)
  if isHub s && waitsDown s && decide (mantW s half = 0) then
    (v.map fun a => (psSat 16 a).1, (v.map fun a => (psSat 16 a).2).foldl (· + ·) 0, po)
  else (v, 0, po)

/-- Status bits of a section's uplink data of a symbol (R100). -/
def ulStatus (s : State) (half : Nat) (tag : TimeTag) (x : Section) : Nat :=
  let down := s.fh.partials.filter fun e => decide (e.half = half ∧ e.tag = tag ∧ e.id = x.id) && !e.bad && waitsDown s
  let b (c : Bool) (n : Nat) : Nat := if c then n else 0
  b (x.miss || down.any fun e => e.miss) 128 + b (x.poison || down.any fun e => e.poison) 64 +
    b (x.late || down.any fun e => e.lateWeight) 32 +
    b ((s.fab.mismatch.any fun m => decide (m = (.ul, half, tag, x.id))) || down.any fun e => e.mismatch) 16

/-- The PRBs that a symbol sends, in packing order, and how many of their values saturated. -/
def outPrbs (s : State) (half : Nat) (tag : TimeTag) (m : Nat) : List (OutPrb × Nat) :=
  (ulSections s half tag).flatMap fun x =>
    let st := ulStatus s half tag x
    (List.range x.prbCnt).map fun i =>
      let (v, sat, po) := ulValues s half tag x (x.prbStart + i)
      ({ id := x.id, beam := x.beam, status := st, prb := x.prbStart + i, block := encodePrb v m, poison := po }, sat)

/-- What a sent symbol leaves: its banks are free. -/
def dropUlSymbol (s : State) (half : Nat) (tag : TimeTag) : State :=
  { s with
    fab := { s.fab with
      ulOut := s.fab.ulOut.filter fun d => !decide (d.half = half ∧ d.tag = tag),
      symbols := s.fab.symbols.map fun r => if r.dir = .ul ∧ r.half = half ∧ r.tag = tag then { r with sent := true } else r }
    fh := { s.fh with
      partials := s.fh.partials.filter fun e => !decide (e.half = half ∧ e.tag = tag),
      waits := s.fh.waits.filter fun w => !decide (w.typ = 4 ∧ w.half = half ∧ w.tag = tag) } }

/-- The packets of a symbol carry LATE: a contribution was missing or poisoned, or came LATE (R86, R119; log entry 146). -/
def lateSymbol (s : State) (half : Nat) (tag : TimeTag) : Bool :=
  ((accOf s half tag).map fun a => a.late).getD false ||
    (waitsDown s && s.fh.partials.any fun e => decide (e.half = half ∧ e.tag = tag) && (e.bad || e.lateBit))

/-- Sends a symbol's uplink data (R111, R112, R117, R119). That PS_SAT_CNT counts on the downstream-facing port, and that a partial sum
with LATE = 1 makes these packets LATE, is the model's choice (log entry 146). -/
def sendSymbol (s : State) (half : Nat) (tag : TimeTag) : State :=
  let member := isMember s
  let m := if member ∧ mantW s half = 0 then 16 else mantW s half
  let l := outPrbs s half tag m
  let late := lateSymbol s half tag
  let s := countPoison (fhCount s (downPort s) cPsSat ((l.map Prod.snd).foldl (· + ·) 0)) (l.filter fun p => p.1.poison).length
  let s := (packPrbs (pktLimitOf s (upPort s)) (l.map Prod.fst) {}).foldl (sendPkt half tag (if member then 4 else 2) m late) s
  let s := if waitsDown s then
      let old := (accOf s half tag).getD { half := half, tag := tag, closed := true, late := late, deadline := uFp s }
      putAcc s { old with closed := true, late := late }
    else s
  dropUlSymbol s half tag

/-- UPLINK_SEND: a ready symbol leaves; in CHAIN it waits until the accumulation items of its PRBs have run. No uplink data leaves while
the plane is stopped (R59); a symbol received while a PLL was out of lock is never sent (R28). -/
def uplinkSendFx (half : Nat) (tag : TimeTag) (s : State) : State :=
  if planeStopped s || !symbolReady s half tag || accPending s half tag then s else sendSymbol s half tag

/-- UPLINK_SEND. -/
def execUplinkSend (half : Nat) (tag : TimeTag) (s : State) : Out := .next (uplinkSendFx half tag s)

/-- ACCUMULATION_DEADLINE, at t + ACC_WAIT × (M − k): what is missing is added as zero, counted once and reported, the accumulation
items that are left complete, and the symbol may leave (R118, R119, R155). That the missing contribution counts on the
downstream-facing port, and that PS_LATE names the next module downstream, is the model's choice (log entry 146). -/
def accumulationDeadlineFx (half : Nat) (tag : TimeTag) (s : State) : State :=
  match accOf s half tag with
  | none => s
  | some a =>
    if planeStopped s || !waitsDown s || a.closed || decide (uFp s < a.deadline) then s
    else
      let missing := !partialsComplete s half tag
      let s := putAcc s { a with closed := true, late := missing }
      let s := if missing then psLate (fhCount s (downPort s) cPsLate) tag (chainPos s + 1) else s
      (accItems s half tag).foldl endAccumulation s

/-- ACCUMULATION_DEADLINE. -/
def execAccumulationDeadline (half : Nat) (tag : TimeTag) (s : State) : Out := .next (accumulationDeadlineFx half tag s)


end Sys2Proof.Machine
end

