-- ==== Sys2Proof/Machine/Dispatch.lean ====
section
/-! DEFINITION. The effect of each command on everything but the queue: one arm per row of the opcode table. -/

namespace Sys2Proof.Machine

def exec (i : Instr) (s : State) : Host.Outcome State Fault Refusal :=
  match i with
  | .vinStart => Sys2Proof.Machine.execVinStart s
  | .powerOnReset => Sys2Proof.Machine.execPowerOnReset s
  | .brownOut vin10mV => Sys2Proof.Machine.execBrownOut vin10mV s
  | .overvoltage vin10mV => Sys2Proof.Machine.execOvervoltage vin10mV s
  | .railFault rail vin10mV => Sys2Proof.Machine.execRailFault rail vin10mV s
  | .dramTrainingDone failed => Sys2Proof.Machine.execDramTrainingDone failed s
  | .memoryFillDone => Sys2Proof.Machine.execMemoryFillDone s
  | .firmwareSelect => Sys2Proof.Machine.execFirmwareSelect s
  | .referenceValid rateKhz => Sys2Proof.Machine.execReferenceValid rateKhz s
  | .startupComplete => Sys2Proof.Machine.execStartupComplete s
  | .housekeepingRound hk => Sys2Proof.Machine.execHousekeepingRound hk s
  | .modePrepDone => Sys2Proof.Machine.execModePrepDone s
  | .crewLoad crew badSeats => Sys2Proof.Machine.execCrewLoad crew badSeats s
  | .stroke half => Sys2Proof.Machine.execStroke half s
  | .uptimeTick => Sys2Proof.Machine.execUptimeTick s
  | .symbolStart dir half tag samples => Sys2Proof.Machine.execSymbolStart dir half tag samples s
  | .symbolCut dir half tag => Sys2Proof.Machine.execSymbolCut dir half tag s
  | .symbolBoundary half tag => Sys2Proof.Machine.execSymbolBoundary half tag s
  | .itemDispatch crew => Sys2Proof.Machine.execItemDispatch crew s
  | .queueWaitEnd seat => Sys2Proof.Machine.execQueueWaitEnd seat s
  | .reductionDelivery crew => Sys2Proof.Machine.execReductionDelivery crew s
  | .handshakeTimeout crew => Sys2Proof.Machine.execHandshakeTimeout crew s
  | .seatEnd seat => Sys2Proof.Machine.execSeatEnd seat s
  | .seatNop seat f => Sys2Proof.Machine.execSeatNop seat f s
  | .seatMpy seat f => Sys2Proof.Machine.execSeatMpy seat f s
  | .seatMac seat f => Sys2Proof.Machine.execSeatMac seat f s
  | .seatMsu seat f => Sys2Proof.Machine.execSeatMsu seat f s
  | .seatNrw seat dd sat ks k => Sys2Proof.Machine.execSeatNrw seat dd sat ks k s
  | .seatNorm seat asel dd => Sys2Proof.Machine.execSeatNorm seat asel dd s
  | .seatAclr seat asel => Sys2Proof.Machine.execSeatAclr seat asel s
  | .seatAdd seat f => Sys2Proof.Machine.execSeatAdd seat f s
  | .seatSub seat f => Sys2Proof.Machine.execSeatSub seat f s
  | .seatAnd seat f => Sys2Proof.Machine.execSeatAnd seat f s
  | .seatOr seat f => Sys2Proof.Machine.execSeatOr seat f s
  | .seatXor seat f => Sys2Proof.Machine.execSeatXor seat f s
  | .seatMax seat f => Sys2Proof.Machine.execSeatMax seat f s
  | .seatMin seat f => Sys2Proof.Machine.execSeatMin seat f s
  | .seatAsr seat f => Sys2Proof.Machine.execSeatAsr seat f s
  | .seatShl seat f => Sys2Proof.Machine.execSeatShl seat f s
  | .seatExpr seat f => Sys2Proof.Machine.execSeatExpr seat f s
  | .seatExp seat dd da ep em w cnt errs => Sys2Proof.Machine.execSeatExp seat dd da ep em w cnt errs s
  | .seatMovi seat dd place imm => Sys2Proof.Machine.execSeatMovi seat dd place imm s
  | .seatMovs seat dd sreg => Sys2Proof.Machine.execSeatMovs seat dd sreg s
  | .seatLdp seat kndM idx imm => Sys2Proof.Machine.execSeatLdp seat kndM idx imm s
  | .seatMvp seat kndM idx dr => Sys2Proof.Machine.execSeatMvp seat kndM idx dr s
  | .seatLoop seat rs dr lend cnt => Sys2Proof.Machine.execSeatLoop seat rs dr lend cnt s
  | .seatJmp seat tgt => Sys2Proof.Machine.execSeatJmp seat tgt s
  | .seatBz seat dr tgt => Sys2Proof.Machine.execSeatBz seat dr tgt s
  | .seatBnz seat dr tgt => Sys2Proof.Machine.execSeatBnz seat dr tgt s
  | .uDataDownlink f => Sys2Proof.Machine.execUDataDownlink f s
  | .cSection f => Sys2Proof.Machine.execCSection f s
  | .partialSum f => Sys2Proof.Machine.execPartialSum f s
  | .ccpPacket f => Sys2Proof.Machine.execCcpPacket f s
  | .weightUpdate f => Sys2Proof.Machine.execWeightUpdate f s
  | .chainStatusRecord f => Sys2Proof.Machine.execChainStatusRecord f s
  | .macControlFrame port => Sys2Proof.Machine.execMacControlFrame port s
  | .uplinkSend half tag => Sys2Proof.Machine.execUplinkSend half tag s
  | .accumulationDeadline half tag => Sys2Proof.Machine.execAccumulationDeadline half tag s
  | .hostSilent => Sys2Proof.Machine.execHostSilent s
  | .hubSilent => Sys2Proof.Machine.execHubSilent s
  | .memberSilent => Sys2Proof.Machine.execMemberSilent s
  | .linkDown lane => Sys2Proof.Machine.execLinkDown lane s
  | .linkUp lane => Sys2Proof.Machine.execLinkUp lane s
  | .estimateDone item => Sys2Proof.Machine.execEstimateDone item s
  | .estAbandon item => Sys2Proof.Machine.execEstAbandon item s
  | .lookupDone faults => Sys2Proof.Machine.execLookupDone faults s
  | .ageingWalk => Sys2Proof.Machine.execAgeingWalk s
  | .refreshDue rank => Sys2Proof.Machine.execRefreshDue rank s
  | .targetedRefreshUrgent rank => Sys2Proof.Machine.execTargetedRefreshUrgent rank s
  | .agePromote req => Sys2Proof.Machine.execAgePromote req s
  | .meterWindow => Sys2Proof.Machine.execMeterWindow s
  | .refreshWindowEnd rank => Sys2Proof.Machine.execRefreshWindowEnd rank s
  | .scrubRead fault => Sys2Proof.Machine.execScrubRead fault s
  | .sramScrub fault => Sys2Proof.Machine.execSramScrub fault s
  | .migrationDone => Sys2Proof.Machine.execMigrationDone s
  | .dmaElement ch faults verifyFails => Sys2Proof.Machine.execDmaElement ch faults verifyFails s
  | .dmaFinalHandshake ch => Sys2Proof.Machine.execDmaFinalHandshake ch s
  | .dmaGo ch => Sys2Proof.Machine.execDmaGo ch s
  | .dmaArm ch => Sys2Proof.Machine.execDmaArm ch s
  | .dmaDisarm ch => Sys2Proof.Machine.execDmaDisarm ch s
  | .dmaStop ch => Sys2Proof.Machine.execDmaStop ch s
  | .dmaAbort ch => Sys2Proof.Machine.execDmaAbort ch s
  | .dmaSetFieldWrite ch field value => Sys2Proof.Machine.execDmaSetFieldWrite ch field value s
  | .capRdCntWrite ring value => Sys2Proof.Machine.execCapRdCntWrite ring value s
  | .trainEnWrite path value => Sys2Proof.Machine.execTrainEnWrite path value s
  | .timeNsRead => Sys2Proof.Machine.execTimeNsRead s
  | .rcRead addr => Sys2Proof.Machine.execRcRead addr s
  | .w1cWrite addr value => Sys2Proof.Machine.execW1cWrite addr value s
  | .registerWrite addr value => Sys2Proof.Machine.execRegisterWrite addr value s
  | .captureBlockStaged ring tag sampleOff samples => Sys2Proof.Machine.execCaptureBlockStaged ring tag sampleOff samples s
  | .captureBlockWritten ring => Sys2Proof.Machine.execCaptureBlockWritten ring s
  | .captureEnd ring => Sys2Proof.Machine.execCaptureEnd ring s
  | .immediateTrigger ring => Sys2Proof.Machine.execImmediateTrigger ring s
  | .timeTrigger ring => Sys2Proof.Machine.execTimeTrigger ring s
  | .levelTrigger ring powerDb => Sys2Proof.Machine.execLevelTrigger ring powerDb s
  | .calCaptureDone m => Sys2Proof.Machine.execCalCaptureDone m s
  | .dpdRunEnd e => Sys2Proof.Machine.execDpdRunEnd e s
  | .calRunEnd codes => Sys2Proof.Machine.execCalRunEnd codes s
  | .calTimeout => Sys2Proof.Machine.execCalTimeout s
  | .calCommandTimeout h => Sys2Proof.Machine.execCalCommandTimeout h s
  | .mramStore mismatches => Sys2Proof.Machine.execMramStore mismatches s
  | .lockDetected group => Sys2Proof.Machine.execLockDetected group s
  | .settleTimeout group => Sys2Proof.Machine.execSettleTimeout group s
  | .synthCalEnd group bandFound => Sys2Proof.Machine.execSynthCalEnd group bandFound s
  | .idleGapStart group id => Sys2Proof.Machine.execIdleGapStart group id s
  | .lossOfLock group => Sys2Proof.Machine.execLossOfLock group s
  | .pllUnlock cpll => Sys2Proof.Machine.execPllUnlock cpll s
  | .pllRelock => Sys2Proof.Machine.execPllRelock s
  | .txPathFault path fault => Sys2Proof.Machine.execTxPathFault path fault s
  | .rxPathFault path fault => Sys2Proof.Machine.execRxPathFault path fault s
  | .crewFault crew fault => Sys2Proof.Machine.execCrewFault crew fault s
  | .paTimedTransaction => Sys2Proof.Machine.execPaTimedTransaction s
  | .syncMessage m => Sys2Proof.Machine.execSyncMessage m s
  | .announce m => Sys2Proof.Machine.execAnnounce m s
  | .delayResp m => Sys2Proof.Machine.execDelayResp m s
  | .delayReq m => Sys2Proof.Machine.execDelayReq m s
  | .delayReqSend txStamp => Sys2Proof.Machine.execDelayReqSend txStamp s
  | .chainSyncSend txStamp => Sys2Proof.Machine.execChainSyncSend txStamp s
  | .syncTimeout => Sys2Proof.Machine.execSyncTimeout s
  | .ppsInEdge => Sys2Proof.Machine.execPpsInEdge s
  | .ppsLost => Sys2Proof.Machine.execPpsLost s
  | .ppsOutPulse => Sys2Proof.Machine.execPpsOutPulse s
  | .wakePin => Sys2Proof.Machine.execWakePin s
  | .wakeSecMatch => Sys2Proof.Machine.execWakeSecMatch s
  | .wakeComplete => Sys2Proof.Machine.execWakeComplete s
  | .dormantEntry => Sys2Proof.Machine.execDormantEntry s
  | .watchdogExpiry => Sys2Proof.Machine.execWatchdogExpiry s
  | .coxResume => Sys2Proof.Machine.execCoxResume s
  | .comparatorTrip sensor => Sys2Proof.Machine.execComparatorTrip sensor s
  | .thermalRestart => Sys2Proof.Machine.execThermalRestart s
  | .writePacket len bytes crc => Sys2Proof.Machine.execWritePacket len bytes crc s
  | .readPacket complete => Sys2Proof.Machine.execReadPacket complete s
  | .readStatus => Sys2Proof.Machine.execReadStatus s
  | .ident h => Sys2Proof.Machine.execIdent h s
  | .coxStatus h => Sys2Proof.Machine.execCoxStatus h s
  | .eventMask h path mask => Sys2Proof.Machine.execEventMask h path mask s
  | .startupWrite h q mismatches => Sys2Proof.Machine.execStartupWrite h q mismatches s
  | .startupRead h => Sys2Proof.Machine.execStartupRead h s
  | .modeSet h q => Sys2Proof.Machine.execModeSet h q s
  | .modeStatus h clear => Sys2Proof.Machine.execModeStatus h clear s
  | .carrierSet h q => Sys2Proof.Machine.execCarrierSet h q s
  | .unitStateSet h kind units half state failing => Sys2Proof.Machine.execUnitStateSet h kind units half state failing s
  | .fabricStatus h clear => Sys2Proof.Machine.execFabricStatus h clear s
  | .sectorBeamSet h dir half beam weights => Sys2Proof.Machine.execSectorBeamSet h dir half beam weights s
  | .kernelInstall h image => Sys2Proof.Machine.execKernelInstall h image s
  | .kernelRemove h => Sys2Proof.Machine.execKernelRemove h s
  | .kernelStatus h => Sys2Proof.Machine.execKernelStatus h s
  | .fhPortConfig h config fec iface => Sys2Proof.Machine.execFhPortConfig h config fec iface s
  | .fhPortParam h q => Sys2Proof.Machine.execFhPortParam h q s
  | .fhEq h lane ffe ctle => Sys2Proof.Machine.execFhEq h lane ffe ctle s
  | .fhWindows h q => Sys2Proof.Machine.execFhWindows h q s
  | .fhStats h port clear => Sys2Proof.Machine.execFhStats h port clear s
  | .loTune h groups freqKhz => Sys2Proof.Machine.execLoTune h groups freqKhz s
  | .loOff h groups => Sys2Proof.Machine.execLoOff h groups s
  | .synthCal h groups => Sys2Proof.Machine.execSynthCal h groups s
  | .idleGap h q => Sys2Proof.Machine.execIdleGap h q s
  | .tddPattern h groups scsKhz period codes => Sys2Proof.Machine.execTddPattern h groups scsKhz period codes s
  | .rxAttSet h paths attDb => Sys2Proof.Machine.execRxAttSet h paths attDb s
  | .powerTableSet h group entries backoff => Sys2Proof.Machine.execPowerTableSet h group entries backoff s
  | .powerStepSet h paths step trim => Sys2Proof.Machine.execPowerStepSet h paths step trim s
  | .rfStatus h clear => Sys2Proof.Machine.execRfStatus h clear s
  | .rfCoefRead h group => Sys2Proof.Machine.execRfCoefRead h group s
  | .paBus h q => Sys2Proof.Machine.execPaBus h q s
  | .orxSwitch h orx lines aux settleNs => Sys2Proof.Machine.execOrxSwitch h orx lines aux settleNs s
  | .loopbackSet h groups code => Sys2Proof.Machine.execLoopbackSet h groups code s
  | .dpdBypassCmd h paths force => Sys2Proof.Machine.execDpdBypassCmd h paths force s
  | .dpdTrainEn h paths en => Sys2Proof.Machine.execDpdTrainEn h paths en s
  | .dpdSlotRead h path slot poisonAt => Sys2Proof.Machine.execDpdSlotRead h path slot poisonAt s
  | .dpdSlotWrite h path slot record => Sys2Proof.Machine.execDpdSlotWrite h path slot record s
  | .dpdSlotClear h path slot => Sys2Proof.Machine.execDpdSlotClear h path slot s
  | .dpdStatusCmd h path => Sys2Proof.Machine.execDpdStatusCmd h path s
  | .calRun h clusters => Sys2Proof.Machine.execCalRun h clusters s
  | .calStatus h cluster clear => Sys2Proof.Machine.execCalStatus h cluster clear s
  | .capConfig h ring cfg area len trig trig2 => Sys2Proof.Machine.execCapConfig h ring cfg area len trig trig2 s
  | .capArm h ring => Sys2Proof.Machine.execCapArm h ring s
  | .capTrigger h ring => Sys2Proof.Machine.execCapTrigger h ring s
  | .capStop h ring => Sys2Proof.Machine.execCapStop h ring s
  | .capRelease h ring => Sys2Proof.Machine.execCapRelease h ring s
  | .capRead h ring block offset length faults => Sys2Proof.Machine.execCapRead h ring block offset length faults s
  | .wsConfig h q => Sys2Proof.Machine.execWsConfig h q s
  | .wsStatus h clear => Sys2Proof.Machine.execWsStatus h clear s
  | .wsExport h first count => Sys2Proof.Machine.execWsExport h first count s
  | .wsImport h first count uptime => Sys2Proof.Machine.execWsImport h first count uptime s
  | .wsTransferTimeout => Sys2Proof.Machine.execWsTransferTimeout s
  | .timeConfig h tlOffset freqSlew => Sys2Proof.Machine.execTimeConfig h tlOffset freqSlew s
  | .timeSet h sec ns => Sys2Proof.Machine.execTimeSet h sec ns s
  | .acceptStep h => Sys2Proof.Machine.execAcceptStep h s
  | .thermalStatus h => Sys2Proof.Machine.execThermalStatus h s
  | .thermalConfig h q => Sys2Proof.Machine.execThermalConfig h q s
  | .hkRead h first count => Sys2Proof.Machine.execHkRead h first count s
  | .memInfo h => Sys2Proof.Machine.execMemInfo h s
  | .memConfig h mapOrder => Sys2Proof.Machine.execMemConfig h mapOrder s
  | .memSpare h op rank => Sys2Proof.Machine.execMemSpare h op rank s
  | .memLog h clear poisonAt => Sys2Proof.Machine.execMemLog h clear poisonAt s
  | .bulkPut h data => Sys2Proof.Machine.execBulkPut h data s
  | .bulkGet h max => Sys2Proof.Machine.execBulkGet h max s
  | .regRead h addr count => Sys2Proof.Machine.execRegRead h addr count s
  | .regWrite h pairs => Sys2Proof.Machine.execRegWrite h pairs s
  | .logRead h first count poisonAt => Sys2Proof.Machine.execLogRead h first count poisonAt s
  | .logClear h => Sys2Proof.Machine.execLogClear h s
  | .fwBegin h len crc build slot => Sys2Proof.Machine.execFwBegin h len crc build slot s
  | .fwWrite h offset data => Sys2Proof.Machine.execFwWrite h offset data s
  | .fwCommit h => Sys2Proof.Machine.execFwCommit h s
  | .fwActivate h => Sys2Proof.Machine.execFwActivate h s
  | .fwStatus h => Sys2Proof.Machine.execFwStatus h s
  | .frameDiscard f => Sys2Proof.Machine.execFrameDiscard f s
  | .ccpReplyUpstream f => Sys2Proof.Machine.execCcpReplyUpstream f s
  | .levelRearm ring powerDb => Sys2Proof.Machine.execLevelRearm ring powerDb s
  | .fwCommitDone => Sys2Proof.Machine.execFwCommitDone s
  | .paTransactionDone => Sys2Proof.Machine.execPaTransactionDone s
  | .selectedMasterLost => Sys2Proof.Machine.execSelectedMasterLost s
  | .caveItemIssue rank faults => Sys2Proof.Machine.execCaveItemIssue rank faults s

end Sys2Proof.Machine
end

