-- ==== Sys2Proof/Machine/Cox.lean ====
section
/-! DEFINITION. What the block does by itself in a tick: time passes, Cox takes a waiting packet, and packets leave (R20, R396, R437
to R440; log entry 3). -/

namespace Sys2Proof.Machine

/-- Notes the bytes of the packet whose command has just been executed, for R440. -/
def noteRaw (s : State) (path : CcpPath) (slot : Nat) (b : List Byte) : State :=
  let f (l : List DoneCmd) : List DoneCmd := l.map fun d => if d.slot = slot then { d with raw := b } else d
  match path with
  | .inBand => { s with ccp := { s.ccp with doneBand := f s.ccp.doneBand } }
  | .mspi => { s with ccp := { s.ccp with doneMspi := f s.ccp.doneMspi } }

/-- A packet equal to one of the last 16 of its path is answered from the store (R440). -/
def repeatedPacket (s : State) (path : CcpPath) (b : List Byte) : Option DoneCmd :=
  (doneOf s path).find? fun d => decide (d.raw = b)

/-- Bytes that the PA bus delivers during a transaction of a packet: free values. -/
def freeMiso : Nat → State → List Byte × State
  | 0, s => ([], s)
  | n + 1, s => let (k, s) := drawFree s; let (l, s) := freeMiso n s; (BitVec.ofNat 8 k :: l, s)

/-- Cox executes a packet (R437 to R440). -/
def takePacket (path : CcpPath) (b : List Byte) (s : State) : Out :=
  let h : CmdHdr := { path := path, tag := beNat (slice b 2 2) }
  match repeatedPacket s path b with
  | some d =>
    let s := { s with ccp := { s.ccp with dupCnt := s.ccp.dupCnt + 1 } }
    .next (match d.reply with | some r => replyNow s h r.opcode r | none => s)
  | none =>
    let (miso, s) := if beNat (slice b 0 2) = 0x004A then freeMiso 32 s else ([], s)
    match judgePacket s miso h b with
    | .inl (st, dt) => .next (refusePacket s h b st dt)
    | .inr i =>
      let slot := s.ccp.nextSlot
      match exec i s with
      | .next t => .next (noteRaw t path slot b)
      | o => o

/-- One tick of the block on its own. As time passes a deadline may come within reach, which asserts panic (R327). -/
def tick (s : State) : Out :=
  let s := judgePanic (streamTick (linksTick s))
  if !coxRuns s then .next s
  else
    match nextPacket s with
    | some (path, b, s) => takePacket path b s
    | none => .next s

end Sys2Proof.Machine
end

