-- ==== Sys2Proof/Safety.lean ====
section
/-! DEFINITION. The terms in which statements speak: what it is for Cox to take a command and to answer it, what may change beside
an effect, and the canonical forms that every step keeps. -/

namespace Sys2Proof.Machine

/-! Commands of the Cox Command Protocol (R438 to R440, R442) -/

/-- The header and the opcode of a command of the Cox Command Protocol; the other rows of the table are no such commands (R442). -/
def ccpOf : Instr → Option (CmdHdr × Nat)
  | .ident h => some (h, 0x0001)
  | .coxStatus h => some (h, 0x0002)
  | .eventMask h _ _ => some (h, 0x0003)
  | .startupWrite h _ _ => some (h, 0x0004)
  | .startupRead h => some (h, 0x0005)
  | .modeSet h _ => some (h, 0x0010)
  | .modeStatus h _ => some (h, 0x0011)
  | .carrierSet h _ => some (h, 0x0012)
  | .unitStateSet h _ _ _ _ _ => some (h, 0x0020)
  | .fabricStatus h _ => some (h, 0x0021)
  | .sectorBeamSet h _ _ _ _ => some (h, 0x0022)
  | .kernelInstall h _ => some (h, 0x0023)
  | .kernelRemove h => some (h, 0x0024)
  | .kernelStatus h => some (h, 0x0025)
  | .fhPortConfig h _ _ _ => some (h, 0x0030)
  | .fhPortParam h _ => some (h, 0x0031)
  | .fhEq h _ _ _ => some (h, 0x0032)
  | .fhWindows h _ => some (h, 0x0033)
  | .fhStats h _ _ => some (h, 0x0034)
  | .loTune h _ _ => some (h, 0x0040)
  | .loOff h _ => some (h, 0x0041)
  | .synthCal h _ => some (h, 0x0042)
  | .idleGap h _ => some (h, 0x0043)
  | .tddPattern h _ _ _ _ => some (h, 0x0044)
  | .rxAttSet h _ _ => some (h, 0x0045)
  | .powerTableSet h _ _ _ => some (h, 0x0046)
  | .powerStepSet h _ _ _ => some (h, 0x0047)
  | .rfStatus h _ => some (h, 0x0048)
  | .rfCoefRead h _ => some (h, 0x0049)
  | .paBus h _ => some (h, 0x004A)
  | .orxSwitch h _ _ _ _ => some (h, 0x004B)
  | .loopbackSet h _ _ => some (h, 0x004C)
  | .dpdBypassCmd h _ _ => some (h, 0x0050)
  | .dpdTrainEn h _ _ => some (h, 0x0051)
  | .dpdSlotRead h _ _ _ => some (h, 0x0052)
  | .dpdSlotWrite h _ _ _ => some (h, 0x0053)
  | .dpdSlotClear h _ _ => some (h, 0x0054)
  | .dpdStatusCmd h _ => some (h, 0x0055)
  | .calRun h _ => some (h, 0x0056)
  | .calStatus h _ _ => some (h, 0x0057)
  | .capConfig h _ _ _ _ _ _ => some (h, 0x0060)
  | .capArm h _ => some (h, 0x0061)
  | .capTrigger h _ => some (h, 0x0062)
  | .capStop h _ => some (h, 0x0063)
  | .capRelease h _ => some (h, 0x0064)
  | .capRead h _ _ _ _ _ => some (h, 0x0065)
  | .wsConfig h _ => some (h, 0x0070)
  | .wsStatus h _ => some (h, 0x0071)
  | .wsExport h _ _ => some (h, 0x0072)
  | .wsImport h _ _ _ => some (h, 0x0073)
  | .timeConfig h _ _ => some (h, 0x0080)
  | .timeSet h _ _ => some (h, 0x0081)
  | .acceptStep h => some (h, 0x0082)
  | .thermalStatus h => some (h, 0x0090)
  | .thermalConfig h _ => some (h, 0x0091)
  | .hkRead h _ _ => some (h, 0x0092)
  | .memInfo h => some (h, 0x00A0)
  | .memConfig h _ => some (h, 0x00A1)
  | .memSpare h _ _ => some (h, 0x00A2)
  | .memLog h _ _ => some (h, 0x00A3)
  | .bulkPut h _ => some (h, 0x00B0)
  | .bulkGet h _ => some (h, 0x00B1)
  | .regRead h _ _ => some (h, 0x00C0)
  | .regWrite h _ => some (h, 0x00C1)
  | .logRead h _ _ _ => some (h, 0x00D0)
  | .logClear h => some (h, 0x00D1)
  | .fwBegin h _ _ _ _ => some (h, 0x00E0)
  | .fwWrite h _ _ => some (h, 0x00E1)
  | .fwCommit h => some (h, 0x00E2)
  | .fwActivate h => some (h, 0x00E3)
  | .fwStatus h => some (h, 0x00E4)
  | _ => none

/-- Cox takes a command: it runs, the mode column of the opcode admits the present mode, and the command repeats none of the last
16 of its path (R438, R440, R442). -/
def Takes (s : State) (h : CmdHdr) (op : Nat) (i : Instr) : Prop :=
  coxRuns s = true ∧ modeCheck s op = none ∧ ∀ d ∈ doneOf s h.path, d.tag = h.tag → d.instr ≠ some (bare i)

/-- Replies of a path that have not left, in the order of execution (R439). -/
def slotsOf (s : State) : CcpPath → List ReplySlot
  | .inBand => s.ccp.replyBand
  | .mspi => s.ccp.replyMspi

/-- What waits to leave on a path. -/
def outOf (s : State) : CcpPath → List CcpOut
  | .inBand => s.ccp.outBand
  | .mspi => s.ccp.outMspi

/-- The command is the newest of the last 16 of its path, and its reply there is `r` (R440). -/
def Kept (t : State) (h : CmdHdr) (i : Instr) (r : Option Reply) : Prop :=
  ((doneOf t h.path).head?.map fun d => (d.tag, d.instr, d.reply)) = some (h.tag, some (bare i), r)

/-- The command has its reply: it is kept for R440, and, where no earlier reply of the path still waits, it has been put out
(R439). -/
def Answers (s t : State) (h : CmdHdr) (i : Instr) (r : Reply) : Prop :=
  Kept t h i (some r) ∧ (slotsOf s h.path = [] → CcpOut.reply r ∈ outOf t h.path)

/-- `t` is `s` but for the replies, what waits to leave, and the last 16 commands. -/
def RepliesOnly (s t : State) : Prop :=
  t = { s with ccp := { s.ccp with
    nextSlot := t.ccp.nextSlot, replyBand := t.ccp.replyBand, replyMspi := t.ccp.replyMspi, outBand := t.ccp.outBand,
    outMspi := t.ccp.outMspi, doneBand := t.ccp.doneBand, doneMspi := t.ccp.doneMspi } }

/-- `exec` answers a next state in which the command has the reply given, and which is `eff` but for replies. -/
def Completes (s : State) (h : CmdHdr) (i : Instr) (eff : State) (r : Reply) : Prop :=
  ∃ t, exec i s = .next t ∧ Answers s t h i r ∧ RepliesOnly eff t

/-- `exec` answers a next state in which the command is kept without a reply, and its change waits for the first stroke of the grid
of half `grid`; nothing else has changed (R31, R399, R439). -/
def WaitsForStroke (s : State) (h : CmdHdr) (op : Nat) (i : Instr) (grid : Nat) (c : Change) : Prop :=
  ∃ t, exec i s = .next t ∧ Kept t h i none ∧
    RepliesOnly { s with ccp := { s.ccp with
      due := s.ccp.due ++ [{ grid := grid, change := c, slot := s.ccp.nextSlot, hdr := h, opcode := op }] } } t

/-- The reply OK, with results (R430, R441). -/
def okReply (h : CmdHdr) (op : Nat) (results : List Tlv) : Reply :=
  { opcode := op, tag := h.tag, status := stOk, results := results }

/-- A reply with a status and a detail, without results. -/
def stReply (h : CmdHdr) (op st dt : Nat) : Reply := { opcode := op, tag := h.tag, status := st, detail := dt }

/-- `s` with the long operation of a command in progress (R439). -/
def withLong (s : State) (h : CmdHdr) (op : Nat) : State :=
  { s with ccp := { s.ccp with longOps := s.ccp.longOps ++ [{ hdr := h, opcode := op }] } }

/-- `exec` answers a next state in which the command has been accepted as a long operation, and which is `eff` of the state with that
operation in progress, but for replies (R439). -/
def Accepts (s : State) (h : CmdHdr) (op : Nat) (i : Instr) (eff : State → State) : Prop :=
  Completes s h i (eff (withLong s h op)) (stReply h op stAccepted 0)

/-- The checks that come before the limit of 32 have passed for a long operation (R438, R439). -/
def LongAdmitted (s : State) : Instr → Prop
  | .modeSet _ q => lackingHalf (blockSplit s q.items) q.items = none ∧
      (q.fallbacks.any fun b => (lackingHalf (blockSplit s b) b).isSome) = false ∧ ∃ r, judgeMode s q = .inr r
  | .fhPortConfig _ c fec iface => portConfigOk c fec iface = true ∧ portConfigFits s c = true ∧ s.fh.retrain = none
  | .loTune _ g f => g < 16 ∧ 380000 ≤ f ∧ f ≤ 6000000 ∧ tuneSetOk s g = true
  | .synthCal _ g => g < 16
  | .tddPattern _ g khz period codes => g < 16 ∧ khz ∈ [15, 30, 60, 120] ∧ 0 < period ∧ twoFrames (muOf khz) % period = 0 ∧
      codes.length = period
  | .calRun _ l => calRunCheck s l = none
  | .wsExport _ first count => 0 < count ∧ first + count ≤ 524288 ∧ s.ws.transfer = none ∧ hostBulkSet s = false
  | .wsImport _ first count _ => 0 < count ∧ first + count ≤ 524288 ∧ s.ws.transfer = none ∧ hostBulkSet s = false
  | .timeSet _ _ ns => (syncSrc s = srcFree ∨ syncSrc s = srcPps) ∧ ns ≤ 999999999 ∧ (syncSrc s = srcPps → ns = 0) ∧
      s.md.prep = none ∧ stepping s = false ∧ s.tm.setAtPps = none
  | .acceptStep _ => timeState s = tsStepPending ∧ s.md.prep = none ∧ stepping s = false ∧ s.tm.setAtPps = none
  | .memSpare _ op rank => (op = 1 ∧ s.md.mode = .standby) ∨
      (op = 0 ∧ ∃ d, rank.or s.mi.spareDue = some d ∧ d ≤ 2 ∧ fget s F.caveStatusMigrating ≠ 1 ∧ fget s F.caveStatusSpareUsed ≠ 1 ∧
        (fget s F.caveStatusPhysL0 = d ∨ fget s F.caveStatusPhysL1 = d))
  | .fwCommit _ => s.mram.session ≠ none ∧ s.mram.commitCmd = none
  | .fwActivate _ =>
      if s.md.mode = .recovery then bestSlot s [0, 1] ≠ none
      else slotValid (slotImage s (1 - s.mram.running)) = true ∧
        (slotImage s s.mram.running).seq < (slotImage s (1 - s.mram.running)).seq
  | _ => False

/-! Strokes (R31, R398 to R400) -/

/-- A stroke of a half brings what waits for it: its grid runs, Cox runs, and neither a mode change nor a step of the counter is under
way (R29, R60, R399, R414). -/
def StrokeRuns (s : State) (half : Nat) : Prop :=
  strokesRun s = true ∧ coxRuns s = true ∧ s.md.prep = none ∧ s.md.stepStop = none ∧ s.tm.step = none ∧
    (half = 0 ∨ (half = 1 ∧ isSplit s = true))

/-- The reply of a change that has waited for its stroke has been put out, where no earlier reply of its path still waits (R31,
R439). -/
def DueReplied (s t : State) (d : Due) (st dt : Nat) : Prop :=
  ∀ r rest, slotsOf s d.hdr.path = r :: rest → r.id = d.slot →
    CcpOut.reply { opcode := d.opcode, tag := d.hdr.tag, status := st, detail := dt } ∈ outOf t d.hdr.path

/-- A table in which each of some keys holds `v`. -/
def setAll {α : Type} [DecidableEq α] (dflt : α) (keys : List Nat) (v : α) (m : Tbl α) : Tbl α :=
  keys.foldl (fun m k => tset dflt m k v) m

/-! Events (R431, R451, R452) -/

/-- `t` is `s` but for events: what waits to leave, the tracks of R123, the numbers of events, the new part of the log, and the count
of events lost. -/
def EventsOnly (s t : State) : Prop :=
  t = { s with ccp := { s.ccp with
    tracks := t.ccp.tracks, seqBand := t.ccp.seqBand, seqMspi := t.ccp.seqMspi, outBand := t.ccp.outBand, outMspi := t.ccp.outMspi,
    evtLostCnt := t.ccp.evtLostCnt, logNew := t.ccp.logNew, heldEvents := t.ccp.heldEvents } }

/-- `t` is `s` but for what Cox sends: replies, the last 16 commands, and events. -/
def TrafficOnly (s t : State) : Prop :=
  t = { s with ccp := { s.ccp with
    nextSlot := t.ccp.nextSlot, replyBand := t.ccp.replyBand, replyMspi := t.ccp.replyMspi, outBand := t.ccp.outBand,
    outMspi := t.ccp.outMspi, doneBand := t.ccp.doneBand, doneMspi := t.ccp.doneMspi, tracks := t.ccp.tracks,
    seqBand := t.ccp.seqBand, seqMspi := t.ccp.seqMspi, evtLostCnt := t.ccp.evtLostCnt, logNew := t.ccp.logNew,
    heldEvents := t.ccp.heldEvents } }

/-- The log holds an entry of a code and tag whose parameters begin as given (R452). -/
def Logged (t : State) (code tag : Nat) (params : List Byte) : Prop :=
  (∃ e ∈ t.ccp.logNew, e.code = code ∧ e.tag = tag ∧ e.params = params.take 52) ∨
    (t.pw.power = .shutdown ∧ ∃ p ∈ t.ccp.heldEvents, p.2.code = code ∧ p.2.tag = tag ∧ eventParams p.2 = params)

/-- An event with its numbers is in the log (R452, R453). -/
def Raised (t : State) (code : Nat) (vals : List Int) : Prop := Logged t code 0 ((numTlvs vals).flatMap tlvBytes)

/-- The completion of a long operation is in the log (R431, R439). -/
def Completed (t : State) (op : LongOp) (status detail : Nat) (results : List Tlv) : Prop :=
  Logged t 0x001 op.hdr.tag
    (beBytes 2 op.opcode ++ [0, 0] ++ beBytes 2 status ++ beBytes 2 detail ++ results.flatMap tlvBytes)

/-! Registers (R13 to R17) -/

/-- The bits of a field: the address of its register, the lowest bit and the width. -/
def Fld.bits (f : Fld) (i : Nat) : Nat × Nat × Nat := (f.addr i, f.lo, f.width)

/-- Every register bit outside the bits named is unchanged. -/
def RegsKept (s t : State) (ex : List (Nat × Nat × Nat)) : Prop :=
  ∀ a b, (∀ e ∈ ex, ¬(a = e.1 ∧ e.2.1 ≤ b ∧ b < e.2.1 + e.2.2)) → getBits (rget t a) b 1 = getBits (rget s a) b 1

/-- `t` is `s` but for one register field, which holds `v`. -/
def FieldSet (s t : State) (f : Fld) (i v : Nat) : Prop :=
  t = { s with regs := t.regs } ∧ fget t f i = v ∧ RegsKept s t [f.bits i]

/-- What a write of the word `w` leaves in field `f` of register `i`, by its access code (R17). -/
def fieldWritten (s : State) (w : Word) (f : Fld) (i : Nat) : Nat :=
  let v := getBits w f.lo f.width
  match f.acc with
  | .rw => if fieldTakes s f v && pairTakes f w then v else fget s f i
  | .w1c => fget s f i &&& (2 ^ f.width - 1 - v)
  | _ => fget s f i

/-! Canonical forms (R13, R349, R352) -/

/-- Memory and register words are in their one canonical form: addresses rise strictly, and no entry holds what an unlisted address
reads as. -/
def Canonical (s : State) : Prop :=
  memWf s.caveMem = true ∧ memWf s.sramMem = true ∧ tableWf regReset s.regs = true

/-! Seats (R163 to R186) -/

/-- `t` is `s` but for seat `n`, which is `u`, and for what the crews count of discarded words and corrected reads, and registers. -/
def SeatIs (s t : State) (n : Nat) (u : Seat) : Prop :=
  t = { s with regs := t.regs, fab := { s.fab with seats := t.fab.seats, seatProto := t.fab.seatProto, seatCorr := t.fab.seatCorr } } ∧
    seatOf t n = u ∧ ∀ k, k ≠ n → seatOf t k = seatOf s k

/-- A running seat has the instruction at its PC, and its chunk of class 2 or 3 work has room for the handshakes that it takes (R131,
R163). -/
def SeatTakes (s : State) (q : SeatFetch) (i : Instr) (cost : Nat) : Prop :=
  spelled s q i = true ∧ (((seatOf s q.n).kind = 5 ∨ (seatOf s q.n).kind = 7) → (seatOf s q.n).hcnt.toNat + cost ≤ 512)

/-- The crew of the seat has counted the corrected read of the program word, where it met one, and `k` more (R168). -/
def CorrCounted (s t : State) (q : SeatFetch) (k : Nat) : Prop :=
  tget 0 s.fab.seatCorr (q.n / 64) < 2 ^ 32 →
    tget 0 t.fab.seatCorr (q.n / 64) = satN 32 (tget 0 s.fab.seatCorr (q.n / 64) +
      (if (fetchWord s q).1 = .corrected then 1 else 0) + k)

/-- `k` reads have delivered a poison mark, and no other register has changed (R355). -/
def PoisonCounted (s t : State) (k : Nat) : Prop :=
  fget t F.poisonReadCnt = satN 32 (fget s F.poisonReadCnt + k) ∧ RegsKept s t [F.poisonReadCnt.bits 0]

/-- Seat `q.n` has executed an instruction that leaves it as `u`. -/
def SeatTook (s t : State) (q : SeatFetch) (u : Seat) : Prop := SeatIs s t q.n u ∧ t.regs = s.regs ∧ CorrCounted s t q 0

/-- Seat `q.n` has executed a format M or R instruction whose main operation turned the seat into `m`: its side action, its push, its
handshakes and its next PC follow (R166, R171, R178, R181). -/
def SeatDid (s t : State) (q : SeatFetch) (m : Seat) (side : Side) (push : Bool) (flt : WordFault) : Prop :=
  let b := seatOf s q.n
  let u := (sideDo b m flt side).1
  let l := sideReads b m flt side
  SeatIs s t q.n (((if push then (pushDo u).1 else u).spend (1 + b.interlock (sideAddr side)) none).advance) ∧
    PoisonCounted s t (l.filter Dec.marked).length ∧ CorrCounted s t q (l.filter fun r => decide (r = .corrected)).length

/-- Seat `q.n` has executed a format R instruction with the result `v`, which is marked when an operand is (R169, R172). -/
def SeatGot (s t : State) (q : SeatFetch) (f : RForm) (v : Word) : Prop :=
  SeatDid s t q ((seatOf s q.n).setReg f.dd
    { val := v, mark := ((seatOf s q.n).reg f.da).mark || ((seatOf s q.n).reg f.db).mark }) f.side false f.fault

/-- A seat can execute an instruction with a side action at once: it runs, and neither the action nor the push must wait (R166). -/
def SeatFree (s : State) (n : Nat) (side : Side) (push : Bool) : Prop :=
  seatRuns s n = true ∧ (seatOf s n).blocked side push = none

/-- Item `i` runs in `t` on the seats of its kind, with what its crew gives them: its queue, its special registers and a fresh PC;
registers and memory keep their values, and nothing else of `s` has changed (R182). -/
def ItemStarted (s t : State) (i : Item) : Prop :=
  let nb := beamCount s i.dir i.half
  let v := itemView s i
  t = { s with fab := { s.fab with items := t.fab.items, seats := t.fab.seats } } ∧
    t.fab.items = s.fab.items.map (fun j => if j.id = i.id then { j with running := true, seatsLeft := seatsOf i.kind nb } else j) ∧
    (∀ n, ¬(∃ k ∈ seatsOf i.kind nb, n = 64 * i.crew + k) → seatOf t n = seatOf s n) ∧
    ∀ k ∈ seatsOf i.kind nb, ∀ b u words, b = seatOf s (64 * i.crew + k) → u = seatOf t (64 * i.crew + k) →
      words = (if i.kind = 2 then feedWords v i nb k else []) →
      u = { b with pc := 0, loops := [], inq := words.take 16, feed := words.drop 16, out := [], pushes := 0, outs := 0, leaked := false,
                   nb := nb, shf := shiftOf v i.dir i.half, kind := i.kind, hcnt := 0, running := true, wait := none, lastSet := none,
                   item := i.half * 2 ^ 21 + (if i.dir = .dl then 0 else 2 ^ 20) + i.tag.symbol * 2 ^ 16 + i.index % 2 ^ 16 }

/-! Hardware faults (R158) -/

/-- `t` is `s` with hardware faults of the units named: each is muted at once, the TX paths that the mute silences send zero,
EVENT_FAULT is set, and Cox will record each of them. -/
def Faulted (s t : State) (units : List Nat) : Prop :=
  t = { s with regs := t.regs, cal := (quietTx s (units.flatMap quietedBy)).cal,
               fab := { s.fab with mutes := t.fab.mutes, faults := t.fab.faults } } ∧
    (∀ u ∈ units, muted t u = true ∧ ∃ e ∈ t.fab.faults, e.1 = u) ∧ (∀ u, u ∉ units → muted t u = muted s u) ∧
    (∀ e ∈ s.fab.faults, e ∈ t.fab.faults) ∧ (units ≠ [] → fget t F.fabEventFault = 1) ∧ RegsKept s t [F.fabEventFault.bits 0]

/-- The 16 TX paths of an LO group. -/
def groupTx (g : Nat) : List Nat := (List.range 16).map (16 * g + ·)

/-! The DMA engine (R374 to R394) -/

/-- The set that the shadow registers of a channel hold. -/
def shadowSet (s : State) (c : Nat) : DmaSet :=
  { src := { space := fget s F.dmaShCtrlSrcSpace c, addr := fget s F.dmaShSrc c, fix := decide (fget s F.dmaShCtrlSrcFix c = 1) },
    dst := { space := fget s F.dmaShCtrlDstSpace c, addr := fget s F.dmaShDst c, fix := decide (fget s F.dmaShCtrlDstFix c = 1) },
    len := fget s F.dmaShLen c, esize := if fget s F.dmaShCtrlEsize c = 1 then 32 else 4,
    evDone := decide (fget s F.dmaShCtrlEvDone c = 1) }

/-- Read requests enter and leave the Cave's queues for channel `c` alone: every request of another stays in its order, and what is new
reads for the channel at its port (R323, R376). -/
def AsksFor (s t : State) (c : Nat) : Prop :=
  (∃ n, t.cave = { s.cave with reqs := t.cave.reqs, nextReq := n }) ∧
    (∀ q ∈ s.cave.reqs, (chanOf s c).req ≠ some q.id → q ∈ t.cave.reqs) ∧
    ∀ q ∈ t.cave.reqs, q ∈ s.cave.reqs ∨
      (q.id = s.cave.nextReq ∧ q.port = chanPort c ∧ q.write = false ∧ q.data = [])

/-- `t` is `s` but for the registers and the progress of channel `c`, what it asks of the Cave, and for events. -/
def ChannelOnly (s t : State) (c : Nat) : Prop :=
  EventsOnly { s with regs := t.regs, dma := t.dma, cave := t.cave } t ∧ AsksFor s t c ∧
    (∀ k, k ≠ c → chanOf t k = chanOf s k) ∧
    ∀ a, (a < 0xA00000 + 0x40 * c ∨ 0xA00040 + 0x40 * c ≤ a) → rget t a = rget s a

/-- The read request by which a channel asks for what it moves first (R323, R376): of a set whose source is the Cave, up to 4,096 bytes on
a bulk channel, else one element. -/
def Asked (s t : State) (c : Nat) (q : DmaSet) : Prop :=
  if q.src.space = spCave then
    chanOf t c = { req := some s.cave.nextReq } ∧
      ∃ r ∈ t.cave.reqs, r = {
        id := s.cave.nextReq, port := chanPort c, write := false, addr := q.src.addr,
        len := if bulkChan c && !q.src.fix then min 4096 q.len else q.esize, data := [] }
  else chanOf t c = {}

/-- The set `q` has become active on channel `c` (R379): an empty one has completed, one that fails a check has halted its channel, any
other runs. `n` sets had completed before. -/
def Activated (s t : State) (c : Nat) (q : DmaSet) (n : Nat) : Prop :=
  activeSet t c = q ∧ fget t F.dmaStatusShadowValid c = 0 ∧ (dmaState t c ≠ dmaRunning → chanOf t c = {}) ∧
    fget t F.dmaRemain c = q.len ∧
    (q.len = 0 → dmaState t c = dmaIdle ∧ fget t F.dmaStatusDone c = 1 ∧ fget t F.dmaStatusSetDone c = 1 ∧
      fget t F.dmaSetCnt c = satN 32 (n + 1)) ∧
    (q.len ≠ 0 → fget t F.dmaSetCnt c = n ∧
      (cfgOk s c q = false → dmaState t c = dmaHalted ∧ fget t F.dmaStatusHaltCode c = haltCfg ∧
        Raised t 0x59 [(c : Int), (haltCfg : Int)]) ∧
      (cfgOk s c q = true → protOk s c q = false → dmaState t c = dmaHalted ∧ fget t F.dmaStatusHaltCode c = haltProt ∧
        Raised t 0x59 [(c : Int), (haltProt : Int)]) ∧
      (cfgOk s c q = true → protOk s c q = true → dmaState t c = dmaRunning ∧ Asked s t c q))

/-- Element `i` of a channel's set has been accepted, `u` being the state after its read: what is left, and the next read request of a set
whose source is the Cave, once what the last one brought has been moved (R376, R377, R394). -/
def Moved (u t : State) (c i : Nat) (q : DmaSet) : Prop :=
  fget t F.dmaRemain c = q.len - (i + 1) * q.esize ∧
    ∃ r, chanOf t c = { chanOf u c with done := i + 1, last := decide (q.len ≤ (i + 1) * q.esize), req := r } ∧
      (q.src.space ≠ spCave ∨ (chanOf u c).req ≠ none ∨ (chanOf u c).got ≠ [] ∨ q.len ≤ (i + 1) * q.esize → r = (chanOf u c).req) ∧
      (q.src.space = spCave → (chanOf u c).req = none → (chanOf u c).got = [] → (i + 1) * q.esize < q.len →
        ∃ w ∈ t.cave.reqs, r = some w.id ∧ w.port = chanPort c ∧ w.write = false ∧ w.addr = q.src.at q.esize (i + 1) ∧
          w.len = if bulkChan c && !q.src.fix then min 4096 (q.len - (i + 1) * q.esize) else q.esize)

/-- A weight-store transfer of `count` buckets has begun on channel 14 (R374, R394; log entry 177). -/
def TransferBegun (s t : State) (count : Nat) : Prop :=
  (∀ k, k ≠ 14 → chanOf t k = chanOf s k) ∧
    (Canonical s → dmaState t 14 = dmaRunning ∧ fget t F.dmaRemain 14 = 2304 * count ∧ fget t F.dmaStatusDone 14 = 0 ∧
      fget t F.dmaStatusStopped 14 = 0 ∧ fget t F.dmaStatusAborted 14 = 0 ∧ fget t F.dmaStatusHaltCode 14 = 0) ∧
    RegsKept s t [F.dmaStatusState.bits 14, F.dmaRemain.bits 14, F.dmaStatusDone.bits 14, F.dmaStatusStopped.bits 14,
      F.dmaStatusAborted.bits 14, F.dmaStatusHaltCode.bits 14]

/-! Calibration (R297 to R318) -/

/-- No write waits for the DRAM, in any port's queue. -/
def NoWritesQueued (s : State) : Prop := s.cave.writes = [] ∧ s.cave.waiting = [] ∧ s.cave.reqs = []

/-- The run in progress on cluster `c` has ended with an outcome: nothing runs, the rings of Cox are at rest, and the cluster holds
the outcome, its reason and the counts that follow. A deferred run leaves the cluster due as it was; any other takes the temperature
`temp` as reference, and `again` says whether the cluster is due again (R298, R308). -/
def RunEnded (s t : State) (c outcome reason : Nat) (temp : Int) (again : Bool := false) : Prop :=
  let x := cluster s c
  t.cal.run = none ∧ ringState t 14 ≤ ringIdle ∧ ringState t 15 ≤ ringIdle ∧ (∀ k, k ≠ c → cluster t k = cluster s k) ∧
    cluster t c = { x with
      outcome := outcome, reason := reason, deferred := decide (outcome = outDeferred),
      accCnt := if outcome = outAccepted then satN 32 (x.accCnt + 1) else x.accCnt,
      defCnt := if outcome = outDeferred then satN 32 (x.defCnt + 1) else x.defCnt,
      rejCnt := if outcome = outRejected then satN 32 (x.rejCnt + 1) else x.rejCnt,
      uncal := if outcome = outAccepted then false else x.uncal,
      refTemp := if outcome = outDeferred then x.refTemp else some temp,
      due := if outcome = outDeferred then x.due else again }

/-! Rising order -/

/-- Seats, DMA channels, capture rings, busy observation receivers, calibration clusters and the samples of the TX paths stand in
rising order, and accepted sections bear rising arrival numbers below the next one. -/
def Orderly (s : State) : Prop :=
  risingFrom 0 s.fab.seats = true ∧ risingFrom 0 s.dma = true ∧ risingFrom 0 s.cap.rings = true ∧
    risingFrom 0 s.cap.orxBusy = true ∧ risingFrom 0 s.cal.clusters = true ∧ risingFrom 0 s.cal.txOut = true ∧
      s.fh.sections.Pairwise (fun x y => x.order < y.order) ∧
    ∀ x ∈ s.fh.sections, x.order < s.fh.nextOrder

end Sys2Proof.Machine
end

