-- ==== Sys2Proof/Certificates/Slice0/Obligations.lean ====
section
/-! DEFINITION. What is claimed of the block: the spec's rules, command by command, and what every step keeps. -/

open Sys2Proof Sys2Proof.Machine

/-- A step executes the command at the front of the queue with the queue's rest; with an empty queue the block does what it does by
itself in a tick (log entry 3). -/
def Obligations.StepExecutesTheFront : Prop :=
  ∀ (s : State) (c : Instr),
    step { s with pending := c :: s.pending } = exec c s ∧ (s.pending = [] → step s = tick s) ∧ ∃ t, step s = .next t

/-- The machine right after reset: every register holds the Reset word of its map, nothing is powered, waits, runs or is stored, and
its tables are in their canonical forms. Power off, mode BOOT and the values outside the register maps are the model's choice where
the spec gives none (log entries 4, 48 and 49). -/
def Obligations.ResetHoldsTheResetValues : Prop :=
  (∀ a, rget State.reset a = regReset a) ∧
    (∀ f i r, regAt (f.addr i) = some (r, i) → f ∈ r.flds → fget State.reset f i = f.reset % 2 ^ f.width) ∧
    State.reset.pw.power = .off ∧ State.reset.md.mode = .boot ∧ coxRuns State.reset = false ∧ State.reset.pending = [] ∧
    (∀ a, memGet State.reset.caveMem a = 0 ∧ memGet State.reset.sramMem a = 0) ∧ (∀ n, seatOf State.reset n = {}) ∧
    (∀ i h op, ccpOf i = some (h, op) → exec i State.reset = .next State.reset) ∧
    Canonical State.reset ∧ Orderly State.reset

/-- Memory and register words keep their canonical form through every step, from every state that has it. -/
def Obligations.EveryStepKeepsTheCanonicalForms : Prop :=
  ∀ (s t : State), Canonical s → step s = .next t → Canonical t

/-- Seats, DMA channels, rings, receivers, clusters and samples keep their rising order through every step, and accepted sections
their rising arrival numbers, from every state that has them. -/
def Obligations.EveryStepKeepsTheOrder : Prop :=
  ∀ (s t : State), Orderly s → step s = .next t → Orderly t

/-- No command changes which part the block is, nor the commands that wait behind it, and every command answers a next state. -/
def Obligations.CommandsLeaveThePartAndTheQueue : Prop :=
  ∀ (s : State) (c : Instr), ∃ t, exec c s = .next t ∧ t.part = s.part ∧ t.pending = s.pending

/-- What Cox does with a command that it does not execute: while Cox does not run the command is dropped; a repetition of one of the
last 16 of its path is answered from the store and counted; a command that the mode does not allow is refused and changes nothing; a
long operation beyond the 32nd is BUSY; a MODE_SET that a check refuses changes nothing. -/
def Obligations.CommandsAreDroppedRepeatedOrRefused : Prop :=
  ∀ (s : State) (i : Instr) (h : CmdHdr) (op : Nat), ccpOf i = some (h, op) →
    (coxRuns s = false → exec i s = .next s) ∧
    (∀ a d b, coxRuns s = true → doneOf s h.path = a ++ d :: b → d.tag = h.tag → d.instr = some (bare i) →
      (∀ e ∈ a, e.tag = h.tag → e.instr ≠ some (bare i)) →
      (d.reply = none → exec i s = .next { s with ccp := { s.ccp with dupCnt := s.ccp.dupCnt + 1 } }) ∧
      (∀ r, d.reply = some r →
        ∃ t, exec i s = .next t ∧ RepliesOnly { s with ccp := { s.ccp with dupCnt := s.ccp.dupCnt + 1 } } t ∧
          (doneOf t h.path).map (fun e => (e.tag, e.instr)) = (doneOf s h.path).map (fun e => (e.tag, e.instr)) ∧
          (slotsOf s h.path = [] → CcpOut.reply r ∈ outOf t h.path))) ∧
    (∀ st dt, coxRuns s = true → (∀ d ∈ doneOf s h.path, d.tag = h.tag → d.instr ≠ some (bare i)) → modeCheck s op = some (st, dt) →
      Completes s h i s (stReply h op st dt)) ∧
    (s.md.mode = .recovery → op ∉ [0x00E0, 0x00E1, 0x00E2, 0x00E3, 0x00E4] → modeCheck s op = some (stWrongMode, 0)) ∧
    (startInterval s = true → op = 0x0010 → modeCheck s op = some (stRefused, 1)) ∧
    (startInterval s = true → op ∉ [0x0001, 0x0002, 0x0005, 0x0010, 0x0011, 0x00E0, 0x00E1, 0x00E2, 0x00E4] →
      modeCheck s op = some (stWrongMode, 0)) ∧
    (modesA s.md.mode = true → s.md.mode ≠ .standby → op ∈ [0x0030, 0x0072, 0x0073, 0x00E3] → modeCheck s op = some (stWrongMode, 0)) ∧
    (32 ≤ s.ccp.longOps.length → LongAdmitted s i → Takes s h op i → Completes s h i s (stReply h op stBusy 0)) ∧
    (∀ q k, i = .modeSet h q → lackingHalf (blockSplit s q.items) q.items = none →
      (∀ b ∈ q.fallbacks, lackingHalf (blockSplit s b) b = none) → judgeMode s q = .inl k → Takes s h op i →
      Completes s h i s (stReply h op stRefused k))

/-- Registers are words at addresses that are multiples of 4: a register command at any other address is BAD_ALIGN, and no access
there has an effect. -/
def Obligations.RegistersAreAlignedWords : Prop :=
  ∀ (s : State) (a : Nat),
    (∀ r i, regAt a = some (r, i) → a % 4 = 0 ∧ ∀ f ∈ r.flds, f.lo + f.width ≤ 32 ∧ f.addr i = a) ∧
    (∀ h n, a % 4 ≠ 0 → 1 ≤ n → n ≤ 64 → Takes s h 0x00C0 (.regRead h a n) →
      Completes s h (.regRead h a n) s (stReply h 0x00C0 stBadAlign 0)) ∧
    (∀ h w l m, a % 4 ≠ 0 → l.length + m.length < 64 → (∀ p ∈ l, pairStatus s p = none) →
      Takes s h 0x00C1 (.regWrite h (l ++ (a, w) :: m)) →
      Completes s h (.regWrite h (l ++ (a, w) :: m)) s (stReply h 0x00C1 stBadAlign l.length)) ∧
    (∀ w, a % 4 ≠ 0 → exec (.registerWrite a w) s = .next s ∧ exec (.w1cWrite a w) s = .next s ∧ exec (.rcRead a) s = .next s)

/-- A command that names an absent TX path, or the model bank of one, is UNIT_ABSENT and changes nothing. -/
def Obligations.AbsentPathsAreRefused : Prop :=
  ∀ (s : State) (h : CmdHdr) (paths p : Nat), namesAbsent s paths = true → p < 64 → absentTx s p = true →
    ∀ i op, (i = .dpdStatusCmd h p ∧ op = 0x0055) ∨
      (∃ half st f, i = .unitStateSet h 0 paths half st f ∧ op = 0x0020) ∨
      (∃ st tr, i = .powerStepSet h paths st tr ∧ op = 0x0047) ∨ (∃ f, i = .dpdBypassCmd h paths f ∧ op = 0x0050) ∨
      (∃ e, i = .dpdTrainEn h paths e ∧ op = 0x0051) ∨ (∃ k x, i = .dpdSlotRead h p k x ∧ op = 0x0052) ∨
      (∃ k r, i = .dpdSlotWrite h p k r ∧ op = 0x0053) ∨ (∃ k, i = .dpdSlotClear h p k ∧ op = 0x0054) ∨
      (∃ r cfg area len t1 t2, i = .capConfig h r cfg area len t1 t2 ∧ op = 0x0060 ∧ r ≤ 13 ∧
        ((6 ≤ getBits cfg 0 3 ∧ getBits cfg 8 6 = p) ∨ (getBits cfg 0 3 = p / 16 ∧ getBits cfg 8 6 % 16 = p % 16))) ∨
      (∃ l aux n, i = .orxSwitch h (p / 16) (some l) aux n ∧ op = 0x004B ∧ l < 256 ∧ l / 32 % 2 = 0 ∧ l % 16 = p % 16 ∧
        aux.getD 0 ≤ 3 ∧ n.getD 0 ≤ 10000) →
      Takes s h op i → Completes s h i s (stReply h op stUnitAbsent 0)

/-- A full repeat tracker gives up its oldest SEEN entry for a new one, else its oldest REWRITTEN, else its oldest HARD entry; a
replacement decreases no HARD_CNT. -/
def Obligations.TheTrackerReplacesItsOldestEntry : Prop :=
  ∀ (l : List RepeatEntry) (e : RepeatEntry), l.length = 32 →
    (∀ a x b, l = a ++ x :: b → x.state = .seen → (∀ y ∈ a, y.state ≠ .seen) → trackInsert l e = a ++ b ++ [e]) ∧
    ((∀ y ∈ l, y.state ≠ .seen) →
      (∀ a x b, l = a ++ x :: b → x.state = .rewritten → (∀ y ∈ a, y.state ≠ .rewritten) → trackInsert l e = a ++ b ++ [e]) ∧
      ((∀ y ∈ l, y.state ≠ .rewritten) → ∀ x b, l = x :: b → x.state = .hard ∧ trackInsert l e = b ++ [e])) ∧
    (∀ (s : State) reader wa d x, s.mi.tracker = l → (∀ y ∈ l, ¬(y.addr = 32 * wa ∧ y.rank = d)) →
      x = { addr := 32 * wa, rank := d, state := if reader = byScrubber then .rewritten else .seen } →
      trackCorrection s reader wa d = { s with mi := { s.mi with
        tracker := trackInsert l x,
        rewrites := if reader = byScrubber ∧ (wa, d) ∉ s.mi.rewrites then s.mi.rewrites ++ [(wa, d)] else s.mi.rewrites } })

/-- The store's buckets and ways, and what weight updates do to an entry when they are applied: WRITE sets it, INVALIDATE makes it
INVALID, and an INVALIDATE of an absent tag changes nothing. -/
def Obligations.WeightUpdatesSetAndInvalidateEntries : Prop :=
  ∀ (s : State) (u : WsUpdate) (b : Nat), b = bucketOf u.tag →
    (b = (u.tag * 0x9E3779B1) % 2 ^ 32 / 2 ^ 13 ∧ b < 524288) ∧
    (∀ c w, wayAddr c w = c * 2304 + 288 * w) ∧
    (∀ c w c' w', w < 8 → w' < 8 → wayAddr c w < wayAddr c' w' + 288 → wayAddr c' w' < wayAddr c w + 288 → c = c' ∧ w = w') ∧
    (u.write = false → wayOf s b u.tag = none → applyUpdate s u = s) ∧
    (∀ w, u.write = false → wayOf s b u.tag = some w →
      entryNow (applyUpdate s u) b w = { entryNow s b w with state := 3 } ∧
      (∀ c v, (c, v) ≠ (b, w) → entryNow (applyUpdate s u) c v = entryNow s c v) ∧
      (applyUpdate s u).ws = s.ws ∧ (applyUpdate s u).caveMem = s.caveMem) ∧
    (∀ w, u.write = true → wayOf s b u.tag = some w → u.coef.length = 64 → -32768 ≤ u.quality → u.quality ≤ 32767 →
      (∀ c ∈ u.coef, -32768 ≤ c.re ∧ c.re ≤ 32767 ∧ -32768 ≤ c.im ∧ c.im ≤ 32767) →
      entryNow (applyUpdate s u) b w =
        { tag := (entryNow s b w).tag, state := 1, origin := 1, quality := u.quality, updCnt := satN 32 ((entryNow s b w).updCnt + 1),
          lastHeard := s.tm.uptime % 2 ^ 48, coef := u.coef } ∧
      ∀ c v, (c, v) ≠ (b, w) → entryNow (applyUpdate s u) c v = entryNow s c v) ∧
    (∀ w, u.write = true → wayOf s b u.tag = none → u.tag < 2 ^ 32 → u.coef.length = 64 → -32768 ≤ u.quality → u.quality ≤ 32767 →
      (∀ c ∈ u.coef, -32768 ≤ c.re ∧ c.re ≤ 32767 ∧ -32768 ≤ c.im ∧ c.im ≤ 32767) →
      w < 8 → headerPoisoned s b w = false → (entryNow s b w).state = 0 →
      (∀ v, v < w → headerPoisoned s b v = true ∨ (entryNow s b v).state ≠ 0) →
      entryNow (applyUpdate s u) b w =
        { tag := u.tag, state := 1, origin := 1, quality := u.quality, updCnt := 1, lastHeard := s.tm.uptime % 2 ^ 48, coef := u.coef } ∧
      tget 0 (applyUpdate s u).ws.counters wcInsert = satN 32 (tget 0 s.ws.counters wcInsert + 1))

/-- Ten reports that change nothing: each answers OK with the items of the opcode table, in order. -/
def Obligations.ReportsAnswerTheirItems : Prop :=
  ∀ (s : State) (h : CmdHdr),
    (Takes s h 0x0001 (.ident h) →
      Completes s h (.ident h) s (okReply h 0x0001
        [numTlv 1 (partId s : Nat), numTlv 2 1, numTlv 3 (s.mram.running : Nat),
         { type := 4, value := beBytes 8 (slotImage s s.mram.running).seq }, numTlv 5 ((slotImage s s.mram.running).build : Nat),
         { type := 6, value := beBytes 16 Config.serial }])) ∧
    (Takes s h 0x0002 (.coxStatus h) →
      Completes s h (.coxStatus h) s (okReply h 0x0002
        [{ type := 1, value := beBytes 8 s.tm.uptime }, numTlv 2 (satN 32 s.ccp.restartCnt : Nat),
         numTlv 3 (satN 32 s.ccp.dropCnt : Nat), numTlv 4 (satN 32 s.ccp.dupCnt : Nat), numTlv 5 (satN 32 s.ccp.evtLostCnt : Nat),
         numTlv 6 (satN 32 s.ccp.mspiCrcCnt : Nat), numTlv 7 (satN 32 s.ccp.longOps.length : Nat)])) ∧
    (∀ q order, s.mram.startup = some (q, order) → Takes s h 0x0005 (.startupRead h) →
      Completes s h (.startupRead h) s (okReply h 0x0005
        [numTlv 1 (q.portConfig : Nat), { type := 2, value := (paramTlvs q.portParam).flatMap tlvBytes },
         numTlv 3 (q.pinLimit : Nat), numTlv 4 (q.slackFloor : Nat), numsTlv 5 (q.loKhz.map fun (f : Nat) => (f : Int)),
         numTlv 6 (order : Nat), numTlv 7 1])) ∧
    (Takes s h 0x0025 (.kernelStatus h) →
      Completes s h (.kernelStatus h) s (okReply h 0x0025
        [numTlv 1 (if kernelKept s then 1 else 0),
          numTlv 2 (match storedKernel s with | some k => (nth 0 k.words 3).toNat | none => 0 : Nat),
         numTlv 3 (if kernelCopyOk s 0 then 1 else 0), numTlv 4 (if kernelCopyOk s 1 then 1 else 0),
         numTlv 5 (if kernelLoaded s then 1 else 0)])) ∧
    (∀ g, g < 4 → Takes s h 0x0049 (.rfCoefRead h g) →
      Completes s h (.rfCoefRead h g) s (okReply h 0x0049 [{ type := 1, value := Config.factoryCoef g }])) ∧
    (∀ p, p < 64 → absentTx s p = false → Takes s h 0x0055 (.dpdStatusCmd h p) →
      Completes s h (.dpdStatusCmd h p) s (okReply h 0x0055
        [numTlv 1 ((dpdStatusWord s p).toNat : Nat), { type := 2, value := slotHeaders s p },
         numTlv 3 (tget 0 s.cal.dpdSat p : Nat)])) ∧
    (Takes s h 0x0090 (.thermalStatus h) →
      Completes s h (.thermalStatus h) s (okReply h 0x0090
        [numsTlv 1 ((List.range 24).map (tempReading s)), { type := 2, value := beBytes 8 s.th.broken },
         numTlv 3 ((if s.th.warning then 2 else if s.th.alert then 1 else 0 : Nat) : Int), numTlv 4 (satN 32 s.pw.shutdownCnt : Nat)])) ∧
    (∀ first count, 0 < count → first + count ≤ 96 → Takes s h 0x0092 (.hkRead h first count) →
      Completes s h (.hkRead h first count) s (okReply h 0x0092
        [numsTlv 1 ((List.range count).map fun k => ((nth 0 s.th.codes (first + k) : Nat) : Int)),
         numsTlv 2 ((List.range count).map fun k => nth 0 s.th.values (first + k))])) ∧
    (Takes s h 0x00A0 (.memInfo h) →
      Completes s h (.memInfo h) s (okReply h 0x00A0
        [{ type := 1, value := beBytes 8 0x00000000 ++ beBytes 8 0x48000000 ++ beBytes 8 0x50000000 ++ beBytes 8 0x60000000 },
         numTlv 2 (s.cave.mapOrder : Nat), numTlv 3 (fget s F.caveStatusPhysL0 : Nat), numTlv 4 (fget s F.caveStatusPhysL1 : Nat),
         numTlv 5 (fget s F.miStatusRetired : Nat)])) ∧
    (Takes s h 0x00E4 (.fwStatus h) →
      Completes s h (.fwStatus h) s (okReply h 0x00E4
        [numsTlv 1 [if slotValid s.mram.slotA then 1 else 0, if slotValid s.mram.slotB then 1 else 0],
         numsTlv 2 [(s.mram.slotA.seq : Int), (s.mram.slotB.seq : Int)], numsTlv 3 [(s.mram.slotA.len : Int), (s.mram.slotB.len : Int)],
         numsTlv 4 [(s.mram.slotA.build : Int), (s.mram.slotB.build : Int)], numTlv 5 (s.mram.running : Nat),
         numTlv 6 (if s.mram.session.isSome then 1 else 0), numTlv 7 (s.mram.written : Nat)]))

/-- Status reports with CLEAR: the items give the values before the command; a CLEAR other than 0 clears the counters, and any other
form changes nothing. A MEM_LOG that meets an uncorrectable word of the log answers MEM_POISON with its offset, counts it, and clears
nothing. -/
def Obligations.StatusReportsClearTheirCounters : Prop :=
  ∀ (s : State) (h : CmdHdr) (clear : Option Nat),
    (Takes s h 0x0011 (.modeStatus h clear) →
      Completes s h (.modeStatus h clear)
        (if clear.getD 0 = 0 then s else { s with md := { s.md with dropCnt := 0, stepdownCnt := 0 } })
        (okReply h 0x0011
          [numTlv 1 (modeCode s.md.mode : Nat), numTlv 2 (if s.md.prep.isSome then 1 else 0), numTlv 3 (s.md.dropCnt : Nat),
           numTlv 4 (s.md.stepdownCnt : Nat),
           { type := 5, value := (configTlvs s.md.mode s.md.full.cfg ((List.range 4).map fun g => fget s F.loFreq g)
               (fallbackTlvs (effOf s.md.mode s.md.full.cfg) s.md.full.fallbacks)).flatMap tlvBytes }])) ∧
    (Takes s h 0x0021 (.fabricStatus h clear) →
      Completes s h (.fabricStatus h clear)
        (if clear.getD 0 = 0 then s
         else { s with fab := { s.fab with dlRepeat := [], ulDrop := [], seatCorr := [], seatProto := [] } })
        (okReply h 0x0021
          [{ type := 1, value := (List.range 420).map fun u => BitVec.ofNat 8 (stateByte s u) },
           numsTlv 2 ((List.range 64).map fun p => ((tget 0 s.fab.dlRepeat p : Nat) : Int)),
           numsTlv 3 ((List.range 64).map fun p => ((tget 0 s.fab.ulDrop p : Nat) : Int)),
           numsTlv 4 ((List.range 32).map fun c => ((tget 0 s.fab.seatCorr c : Nat) : Int)),
           numsTlv 5 ((List.range 32).map fun c => ((tget 0 s.fab.seatProto c : Nat) : Int))])) ∧
    (∀ port, port ≤ 1 → Takes s h 0x0034 (.fhStats h port clear) →
      Completes s h (.fhStats h port clear)
        (if clear.getD 0 = 0 then s
         else { s with fh := { s.fh with counters := s.fh.counters.filter fun e => decide (e.1 / 64 ≠ port) } })
        (okReply h 0x0034 (numTlvs ((List.range 30).map fun k => ((fhCounter s port k : Nat) : Int))))) ∧
    (Takes s h 0x0048 (.rfStatus h clear) →
      Completes s h (.rfStatus h clear)
        (if clear.getD 0 = 0 then s else { s with rf := { s.rf with adcOvr := [], dfeSat := [], ofdmSat := [] } })
        (okReply h 0x0048
          ([numsTlv 1 (row64 fun p => ((tget 0 s.rf.rxAtt p : Nat) : Int)), numsTlv 2 (row64 fun p => ((tget 159 s.rf.step p : Nat) : Int)),
            numsTlv 3 (row64 fun p => tget 0 s.rf.trim p), numsTlv 4 (row64 fun p => ((tget 159 s.rf.effIdx p : Nat) : Int)),
            numsTlv 5 (row64 fun p => ((tget 0 s.rf.adcOvr p : Nat) : Int)),
              numsTlv 6 (row64 fun p => ((tget 0 s.rf.dfeSat p : Nat) : Int)),
            numsTlv 7 (row64 fun p => ((tget 0 s.rf.ofdmSat p : Nat) : Int))] ++
            [{ type := 8, value := (List.range 4).flatMap fun g => (tableOf s g).flatMap fun w => beBytes 4 w.toNat },
             { type := 9, value := gapsBlock s }]))) ∧
    (Takes s h 0x0071 (.wsStatus h clear) →
      Completes s h (.wsStatus h clear)
        (if clear.getD 0 = 0 then s else { s with ws := { s.ws with counters := [] } })
        (okReply h 0x0071
          (((List.range 14).map fun k => numTlv (k + 1) (tget 0 s.ws.counters k : Nat)) ++
            [numTlv 15 (s.ws.live : Nat), numTlv 16 (s.ws.stale : Nat)]))) ∧
    (Takes s h 0x00A3 (.memLog h clear none) →
      Completes s h (.memLog h clear none)
        (if clear.getD 0 = 0 then s else { s with mi := { s.mi with log := [] } })
        (okReply h 0x00A3 [{ type := 1, value := s.mi.log.flatMap memLogBytes }])) ∧
    (∀ x, Canonical s → s.mi.log ≠ [] → Takes s h 0x00A3 (.memLog h clear (some x)) →
      ∃ eff n, Completes s h (.memLog h clear (some x)) eff
          { opcode := 0x00A3, tag := h.tag, status := stMemPoison, results := [numTlv 1 ((8 * n : Nat) : Int)] } ∧
        8 * n < (s.mi.log.flatMap memLogBytes).length ∧
        FieldSet s eff F.poisonReadCnt 0 (satN 32 (fget s F.poisonReadCnt + 1))) ∧
    (∀ c, clusterPresent s c = true → Takes s h 0x0057 (.calStatus h c clear) →
      Completes s h (.calStatus h c clear)
        (if clear.getD 0 = 0 then s
         else putCluster s c { cluster s c with
           runCnt := if s.cal.run.map (fun r => r.cluster) = some c then 1 else 0, accCnt := 0, defCnt := 0, rejCnt := 0 })
        (okReply h 0x0057
          [{ type := 1, value := if 384 ≤ c then slotHeaders s (c % 64) else codesPayload (c / 64) (cluster s c).codes },
           numTlv 2 ((calStateWord s c).toNat : Nat), numTlv 3 ((cluster s c).runCnt : Nat), numTlv 4 ((cluster s c).accCnt : Nat),
           numTlv 5 ((cluster s c).defCnt : Nat), numTlv 6 ((cluster s c).rejCnt : Nat)])) ∧
    (Takes s h 0x00D1 (.logClear h) →
      Completes s h (.logClear h) { s with ccp := { s.ccp with logNew := [], logRing := [] } } (okReply h 0x00D1 []))

/-- Settings that are in force at the reply: each stores what it carries, answers OK, and changes nothing else. The customer combiner
is stored in one copy and then in the other; a store whose read-back fails twice is STORE_FAIL (log entry 179). -/
def Obligations.SettingsTakeEffectAtTheReply : Prop :=
  ∀ (s : State) (h : CmdHdr),
    (∀ mask, Takes s h 0x0003 (.eventMask h 0 mask) →
      Completes s h (.eventMask h 0 mask) { s with ccp := { s.ccp with maskBand := BitVec.ofNat 128 mask } } (okReply h 0x0003 [])) ∧
    (∀ mask, Takes s h 0x0003 (.eventMask h 1 mask) →
      Completes s h (.eventMask h 1 mask) { s with ccp := { s.ccp with maskMspi := BitVec.ofNat 128 mask } } (okReply h 0x0003 [])) ∧
    (∀ q n, startupOk q = true → n < 2 → Takes s h 0x0004 (.startupWrite h q n) →
      Completes s h (.startupWrite h q n)
        { s with mram := { s.mram with startup := some (q, (s.mram.startup.map Prod.snd).getD s.cave.mapOrder) } } (okReply h 0x0004 [])) ∧
    (∀ k, k.words ≠ [] → imageFault k = none → Takes s h 0x0023 (.kernelInstall h k) →
      ∃ c, Completes s h (.kernelInstall h k) { s with mram := { s.mram with copies := c } }
          (stReply h 0x0023 (if k.mismatches.1 < 2 ∧ k.mismatches.2 < 2 then stOk else stStoreFail) 0) ∧
        (risingFrom 0 s.mram.copies = true → (∀ n, (tget {} s.mram.copies n).seq + 2 < 2 ^ 64) →
          let t := { s with mram := { s.mram with copies := c } }
          storedKernel t = (if 2 ≤ k.mismatches.1 then storedKernel s else some { words := k.words }) ∧
            (k.mismatches.1 < 2 → k.mismatches.2 < 2 → kernelCopyOk t 0 = true ∧ kernelCopyOk t 1 = true) ∧
            ∀ n, n / 2 ≠ 0xFFFD → tget {} c n = tget {} s.mram.copies n)) ∧
    (Takes s h 0x0024 (.kernelRemove h) →
      ∃ c, Completes s h (.kernelRemove h) { s with mram := { s.mram with copies := c } } (okReply h 0x0024 []) ∧
        (risingFrom 0 s.mram.copies = true →
          let t := { s with mram := { s.mram with copies := c } }
          storedKernel t = none ∧ kernelKept t = false ∧ ∀ n, n / 2 ≠ 0xFFFD → tget {} c n = tget {} s.mram.copies n)) ∧
    (∀ q, q.port = 0 → portParamOk s.fh.paramA q = true → Takes s h 0x0031 (.fhPortParam h q) →
      Completes s h (.fhPortParam h q) { s with fh := { s.fh with paramA := mergeParam s.fh.paramA q } } (okReply h 0x0031 [])) ∧
    (∀ q, q.port = 1 → portParamOk s.fh.paramB q = true → Takes s h 0x0031 (.fhPortParam h q) →
      Completes s h (.fhPortParam h q) { s with fh := { s.fh with paramB := mergeParam s.fh.paramB q } } (okReply h 0x0031 [])) ∧
    (∀ lane taps ctle, lane < 4 → ffeOk taps = true → ctle ≤ 15 → Takes s h 0x0032 (.fhEq h lane (some taps) (some ctle)) →
      Completes s h (.fhEq h lane (some taps) (some ctle))
        { s with fh := { s.fh with ffe := tset [0, 0, 63, 0, 0] s.fh.ffe lane taps, ctle := tset 6 s.fh.ctle lane ctle } }
        (okReply h 0x0032 [])) ∧
    (∀ q, thermalOk q = true → Takes s h 0x0091 (.thermalConfig h q) →
      Completes s h (.thermalConfig h q) { s with th := { s.th with next := some (mergeThermal s.th.next q) } }
        (okReply h 0x0091 [])) ∧
    (∀ m, m ≤ 2 → Takes s h 0x00A1 (.memConfig h m) →
      Completes s h (.memConfig h m)
        { s with mram := { s.mram with startup := some ((s.mram.startup.getD (defaultStartup 2)).1, m) } } (okReply h 0x00A1 [])) ∧
    (∀ (nco dl ul adv : Int) (n : Nat), isSplit s = false → -30720000 ≤ nco → nco ≤ 30720000 → n ≤ 273 → -1 ≤ dl → dl ≤ 12 →
      -1 ≤ ul → ul ≤ 12 → -1 ≤ adv → adv ≤ 288 → ∀ q : CarrierReq,
      q = { ncoHz := some ⟨nco, none⟩, nPrb := some ⟨n, none⟩, shiftDl := some ⟨dl, none⟩, shiftUl := some ⟨ul, none⟩,
            fftAdv := some ⟨adv, none⟩, phaseComp := none } → Takes s h 0x0012 (.carrierSet h q) →
      Completes s h (.carrierSet h q)
        { s with rf := { s.rf with nco := (nco, s.rf.nco.2), nPrb := (n, s.rf.nPrb.2), ofdmDl := (dl, s.rf.ofdmDl.2),
                                   ofdmUl := (ul, s.rf.ofdmUl.2), fftAdv := (adv, s.rf.fftAdv.2) } }
        (okReply h 0x0012 [])) ∧
    (∀ slew, 1 ≤ slew → slew ≤ 10000 → Takes s h 0x0080 (.timeConfig h none (some slew)) →
      Completes s h (.timeConfig h none (some slew)) { s with tm := { s.tm with freqSlew := slew } }
        (okReply h 0x0080 [numTlv 1 (slew : Nat)])) ∧
    (∀ tl, tl ≤ 10239999999 → s.md.mode = .standby → Takes s h 0x0080 (.timeConfig h (some tl) none) →
      Completes s h (.timeConfig h (some tl) none) { s with tm := { s.tm with tlOffset := tl } }
        (okReply h 0x0080 [numTlv 1 (s.tm.freqSlew : Nat)]))

/-- Thirteen data-plane settings that keep R31: within their ranges each waits for the first stroke of its grid, without a reply,
and changes nothing before; that stroke brings the change into force and then gives the reply. Windows are judged against those that wait
(log entry 156); beside PHASE_COMP the items of CARRIER_SET are stored at once, for the next mode entry. -/
def Obligations.DataPlaneSettingsWaitForAStroke : Prop :=
  (∀ (s : State) (h : CmdHdr),
    (∀ k kind units half st failing, kindOf k = some kind → (kind = .txPath → namesAbsent s units = false) →
      units < 2 ^ kindCount kind → half ≤ 1 → st ≤ 1 → Takes s h 0x0020 (.unitStateSet h k units (some half) st failing) →
      WaitsForStroke s h 0x0020 (.unitStateSet h k units (some half) st failing) (gridOfUnits s kind units half)
        (.unitState kind units half (decide (st = 0)) failing)) ∧
    (∀ dir half beam w, w.length = 64 → dir ≤ 1 → half ≤ 1 → beam < 64 → Takes s h 0x0022 (.sectorBeamSet h dir half beam w) →
      WaitsForStroke s h 0x0022 (.sectorBeamSet h dir half beam w) (halfIn s half)
        (.sectorBeam (if dir = 0 then .dl else .ul) half beam w)) ∧
    (∀ q, windowsOk (windowsDue s) q = true → Takes s h 0x0033 (.fhWindows h q) →
      WaitsForStroke s h 0x0033 (.fhWindows h q) 0 (.windows q)) ∧
    (∀ pc (nco : Int), pc ≤ 1 → isSplit s = false → -30720000 ≤ nco → nco ≤ 30720000 → ∀ q : CarrierReq,
      (q = { phaseComp := some pc } → Takes s h 0x0012 (.carrierSet h q) →
        WaitsForStroke s h 0x0012 (.carrierSet h q) 0 (.phaseComp pc)) ∧
      (q = { ncoHz := some ⟨nco, none⟩, phaseComp := some pc } → Takes s h 0x0012 (.carrierSet h q) →
        ∃ t, exec (.carrierSet h q) s = .next t ∧ Kept t h (.carrierSet h q) none ∧
          RepliesOnly { s with
            rf := { s.rf with nco := (nco, s.rf.nco.2) },
            ccp := { s.ccp with due := s.ccp.due ++
              [{ grid := 0, change := .phaseComp pc, slot := s.ccp.nextSlot, hdr := h, opcode := 0x0012 }] } } t)) ∧
    (∀ g, g < 16 → Takes s h 0x0041 (.loOff h g) →
      WaitsForStroke s h 0x0041 (.loOff h g) (gridOfGroups s g) (.loOff g)) ∧
    (∀ paths att, paths < 2 ^ 64 → att ≤ 30 → Takes s h 0x0045 (.rxAttSet h paths att) →
      WaitsForStroke s h 0x0045 (.rxAttSet h paths att) (gridOfPaths s paths) (.rxAtt paths att)) ∧
    (∀ g l b, g < 4 → 0 < l.length → l.length ≤ 160 → (∀ w ∈ l, getBits w 22 10 = 0 ∧ getBits w 0 16 ≤ 0x8000) → b ≤ 80 →
      Takes s h 0x0046 (.powerTableSet h g l (some b)) →
      WaitsForStroke s h 0x0046 (.powerTableSet h g l (some b)) (gridOfGroups s (2 ^ g)) (.powerTable g l (some b))) ∧
    (∀ (paths st : Nat) (trim : Int), paths < 2 ^ 64 → namesAbsent s paths = false → st ≤ 159 → -16 ≤ trim → trim ≤ 15 →
      Takes s h 0x0047 (.powerStepSet h paths (some st) (some trim)) →
      WaitsForStroke s h 0x0047 (.powerStepSet h paths (some st) (some trim)) (gridOfPaths s paths)
        (.powerStep paths (some st) (some trim))) ∧
    (∀ g code, g < 16 → code ≤ 3 → Takes s h 0x004C (.loopbackSet h g code) →
      WaitsForStroke s h 0x004C (.loopbackSet h g code) (gridOfGroups s g) (.loopback g code)) ∧
    (∀ paths f, paths < 2 ^ 64 → namesAbsent s paths = false → f ≤ 1 → Takes s h 0x0050 (.dpdBypassCmd h paths f) →
      WaitsForStroke s h 0x0050 (.dpdBypassCmd h paths f) (gridOfPaths s paths) (.dpdBypass paths (decide (f = 1)))) ∧
    (∀ p k r, p < 64 → absentTx s p = false → k < 8 → recordOk s p r = true → Takes s h 0x0053 (.dpdSlotWrite h p k r) →
      WaitsForStroke s h 0x0053 (.dpdSlotWrite h p k r) (halfOfGroup s (p / 16)) (.dpdSlot p k r)) ∧
    (∀ p k, p < 64 → absentTx s p = false → k < 8 → Takes s h 0x0054 (.dpdSlotClear h p k) →
      WaitsForStroke s h 0x0054 (.dpdSlotClear h p k) (halfOfGroup s (p / 16)) (.dpdSlot p k {})) ∧
    (∀ (k age reg : Nat) (mq : Int), k ≤ 7 → age ≤ 65535 → reg ≤ 1023 → -300 ≤ mq → mq ≤ 300 → ∀ q : WsConfigReq,
      q = { blendK := some k, estMinQ := some mq, ageMin := some age, regZf := some reg } →
      Takes s h 0x0070 (.wsConfig h q) →
      WaitsForStroke s h 0x0070 (.wsConfig h q) 0 (.wsConfig q))) ∧
  (∀ (s : State) (half : Nat) (d : Due), Canonical s → StrokeRuns s half → s.cal.run = none → s.ccp.due = [d] →
    (if isSplit s then d.grid else 0) = half → (∀ l, dueLimit s half = some l → d.slot < l.1) →
    ∃ t, exec (.stroke half) s = .next t ∧ t.ccp.due = [] ∧
      (∀ kind units hf on failing bad, d.change = .unitState kind units hf on failing → hf ≤ 1 →
        (kind = .txPath → namesAbsent s units = false) → risingFrom 0 s.fab.units = true → risingFrom 0 s.fab.mutes = true →
        bad = (fun n => on && (s.fab.faults.any (fun e => decide (e.1 = unitOf kind hf n)) ||
          (decide (unitState s (unitOf kind hf n) = 2) && testFails s kind n failing))) →
        (∀ n ∈ unitsOf units (kindCount kind), ∀ u, u = unitOf kind hf n →
          (bad n = true → unitState t u = 2 ∧ muted t u = muted s u) ∧
          (on = true → bad n = false → unitState t u = 0 ∧ muted t u = false) ∧
          (on = false → unitFaulted s u = true → unitState t u = unitState s u ∧ muted t u = muted s u) ∧
          (on = false → unitFaulted s u = false → unitState t u = 1 ∧ muted t u = true)) ∧
        ((unitsOf units (kindCount kind)).filter bad = [] → DueReplied s t d stOk 0) ∧
        (∀ n l, (unitsOf units (kindCount kind)).filter bad = n :: l → DueReplied s t d stUnitFault n)) ∧
      (∀ dir hf beam w, d.change = .sectorBeam dir hf beam w →
        t.fab.sector = tset broadside s.fab.sector (sectorKey dir hf beam) w ∧ DueReplied s t d stOk 0) ∧
      (∀ q, d.change = .windows q →
        (windowsOk s q = true →
          t.fh.csOpen = q.csOpen.getD s.fh.csOpen ∧ t.fh.csClose = q.csClose.getD s.fh.csClose ∧
          t.fh.udOpen = q.udOpen.getD s.fh.udOpen ∧ t.fh.udClose = q.udClose.getD s.fh.udClose ∧
          t.fh.accWait = q.accWait.getD s.fh.accWait ∧ DueReplied s t d stOk 0) ∧
        (windowsOk s q = false →
          t.fh.csOpen = s.fh.csOpen ∧ t.fh.csClose = s.fh.csClose ∧ t.fh.udOpen = s.fh.udOpen ∧ t.fh.udClose = s.fh.udClose ∧
          t.fh.accWait = s.fh.accWait ∧ DueReplied s t d stBadConfig 0)) ∧
      (∀ v, d.change = .phaseComp v → t.rf.phaseComp = v ∧ t.rf.phaseCompF = v ∧ DueReplied s t d stOk 0) ∧
      (∀ g, d.change = .loOff g →
        (s.md.mode = .standby ∨ s.md.mode = .service → (∀ k ∈ unitsOf g 4, rsm t k = rsmOff) ∧ DueReplied s t d stOk 0) ∧
        (s.md.mode ≠ .standby → s.md.mode ≠ .service → DueReplied s t d stWrongMode 0)) ∧
      (∀ g f, d.change = .loTune g f → f ≤ 6000000 →
        ∀ k ∈ unitsOf g 4, fget t F.loFreq k = f ∧ (rsm t k = rsmSettle ∨ rsm t k = rsmCal)) ∧
      (∀ g, d.change = .synthCal g → ∀ k ∈ unitsOf g 4, rsm t k = rsmCal) ∧
      (∀ paths att, d.change = .rxAtt paths att →
        t.rf.rxAtt = setAll 0 (unitsOf paths 64) att s.rf.rxAtt ∧ DueReplied s t d stOk 0) ∧
      (∀ g l b, d.change = .powerTable g l b →
        t.rf.tables = tset none s.rf.tables g (some l) ∧
        t.rf.backoff = (match b with | some v => tset 24 s.rf.backoff g v | none => s.rf.backoff) ∧ DueReplied s t d stOk 0) ∧
      (∀ paths st tr, d.change = .powerStep paths st tr →
        t.rf.step = (match st with | some v => setAll 159 (unitsOf paths 64) v s.rf.step | none => s.rf.step) ∧
        t.rf.trim = (match tr with | some v => setAll 0 (unitsOf paths 64) v s.rf.trim | none => s.rf.trim) ∧
        DueReplied s t d stOk 0) ∧
      (∀ g code, d.change = .loopback g code →
        (s.md.mode = .service → t.rf.loopback = setAll 0 (unitsOf g 4) code s.rf.loopback ∧
          (code = 3 → ∀ k ∈ unitsOf g 4,
            fget t F.orxSwState k = fget s F.orxSwState k / 64 * 64 + 16 + fget s F.orxSwState k % 16) ∧ DueReplied s t d stOk 0) ∧
        (s.md.mode ≠ .service → t.rf.loopback = s.rf.loopback ∧ DueReplied s t d stWrongMode 0)) ∧
      (∀ paths force, d.change = .dpdBypass paths force →
        t.cal.forced = setAll false (unitsOf paths 64) force s.cal.forced ∧
        t.cal.hold = (if force then s.cal.hold else setAll false (unitsOf paths 64) false s.cal.hold) ∧
        (force = true → ∀ p ∈ unitsOf paths 64, p ∈ halfPaths s half → absentTx s p = false → rsmLocked ≤ rsm t (p / 16) →
          fget t F.dpdStatusBypass p = 1 ∧ fget t F.dpdStatusBypReason p = bypHost) ∧ DueReplied s t d stOk 0) ∧
      (∀ p k r, d.change = .dpdSlot p k r → k < 8 → s.cal.banked = [] → s.cal.cleared = [] → risingFrom 0 s.cal.bank = true →
        (∃ n, slotOf t p k = { r with lastUse := n }) ∧ clusterOf 6 p ∈ t.cal.stores ∧ DueReplied s t d stOk 0) ∧
      (∀ q, d.change = .wsConfig q →
        t.ws.blendK = q.blendK.getD s.ws.blendK ∧ t.ws.estMinQ = q.estMinQ.getD s.ws.estMinQ ∧
        t.ws.ageMin = q.ageMin.getD s.ws.ageMin ∧ t.ws.regZf = q.regZf.getD s.ws.regZf ∧ (q.recip = none → t.ws.recip = s.ws.recip) ∧
        (∀ l, q.recip = some l → t.ws.recip = putRecip s.ws.recip l 0) ∧ DueReplied s t d stOk 0))

/-- Long operations: each replies ACCEPTED while fewer than 32 are in progress, is then in progress, starts what the table's owner
says, and changes nothing else. -/
def Obligations.LongOperationsAreAcceptedAndStart : Prop :=
  ∀ (s : State) (h : CmdHdr), s.ccp.longOps.length < 32 →
    (∀ q m f, lackingHalf (blockSplit s q.items) q.items = none →
      (q.fallbacks.any fun b => (lackingHalf (blockSplit s b) b).isSome) = false →
      judgeMode s q = .inr (m, f) → Takes s h 0x0010 (.modeSet h q) →
      Accepts s h 0x0010 (.modeSet h q) fun t => { t with
        md := { t.md with prep := some { target := m, full := f, cmd := some h } },
        fab := { t.fab with loads := if activeMode t.md.mode then t.fab.loads else [] },
        pw := if m = .dormant then { t.pw with entering := some h } else t.pw }) ∧
    (∀ g f, g < 16 → 380000 ≤ f → f ≤ 6000000 → tuneSetOk s g = true → Takes s h 0x0040 (.loTune h g f) →
      ∃ n, Accepts s h 0x0040 (.loTune h g f) fun t => { t with ccp := { t.ccp with
        due := t.ccp.due ++ [{ grid := gridOfGroups s g, change := .loTune g f, slot := n, hdr := h, opcode := 0x0040 }] } }) ∧
    (∀ g, g < 16 → Takes s h 0x0042 (.synthCal h g) →
      ∃ n, Accepts s h 0x0042 (.synthCal h g) fun t => { t with ccp := { t.ccp with
        due := t.ccp.due ++ [{ grid := gridOfGroups s g, change := .synthCal g, slot := n, hdr := h, opcode := 0x0042 }] } }) ∧
    (∀ g khz period codes, g < 16 → khz ∈ [15, 30, 60, 120] → 0 < period → twoFrames (muOf khz) % period = 0 →
      codes.length = period → Takes s h 0x0044 (.tddPattern h g khz period codes) →
      Accepts s h 0x0044 (.tddPattern h g khz period codes) fun t => { t with rf := { t.rf with
        pendingPatterns := t.rf.pendingPatterns ++ [({ hdr := h, opcode := 0x0044 }, g, muOf khz,
          { period := period, codes := codes.flatMap fun w => (List.range 14).map fun i => w / 4 ^ i % 4 })] } }) ∧
    (∀ l, calRunCheck s l = none → Takes s h 0x0056 (.calRun h l) →
      Accepts s h 0x0056 (.calRun h l) fun t => { t with cal := { t.cal with
        cmds := t.cal.cmds ++ [{ hdr := h, clusters := l, ended := [] }],
        requests := l.foldl (fun r c => if r.contains c then r else r ++ [c]) t.cal.requests } }) ∧
    (∀ first count, 0 < count → first + count ≤ 524288 → s.ws.transfer = none → hostBulkSet s = false →
      Takes s h 0x0072 (.wsExport h first count) →
      ∃ eff, Completes s h (.wsExport h first count) eff (stReply h 0x0072 stAccepted 0) ∧
        eff = { withLong s h 0x0072 with
          regs := eff.regs, dma := eff.dma,
          ws := { s.ws with transfer := some ⟨h, false, first, count, s.tm.uptime, first, count, 0⟩, transferNow := s.tm.now },
          cave := { s.cave with
            nextReq := s.cave.nextReq + 1,
            reqs := s.cave.reqs ++
              [{ id := s.cave.nextReq, port := 3, write := false, addr := first * 2304, len := 2304, data := [] }] } } ∧
        (risingFrom 0 s.dma = true → chanOf eff 14 = { req := some s.cave.nextReq }) ∧ TransferBegun s eff count) ∧
    (∀ first count up, 0 < count → first + count ≤ 524288 → s.ws.transfer = none → hostBulkSet s = false →
      Takes s h 0x0073 (.wsImport h first count up) →
      ∃ eff, Completes s h (.wsImport h first count up) eff (stReply h 0x0073 stAccepted 0) ∧
        eff = { withLong s h 0x0073 with
          regs := eff.regs, dma := eff.dma,
          ws := { s.ws with transfer := some ⟨h, true, first, count, up, first, count, 0⟩, transferNow := s.tm.now } } ∧
        (risingFrom 0 s.dma = true → chanOf eff 14 = {}) ∧ TransferBegun s eff count) ∧
    (∀ sec ns, syncSrc s = srcFree → ns ≤ 999999999 → sec < 2 ^ 48 → s.md.prep = none → stepping s = false → s.tm.setAtPps = none →
      activeMode s.md.mode = true → Takes s h 0x0081 (.timeSet h sec ns) →
      Accepts s h 0x0081 (.timeSet h sec ns) fun t => { t with tm := { t.tm with
        step := some ((((sec * 1000000000 + ns) * 65536 : Nat) : Int) - t.tm.counter, some tsFree,
          some { hdr := h, opcode := 0x0081 }) } }) ∧
    (∀ sec, syncSrc s = srcPps → s.md.prep = none → stepping s = false → s.tm.setAtPps = none → Takes s h 0x0081 (.timeSet h sec 0) →
      Accepts s h 0x0081 (.timeSet h sec 0) fun t => { t with tm := { t.tm with
        setAtPps := some (sec, { hdr := h, opcode := 0x0081 }) } }) ∧
    (timeState s = tsStepPending → s.md.prep = none → stepping s = false → s.tm.setAtPps = none → activeMode s.md.mode = true →
      Takes s h 0x0082 (.acceptStep h) →
      Accepts s h 0x0082 (.acceptStep h) fun t => { t with tm := { t.tm with
        step := some (-t.tm.offset, some tsAcquiring, some { hdr := h, opcode := 0x0082 }) } }) ∧
    (∀ k, s.mram.session = some k → s.mram.commitCmd = none → Takes s h 0x00E2 (.fwCommit h) →
      Accepts s h 0x00E2 (.fwCommit h) fun t => { t with mram := { t.mram with commitCmd := some h } })

/-- Firmware images: a session opens on a slot and makes it invalid, data goes into the slot, the end of the check commits the slot
above the other or leaves it invalid, and an activation restarts Cox into the newer valid image on trial. -/
def Obligations.FirmwareSessionsWriteCheckAndActivate : Prop :=
  ∀ (s : State) (h : CmdHdr),
    (∀ len crc build slot, 4 ≤ len → len ≤ 1048512 → s.mram.commitCmd = none → Takes s h 0x00E0 (.fwBegin h len crc build slot) →
      Completes s h (.fwBegin h len crc build slot)
        (let k := targetSlot s slot
         let u := putSlotImage s k { slotImage s k with commit := 0, len := len, crc := crc, build := build }
         { u with mram := { u.mram with session := some k, written := 0 } })
        (okReply h 0x00E0 [])) ∧
    (∀ k offset data, s.mram.session = some k → 4 ≤ data.length → data.length ≤ 8180 → offset % 4 = 0 →
      offset + data.length ≤ (slotImage s k).len + 3 - ((slotImage s k).len + 3) % 4 → Takes s h 0x00E1 (.fwWrite h offset data) →
      Completes s h (.fwWrite h offset data)
        (let u := putSlotImage s k { slotImage s k with data := writeImage (slotImage s k).data offset data }
         { u with mram := { u.mram with written := s.mram.written + data.length } })
        (okReply h 0x00E1 [])) ∧
    (∀ c k, s.mram.commitCmd = some c → s.mram.session = some k → k < 2 →
      ∃ t, exec .fwCommitDone s = .next t ∧
        EventsOnly
          (let m := slotImage s k
           let u := if crc32 (imageBytes m) = m.crc then
               putSlotImage s k { m with seq := ((slotImage s (1 - k)).seq + 1) % 2 ^ 64, commit := 0xC0A70F1E } else s
           { u with mram := { u.mram with session := none, written := 0, commitCmd := none },
                    ccp := { u.ccp with longOps := u.ccp.longOps.erase { hdr := c, opcode := 0x00E2 } } }) t ∧
        Completed t { hdr := c, opcode := 0x00E2 }
          (if crc32 (imageBytes (slotImage s k)) = (slotImage s k).crc then stOk else stBadImage) 0 []) ∧
    (∀ k, s.md.mode = .standby → k = 1 - s.mram.running → slotValid (slotImage s k) = true →
      (slotImage s s.mram.running).seq < (slotImage s k).seq → s.ccp.longOps.length < 32 → Takes s h 0x00E3 (.fwActivate h) →
      ∃ t, exec (.fwActivate h) s = .next t ∧
        CcpOut.reply (stReply h 0x00E3 stAccepted 0) ∈ outOf t h.path ∧ t.ccp.replyBand = [] ∧ t.ccp.replyMspi = [] ∧ t.ccp.doneBand = [] ∧ t.ccp.doneMspi = [] ∧
        RepliesOnly { withLong s h 0x00E3 with
          mram := { s.mram with running := k, trial := some h },
          ccp := { (withLong s h 0x00E3).ccp with
            restarting := true, inBand := [], mspi := [], due := s.ccp.due.filter Due.long } } t) ∧
    (∀ k, s.md.mode = .recovery → bestSlot s [0, 1] = some k → s.ccp.longOps.length < 32 → Takes s h 0x00E3 (.fwActivate h) →
      ∃ t, exec (.fwActivate h) s = .next t ∧
        CcpOut.reply (stReply h 0x00E3 stAccepted 0) ∈ outOf t h.path ∧
        RepliesOnly { withLong s h 0x00E3 with
          md := { s.md with mode := .boot },
          mram := { s.mram with running := k, trial := some h },
          ccp := { (withLong s h 0x00E3).ccp with
            restarting := true, inBand := [], mspi := [], due := s.ccp.due.filter Due.long } } t)

/-- The bulk data port is first in, first out with 65,536 bytes each way and marks poison on the way out. Reads of stored data: a
DPD slot and the event log; a read that meets an uncorrectable word answers MEM_POISON with its offset, counts it, and clears the
DPD slot. -/
def Obligations.BulkDataAndRecordsAreRead : Prop :=
  (∀ (s : State) (h : CmdHdr),
    (∀ data, 4 ≤ data.length → data.length ≤ 8188 → s.ccp.bulkIn.length + data.length ≤ 65536 →
       Takes s h 0x00B0 (.bulkPut h data) →
      Completes s h (.bulkPut h data) { s with ccp := { s.ccp with bulkIn := s.ccp.bulkIn ++ data.map fun b => (b, false) } }
        (okReply h 0x00B0 [numTlv 1 ((65536 - (s.ccp.bulkIn.length + data.length) : Nat) : Int)])) ∧
    (∀ data, 4 ≤ data.length → data.length ≤ 8188 → 65536 < s.ccp.bulkIn.length + data.length →
       Takes s h 0x00B0 (.bulkPut h data) →
      Completes s h (.bulkPut h data) s (stReply h 0x00B0 stBusy 0)) ∧
    (∀ m, 4 ≤ m → m ≤ 8176 → Takes s h 0x00B1 (.bulkGet h m) →
      Completes s h (.bulkGet h m) { s with ccp := { s.ccp with bulkOut := s.ccp.bulkOut.drop m } }
        { opcode := 0x00B1, tag := h.tag, status := stOk,
          results := [{ type := 1, value := (s.ccp.bulkOut.take m).map Prod.fst },
                      numTlv 2 (if (s.ccp.bulkOut.take m).any Prod.snd then 1 else 0)],
          poison := (s.ccp.bulkOut.take m).any Prod.snd })) ∧
  (∀ (s : State) (h : CmdHdr),
    (∀ p k, p < 64 → absentTx s p = false → k < 8 → bufFirstMarked s bufDpd [p, k] = none →
      Takes s h 0x0052 (.dpdSlotRead h p k none) →
      Completes s h (.dpdSlotRead h p k none) s (okReply h 0x0052 [{ type := 1, value := recordBytes (slotOf s p k) }])) ∧
    (∀ p k x o, Canonical s → p < 64 → absentTx s p = false → k < 8 →
      (o = some x ∨ (o = none ∧ bufFirstMarked s bufDpd [p, k] = some x)) → Takes s h 0x0052 (.dpdSlotRead h p k o) →
      ∃ eff, Completes s h (.dpdSlotRead h p k o) eff
          { opcode := 0x0052, tag := h.tag, status := stMemPoison, results := [numTlv 1 (x % 1056 / 8 * 8 : Nat)] } ∧
        eff = { s with regs := eff.regs, sramPoison := eff.sramPoison,
                       cal := { s.cal with bank := tset {} s.cal.bank (8 * p + k) {}, stores := eff.cal.stores } } ∧
        bufFirstMarked eff bufDpd [p, k] = none ∧ (∀ e ∈ eff.sramPoison, e ∈ s.sramPoison) ∧
        384 + p ∈ eff.cal.stores ∧
        fget eff F.dpdPoisonCnt = satN 32 (fget s F.dpdPoisonCnt + 1) ∧
        fget eff F.poisonReadCnt = satN 32 (fget s F.poisonReadCnt + 1) ∧
        RegsKept s eff [F.dpdPoisonCnt.bits 0, F.poisonReadCnt.bits 0]) ∧
    (∀ first count, 0 < count → count ≤ 120 → Takes s h 0x00D0 (.logRead h first count none) →
      Completes s h (.logRead h first count none) s
        (okReply h 0x00D0 [{ type := 1, value := (((logAll s).drop first).take count).flatMap logBytes }])) ∧
    (∀ first count x, Canonical s → 0 < count → count ≤ 120 → first < (logAll s).length →
      Takes s h 0x00D0 (.logRead h first count (some x)) →
      ∃ eff n, Completes s h (.logRead h first count (some x)) eff
          { opcode := 0x00D0, tag := h.tag, status := stMemPoison, results := [numTlv 1 ((32 * n : Nat) : Int)] } ∧
        32 * n < 64 * count ∧ FieldSet s eff F.poisonReadCnt 0 (satN 32 (fget s F.poisonReadCnt + 1))))

/-- The capture commands: a configuration that keeps R276 is stored and the ring is IDLE; a ring is armed with its followers,
triggered with its armed followers, stopped and released. A trigger that meets a running ring or a busy ORX is lost: BUSY, counted at
the ring, and at its ORX where that is in use. CAP_READ returns the bytes of a block of a ring as the Cave delivers them,
or MEM_POISON with the offset of the first poisoned byte, and writes no memory. -/
def Obligations.CaptureCommandsMoveRingsAndReadBlocks : Prop :=
  (∀ (s : State) (h : CmdHdr), Canonical s →
    (∀ (r : Nat) (cfg area len trig trig2 : Word), r ≤ 13 → sourceAbsent s (getBits cfg 0 3) (getBits cfg 8 6) = false →
      configOk s r (getBits area 16 16) (getBits area 0 16) len.toNat (getBits cfg 16 3) = true → getBits trig 24 8 ≤ 60 →
      ringActive s r = false → hostDmaMeets s (getBits area 16 16) (getBits area 0 16) = false →
      Takes s h 0x0060 (.capConfig h r cfg area len trig trig2) →
      ∃ eff, Completes s h (.capConfig h r cfg area len trig trig2) eff (okReply h 0x0060 []) ∧
        eff = { s with regs := eff.regs, cap := { s.cap with
          rings := tset {} s.cap.rings r {}, staging := s.cap.staging.filter fun b => decide (b.ring ≠ r) } } ∧
        rget eff (0x600000 + 0x40 * r) = cfg &&& 0xFF073F07#32 ∧ rget eff (0x600004 + 0x40 * r) = area ∧
        rget eff (0x600008 + 0x40 * r) = len ∧ rget eff (0x60000C + 0x40 * r) = trig ∧
        rget eff (0x600010 + 0x40 * r) = trig2 &&& 0x07FFFFFF#32 ∧ fget eff F.capWrCnt r = 0 ∧ fget eff F.capRdCnt r = 0 ∧
        ringState eff r = ringIdle ∧
        RegsKept s eff [(0x600000 + 0x40 * r, 0, 32), (0x600004 + 0x40 * r, 0, 32), (0x600008 + 0x40 * r, 0, 32),
          (0x60000C + 0x40 * r, 0, 32), (0x600010 + 0x40 * r, 0, 32), F.capWrCnt.bits r, F.capRdCnt.bits r,
          F.capStatusState.bits r]) ∧
    (∀ (r : Nat) (fs : List Nat), r ≤ 13 → fget s F.capCfgLinkEn r = 0 → ringState s r = ringIdle → fs = followers s r →
      (fget s F.dmaStatusState 15 ≠ 1 ∨ (List.range 16).any (ringActive s) = true) →
      (∀ q ∈ fs, ringState s q = ringIdle ∧ followers s q = []) → fget s F.capTrig2Period r ≤ 1024 →
      (∀ q ∈ r :: fs, regsOk s q = true ∧ sourceAbsent s (fget s F.capCfgSource q) (fget s F.capCfgPath q) = false) →
      captureRate ((r :: fs).foldl (fun u q => setRing u q ringArmed) s) ≤ p1Ceiling → Takes s h 0x0061 (.capArm h r) →
      ∃ eff, Completes s h (.capArm h r) eff (okReply h 0x0061 []) ∧
        eff = { s with regs := eff.regs, cap := { s.cap with rings := (r :: fs).foldl (fun t q => tset {} t q
            { nextAt := if fget s F.capCfgTrig q = 1 then some (timeInstant s q) else none }) s.cap.rings } } ∧
        (∀ q ∈ r :: fs, ringState eff q = ringArmed) ∧ RegsKept s eff ((r :: fs).map F.capStatusState.bits)) ∧
    (∀ (r : Nat) (all : List Nat), r ≤ 13 → mayFire s r 3 = true → all = r :: (followers s r).filter (fun q => ringActive s q) →
      (∀ q ∈ all, ringBlocked s q = false) → Takes s h 0x0062 (.capTrigger h r) →
      ∃ eff, Completes s h (.capTrigger h r) eff (okReply h 0x0062 []) ∧
        eff = { s with regs := eff.regs, cap := { s.cap with rings := eff.cap.rings, orxBusy := eff.cap.orxBusy } } ∧
        eff.cap.rings = all.foldl (fun t q => tset {} t q
          { start := some (hostStart s r), nextAt := (ringOf s q).nextAt }) s.cap.rings ∧
        (∀ q ∈ all, ringState eff q = ringRunning ∧
          fget eff F.capStatusCaptureSeq q = (fget s F.capStatusCaptureSeq q + 1) % 65536) ∧
        (∀ k, (∀ q ∈ all, ringOrx s q ≠ some k) → tget [] eff.cap.orxBusy k = tget [] s.cap.orxBusy k) ∧
        (risingFrom 0 s.cap.orxBusy = true → ∀ q ∈ all, ∀ k, ringOrx s q = some k → q ∈ tget [] eff.cap.orxBusy k) ∧
        RegsKept s eff (all.map F.capStatusState.bits ++ all.map F.capStatusCaptureSeq.bits ++ (List.range 4).map F.orxSwState.bits)) ∧
    (∀ (r : Nat) (all : List Nat), r ≤ 13 → mayFire s r 3 = true → all = r :: (followers s r).filter (fun q => ringActive s q) →
      (∃ q ∈ all, ringBlocked s q = true) → Takes s h 0x0062 (.capTrigger h r) →
      ∃ t, exec (.capTrigger h r) s = .next t ∧ Answers s t h (.capTrigger h r) (stReply h 0x0062 stBusy 0) ∧
        fget t F.capLostCnt r = satN 32 (fget s F.capLostCnt r + 1) ∧
        (∀ k, ringOrx s r = some k → orxInUse s k = true → fget t F.urgentDropCnt k = satN 32 (fget s F.urgentDropCnt k + 1) ∧
          RegsKept s t [F.capLostCnt.bits r, F.urgentDropCnt.bits k]) ∧
        ((∀ k, ringOrx s r = some k → orxInUse s k = false) → RegsKept s t [F.capLostCnt.bits r]) ∧
        TrafficOnly { s with regs := t.regs } t) ∧
    (∀ r, r ≤ 13 → ringState s r = ringArmed → Takes s h 0x0063 (.capStop h r) →
      ∃ eff, Completes s h (.capStop h r) eff (okReply h 0x0063 []) ∧
        eff = { s with regs := eff.regs, cap := { s.cap with rings := eff.cap.rings, orxBusy := eff.cap.orxBusy } } ∧
        ringState eff r = ringIdle ∧ fget eff F.capStatusStopReason r = stopHost ∧
        (∀ q, q ≠ r → ringOf eff q = ringOf s q) ∧
        RegsKept s eff [F.capStatusState.bits r, F.capStatusStopReason.bits r]) ∧
    (∀ r, r ≤ 13 → ringState s r = ringRunning → Takes s h 0x0063 (.capStop h r) →
      ∃ t, exec (.capStop h r) s = .next t ∧ Answers s t h (.capStop h r) (okReply h 0x0063 []) ∧ ringState t r = ringIdle ∧
        (fget t F.capStatusStopReason r = stopHost ∨ fget t F.capStatusStopReason r = stopFull) ∧
        (∀ b ∈ t.cap.staging, b.ring ≠ r) ∧ t.sramMem = s.sramMem ∧ t.md = s.md ∧ t.rf = s.rf ∧ t.fh = s.fh ∧ t.fab = s.fab ∧
        t.mram = s.mram ∧
        (NoWritesQueued s → (∀ b ∈ s.cap.staging, b.samples.length ≤ 16368) → 0 < fget s F.capAreaNblk r →
          (∀ a, (a < blockAddr (fget s F.capAreaBaseBlk r) ∨
              blockAddr (fget s F.capAreaBaseBlk r + fget s F.capAreaNblk r) ≤ a) → memGet t.caveMem a = memGet s.caveMem a) ∧
          ∀ q ∈ t.cave.reqs, q.port = 1 ∧ q.write = true ∧ blockAddr (fget s F.capAreaBaseBlk r) ≤ q.addr ∧
            q.addr + q.len ≤ blockAddr (fget s F.capAreaBaseBlk r + fget s F.capAreaNblk r))) ∧
    (∀ r, r ≤ 13 → ringState s r = ringIdle → Takes s h 0x0064 (.capRelease h r) →
      ∃ eff, Completes s h (.capRelease h r) eff (okReply h 0x0064 []) ∧ FieldSet s eff F.capStatusState r ringFree)) ∧
  (∀ (s : State) (h : CmdHdr) (r block offset length a : Nat) (faults : List WordFault) (l : List (Byte × Bool)),
    r ≤ 13 → block < fget s F.capAreaNblk r → 4 ≤ length → length ≤ 8180 → offset + length ≤ 65536 →
    a = 0x60000000 + 65536 * (fget s F.capAreaBaseBlk r + block) + offset →
    l = (caveRead (moveBytes (openRowsOf (awaitWrites s a length) (a / 32) (codeWords a length)) 3 (32 * codeWords a length)) 3
      a length faults).1 →
    Takes s h 0x0065 (.capRead h r block offset length faults) →
    (∃ t, exec (.capRead h r block offset length faults) s = .next t ∧
      Answers s t h (.capRead h r block offset length faults)
        (match l.findIdx? Prod.snd with
         | some k => { opcode := 0x0065, tag := h.tag, status := stMemPoison, results := [numTlv 1 k] }
         | none => okReply h 0x0065 [{ type := 1, value := l.map Prod.fst }]) ∧
      (NoWritesQueued s → TrafficOnly { s with
        ccp := { s.ccp with episodes := t.ccp.episodes }, regs := t.regs, cave := t.cave, mi := t.mi, mram := t.mram,
        freeCnt := t.freeCnt } t)) ∧
    (NoWritesQueued s → faults = [] → (∀ w, a / 32 ≤ w → w ≤ (a + length - 1) / 32 → tget false s.cavePoison w = false) →
      l.findIdx? Prod.snd = none ∧ l.map Prod.fst = memSlice s.caveMem a length))

/-- A host write to a register outside the DMA channels, CAP_RD_CNT and DPD_STATUS leaves every field of it as its access code says;
but for the five registers whose write has a further effect, nothing else changes. A ring's configuration takes no write while the
ring is ARMED or RUNNING, nor does a ring of Cox's. Writes to the registers of a DMA channel, to CAP_RD_CNT and to DPD_STATUS act as
their own commands. -/
def Obligations.RegisterWritesFollowTheirRules : Prop :=
  (∀ (s : State) (a : Nat) (w : Word) (r : RegDef) (i : Nat), Canonical s → regAt a = some (r, i) → ¬(0xA00000 ≤ a ∧ a < 0xA00400) →
    r.base ≠ F.capRdCnt.base → r.base ≠ F.dpdStatusTrainEn.base →
    (¬(0x600000 ≤ r.base ∧ r.base ≤ F.capTrig2Period.base ∧ (13 < i ∨ ringIdle < ringState s i)) →
      ∃ t, exec (.registerWrite a w) s = .next t ∧ (∀ f ∈ r.flds, fget t f i = fieldWritten s w f i) ∧
        (r.base ∉ [F.fabVfabCfgLoopEn.base, F.p0CfgPanicHi.base, F.refCfg.base, F.paBusCfgSckMhz.base, F.timeCfgSyncSrc.base] →
          t = { s with regs := t.regs } ∧ RegsKept s t [(a, 0, 32)])) ∧
    (0x600000 ≤ r.base ∧ r.base ≤ F.capTrig2Period.base ∧ (13 < i ∨ ringIdle < ringState s i) →
      exec (.registerWrite a w) s = .next s)) ∧
  (∀ (s : State) (w : Word),
    (∀ c k, c < 16 → k < 8 → exec (.registerWrite (0xA00000 + 0x40 * c + 4 * k) w) s = exec (.dmaSetFieldWrite c k w) s) ∧
    (∀ c, c < 16 → w.toNat % 32 = 1 → exec (.registerWrite (0xA00020 + 0x40 * c) w) s = exec (.dmaGo c) s) ∧
    (∀ c, c < 16 → w.toNat % 32 = 2 → exec (.registerWrite (0xA00020 + 0x40 * c) w) s = exec (.dmaArm c) s) ∧
    (∀ c, c < 16 → w.toNat % 32 = 4 → exec (.registerWrite (0xA00020 + 0x40 * c) w) s = exec (.dmaDisarm c) s) ∧
    (∀ c, c < 16 → w.toNat % 32 = 8 → exec (.registerWrite (0xA00020 + 0x40 * c) w) s = exec (.dmaStop c) s) ∧
    (∀ c, c < 16 → w.toNat % 32 = 16 → exec (.registerWrite (0xA00020 + 0x40 * c) w) s = exec (.dmaAbort c) s) ∧
    (∀ r, r < 16 → exec (.registerWrite (0x60001C + 0x40 * r) w) s = exec (.capRdCntWrite r w) s) ∧
    (∀ p, p < 64 → exec (.registerWrite (F.dpdStatusTrainEn.addr p) w) s = exec (.trainEnWrite p w) s))

/-- Reads that clear, writes of 1 that clear, the latch of the seconds, and the three registers with a write rule of their own. -/
def Obligations.RegisterSideEffects : Prop :=
  ∀ (s : State), Canonical s →
    (∃ t, exec .timeNsRead s = .next t ∧
      t = { s with tm := { s.tm with secLatch := s.tm.counter / 65536 / 1000000000 % 2 ^ 48 } } ∧
      regView t F.timeSecHi.base = BitVec.ofNat 32 (s.tm.counter / 65536 / 1000000000 % 2 ^ 48 / 2 ^ 32) ∧
      regView t F.timeSecLo.base = BitVec.ofNat 32 (s.tm.counter / 65536 / 1000000000 % 2 ^ 32)) ∧
    (∀ a r i, regAt a = some (r, i) →
      ∃ t, exec (.rcRead a) s = .next t ∧ t = { s with regs := t.regs } ∧
        (∀ f ∈ r.flds, fget t f i = if f.acc = .rc then 0 else fget s f i) ∧ RegsKept s t [(a, 0, 32)]) ∧
    (∀ a w r i, regAt a = some (r, i) →
      ∃ t, exec (.w1cWrite a w) s = .next t ∧ t = { s with regs := t.regs } ∧
        (∀ f ∈ r.flds, fget t f i =
          if f.acc = .w1c then fget s f i &&& (2 ^ f.width - 1 - getBits w f.lo f.width) else fget s f i) ∧
        RegsKept s t [(a, 0, 32)]) ∧
    (∀ r (w : Word), r ≤ 13 →
      ∃ t, exec (.capRdCntWrite r w) s = .next t ∧ FieldSet s t F.capRdCnt r
        (if (w.toNat + 2 ^ 32 - fget s F.capRdCnt r) % 2 ^ 32 ≤ (fget s F.capWrCnt r + 2 ^ 32 - fget s F.capRdCnt r) % 2 ^ 32 then w.toNat
         else fget s F.capRdCnt r)) ∧
    (∀ p w, p < 64 → absentTx s p = false →
      ∃ t, exec (.trainEnWrite p w) s = .next t ∧ fget t F.dpdStatusTrainEn p = getBits w 22 1 ∧
        RegsKept s t [F.dpdStatusTrainEn.bits p] ∧
        t = { s with regs := t.regs, cal := { s.cal with
          trainRise := if fget s F.dpdStatusTrainEn p = 0 ∧ getBits w 22 1 = 1 then tset false s.cal.trainRise p true
            else s.cal.trainRise } }) ∧
    (∀ p w, absentTx s p = true → exec (.trainEnWrite p w) s = .next s) ∧
    (∀ c k w, c < 16 → k < 8 → (if k < 4 then fget s F.dmaStatusState c = 1 else fget s F.dmaStatusShadowValid c = 1) →
      ∃ t, exec (.dmaSetFieldWrite c k w) s = .next t ∧ FieldSet s t F.dmaStatusShadowBusy c 1) ∧
    (∀ c k w r i, c < 16 → k < 8 → ¬(if k < 4 then fget s F.dmaStatusState c = 1 else fget s F.dmaStatusShadowValid c = 1) →
      regAt (0xA00000 + 0x40 * c + 4 * k) = some (r, i) →
      ∃ t, exec (.dmaSetFieldWrite c k w) s = .next t ∧ t = { s with regs := t.regs } ∧
        (∀ f ∈ r.flds, fget t f i = getBits w f.lo f.width) ∧ RegsKept s t [(0xA00000 + 0x40 * c + 4 * k, 0, 32)])

/-- REG_READ answers the words of its range as they stand and clears RC fields; REG_WRITE checks every pair before it performs any
write; an unaligned address is BAD_ALIGN, an address outside the maps BAD_ADDR with its index, and a refused command changes
nothing. -/
def Obligations.RegisterCommandsCheckTheirWholeRange : Prop :=
  ∀ (s : State) (h : CmdHdr), Canonical s →
    (∀ a n, 1 ≤ n → n ≤ 64 → a % 4 = 0 → firstBad a n 0 = none → Takes s h 0x00C0 (.regRead h a n) →
      Completes s h (.regRead h a n) (readRun a n s).2
        (okReply h 0x00C0 [{ type := 1, value := (readRun a n s).1.flatMap fun w => beBytes 4 w.toNat }])) ∧
    (∀ a r i, regAt a = some (r, i) → a ≠ F.timeNs.base →
      (readRun a 1 s).1 = [regView s a] ∧ (readRun a 1 s).2 = { s with regs := (readRun a 1 s).2.regs } ∧
        (∀ f ∈ r.flds, fget (readRun a 1 s).2 f i = if f.acc = .rc then 0 else fget s f i) ∧
        RegsKept s (readRun a 1 s).2 [(a, 0, 32)]) ∧
    (∀ a n, 1 ≤ n → n ≤ 64 → a % 4 ≠ 0 → Takes s h 0x00C0 (.regRead h a n) →
      Completes s h (.regRead h a n) s (stReply h 0x00C0 stBadAlign 0)) ∧
    (∀ a n k, 1 ≤ n → n ≤ 64 → a % 4 = 0 → k < n → regAt (a + 4 * k) = none → (∀ j, j < k → (regAt (a + 4 * j)).isSome = true) →
      Takes s h 0x00C0 (.regRead h a n) → Completes s h (.regRead h a n) s (stReply h 0x00C0 stBadAddr k)) ∧
    (∀ l, 0 < l.length → l.length ≤ 64 → (∀ p ∈ l, pairStatus s p = none) → Takes s h 0x00C1 (.regWrite h l) →
      ∃ t, exec (.regWrite h l) s = .next t ∧ Answers s t h (.regWrite h l) (okReply h 0x00C1 [])) ∧
    (∀ a w r i, pairStatus s (a, w) = none → regAt a = some (r, i) → ¬(0xA00000 ≤ a ∧ a < 0xA00400) →
      ¬(0x600000 ≤ a ∧ a < 0x600400) → r.base ≠ F.dpdStatusTrainEn.base →
      r.base ∉ [F.fabVfabCfgLoopEn.base, F.p0CfgPanicHi.base, F.refCfg.base, F.paBusCfgSckMhz.base, F.timeCfgSyncSrc.base] →
      Takes s h 0x00C1 (.regWrite h [(a, w)]) →
      ∃ eff, Completes s h (.regWrite h [(a, w)]) eff (okReply h 0x00C1 []) ∧ eff = { s with regs := eff.regs } ∧
        (∀ f ∈ r.flds, fget eff f i = fieldWritten s w f i) ∧ RegsKept s eff [(a, 0, 32)]) ∧
    (∀ l k p st, l.length ≤ 64 → l[k]? = some p → pairStatus s p = some st →
      (∀ j q, j < k → l[j]? = some q → pairStatus s q = none) → Takes s h 0x00C1 (.regWrite h l) →
      Completes s h (.regWrite h l) s (stReply h 0x00C1 st k)) ∧
    (∀ a w, a % 4 ≠ 0 → pairStatus s (a, w) = some stBadAlign) ∧
    (∀ a w, a % 4 = 0 → regAt a = none → pairStatus s (a, w) = some stBadAddr)

/-- Radio settings in force at the reply: idle-gap declarations, the PA bus, the ORX switch lines and TRAIN_EN. A port configuration
takes the lanes down and completes when they are up again; a rank migration is accepted and begins; clearing the health record is
accepted and completes, with STORE_FAIL where its store fails. -/
def Obligations.RadioSettingsAndPortsTakeEffect : Prop :=
  (∀ (s : State) (h : CmdHdr),
    (∀ q t n i, q.op = 0 → q.groups < 16 → q.start = some t → q.slots = some n →
      tagValid (gridMu s (gridOfGroups s q.groups)) { t with symbol := 0 } = true → gapSlots (gridMu s (gridOfGroups s q.groups)) ≤ n →
      q.period.getD 0 ≤ 1024 → (∀ g ∈ unitsOf q.groups 4, (tget [] s.rf.gaps g).length < 4) → freeGapId s q.groups = some i →
      Takes s h 0x0043 (.idleGap h q) →
      Completes s h (.idleGap h q) { s with rf := { s.rf with
          gaps := (unitsOf q.groups 4).foldl (fun m g =>
            tset [] m g (tget [] m g ++ [{ id := i, start := t, anchor := gapAnchor s (gridOfGroups s q.groups) t (q.period.getD 0),
                                           slots := n, period := q.period.getD 0 }])) s.rf.gaps } }
        (okReply h 0x0043 [numTlv 1 i])) ∧
    (∀ q i, q.op = 1 → q.groups < 16 → q.id = some i → i ≤ 3 → Takes s h 0x0043 (.idleGap h q) →
      Completes s h (.idleGap h q) { s with rf := { s.rf with
          gaps := (unitsOf q.groups 4).foldl (fun m g => tset [] m g ((tget [] m g).filter fun d => decide (d.id ≠ i))) s.rf.gaps } }
        (okReply h 0x0043 [])) ∧
    (∀ q, q.op = 2 → q.groups < 16 → Takes s h 0x0043 (.idleGap h q) →
      Completes s h (.idleGap h q) { s with rf := { s.rf with
          gaps := (unitsOf q.groups 4).foldl (fun m g => tset [] m g []) s.rf.gaps } } (okReply h 0x0043 [])) ∧
    (∀ q cs l, q.op = 0 → q.cs = some cs → q.bytes = some l → cs < 8 → 1 ≤ l.length → l.length ≤ 8 → Takes s h 0x004A (.paBus h q) →
      Completes s h (.paBus h q)
        { s with rf := { s.rf with
            paNow := some (s.rf.paNow.getD { cs := cs, bytes := l }),
            paRest := if s.rf.paNow = none then [] else s.rf.paRest ++ [{ cs := cs, bytes := l }] } }
        (okReply h 0x004A [{ type := 1, value := slice q.miso 0 l.length }])) ∧
    (∀ q cs l t o, q.op = 1 → q.cs = some cs → q.bytes = some l → cs < 8 → 1 ≤ l.length → l.length ≤ 8 → q.tag = some t →
      q.offsetNs = some o → tagValid (gridMu s 0) t = true → -10000 ≤ o → o ≤ 10000 → s.rf.timed.length < 32 →
      Takes s h 0x004A (.paBus h q) →
      Completes s h (.paBus h q) { s with rf := { s.rf with
          timed := s.rf.timed ++ [{ xfer := { cs := cs, bytes := l }, tag := t, offsetNs := o,
                                    late := decide (symbolStartFp s 0 t + o * 65536 < uFp s) }] } } (okReply h 0x004A [])) ∧
    (∀ q l, q.op = 2 → q.sequence = some l → l.length ≤ 16 → (∀ x ∈ l, xferOk x = true) → Takes s h 0x004A (.paBus h q) →
      Completes s h (.paBus h q) { s with mram := { s.mram with safe := l } } (okReply h 0x004A [])) ∧
    (∀ q, q.op = 3 → s.mram.safe = [] → Takes s h 0x004A (.paBus h q) → Completes s h (.paBus h q) s (okReply h 0x004A [])) ∧
    (∀ q x l, Canonical s → q.op = 3 → s.mram.safe = x :: l → Takes s h 0x004A (.paBus h q) →
      ∃ t, exec (.paBus h q) s = .next t ∧ Answers s t h (.paBus h q) (okReply h 0x004A []) ∧ fget t F.paBusStatusSafeSent = 1 ∧
        RegsKept s t [F.paBusStatusSafeSent.bits 0] ∧
        TrafficOnly { s with
          regs := t.regs, freeCnt := s.freeCnt + 1,
          rf := { s.rf with timed := [], paNow := some (s.rf.paNow.getD x),
                            paRest := if s.rf.paNow = none then l else s.rf.paRest ++ x :: l } } t) ∧
    (∀ orx lines aux n, Canonical s → orx < 4 → lines ≤ 255 → aux ≤ 3 → n ≤ 10000 →
      (lines / 32 % 2 = 0 → absentTx s (16 * orx + lines % 16) = false) → tget [] s.cap.orxBusy orx = [] →
      Takes s h 0x004B (.orxSwitch h orx (some lines) (some aux) (some n)) →
      ∃ eff, Completes s h (.orxSwitch h orx (some lines) (some aux) (some n)) eff (okReply h 0x004B []) ∧
        fget eff F.orxSwState orx = heldLines s orx lines % 64 + 64 * aux ∧ RegsKept s eff [F.orxSwState.bits orx] ∧
        eff = { s with regs := eff.regs, rf := { s.rf with swSettle := tset 500 s.rf.swSettle orx n } }) ∧
    (∀ orx lines, Canonical s → orx < 4 → lines ≤ 255 →
      (lines / 32 % 2 = 0 → absentTx s (16 * orx + lines % 16) = false) → tget [] s.cap.orxBusy orx = [] →
      Takes s h 0x004B (.orxSwitch h orx (some lines) none none) →
      ∃ eff, Completes s h (.orxSwitch h orx (some lines) none none) eff (okReply h 0x004B []) ∧
        FieldSet s eff F.orxSwState orx (heldLines s orx lines)) ∧
    (∀ orx lines, lines ≤ 255 → heldLines s orx lines =
      if tget 0 s.rf.loopback orx = 3 then lines / 64 * 64 + 16 + lines % 16 else lines) ∧
    (∀ orx n, orx < 4 → n ≤ 10000 → Takes s h 0x004B (.orxSwitch h orx none none (some n)) →
      Completes s h (.orxSwitch h orx none none (some n))
        { s with rf := { s.rf with swSettle := tset 500 s.rf.swSettle orx n } } (okReply h 0x004B [])) ∧
    (∀ paths en, Canonical s → paths < 2 ^ 64 → namesAbsent s paths = false → en ≤ 1 → Takes s h 0x0051 (.dpdTrainEn h paths en) →
      ∃ eff, Completes s h (.dpdTrainEn h paths en) eff (okReply h 0x0051 []) ∧
        eff = { s with regs := eff.regs, cal := { s.cal with trainRise := eff.cal.trainRise } } ∧
        (∀ p ∈ unitsOf paths 64, fget eff F.dpdStatusTrainEn p = en) ∧
        (∀ p, (paths.testBit p = false ∨ en = 0) → tget false eff.cal.trainRise p = tget false s.cal.trainRise p) ∧
        RegsKept s eff ((unitsOf paths 64).map F.dpdStatusTrainEn.bits))) ∧
  (∀ (s : State) (h : CmdHdr), s.ccp.longOps.length < 32 →
    (∀ config fec iface, portConfigOk config fec iface = true → portConfigFits s config = true → s.fh.retrain = none →
      s.fh.linkUp.length = 4 →
      Takes s h 0x0030 (.fhPortConfig h config fec iface) →
      ∃ t, exec (.fhPortConfig h config fec iface) s = .next t ∧
        Answers s t h (.fhPortConfig h config fec iface) (stReply h 0x0030 stAccepted 0) ∧
        (s.ccp.logNew.length ≤ 1020 → ∀ l, l < 4 → laneUp s l = true → Raised t 0x17 [(l : Int)]) ∧
        (∀ e ∈ t.fh.egress, e ∈ s.fh.egress ∧ linkIsUp t e.lane = true) ∧
        (∀ e ∈ t.tm.ptpOut, e ∈ s.tm.ptpOut ∧ linkIsUp t e.lane = true) ∧
        TrafficOnly { withLong s h 0x0030 with
          tm := { s.tm with ptpOut := t.tm.ptpOut },
          fh := { s.fh with
            portConfig := config,
            fec := (if 5 ≤ config then (portPair config s.fh.fec fec).1 else 1,
              if 5 ≤ config then (portPair config s.fh.fec fec).2 else 1),
            iface := portPair config s.fh.iface iface, retrain := some h, linkUp := [false, false, false, false],
            egress := t.fh.egress, counters := t.fh.counters } } t) ∧
    (∀ d rank, Canonical s → rank.or s.mi.spareDue = some d → d ≤ 2 → fget s F.caveStatusMigrating = 0 →
      fget s F.caveStatusSpareUsed = 0 → (fget s F.caveStatusPhysL0 = d ∨ fget s F.caveStatusPhysL1 = d) →
      Takes s h 0x00A2 (.memSpare h 0 rank) →
      ∃ t, exec (.memSpare h 0 rank) s = .next t ∧ Answers s t h (.memSpare h 0 rank) (stReply h 0x00A2 stAccepted 0) ∧
        Raised t 0x53 [(d : Int)] ∧
        ((putRetired s d).2 = true → risingFrom 0 s.mram.copies = true →
          (∀ m b, recordBest s healthOwner = some (m, b) → m.seq + 1 < 2 ^ 64) → retiredRank t = d) ∧
        ((putRetired s d).2 = false → Raised t 0x44 [0xFFFF] ∧ fget t F.calStoreStatusStoreFail = 1) ∧
        fget t F.miStatusRetired = d ∧ fget t F.caveStatusMigrating = 1 ∧ fget t F.miStatusMigSrc = d ∧
        fget t F.migPos = (if fget s F.caveStatusPhysL0 = d then 0 else if s.cave.mapOrder = 2 then 1 else 2 ^ 26) ∧
        RegsKept s t [F.miStatusRetired.bits 0, F.caveStatusMigrating.bits 0, F.miStatusMigSrc.bits 0, F.migPos.bits 0,
          F.calStoreStatusStoreFail.bits 0] ∧
        TrafficOnly { withLong s h 0x00A2 with
          regs := t.regs, freeCnt := s.freeCnt + 1, mram := { s.mram with copies := (putRetired s d).1.mram.copies },
            mi := { s.mi with spareDue := none, spareCmd := some h },
          cave := { s.cave with migPoison := [], migBytes := [], migEnd := false } } t) ∧
    (s.md.mode = .standby → ∀ rank, Takes s h 0x00A2 (.memSpare h 1 rank) →
      ∃ t, exec (.memSpare h 1 rank) s = .next t ∧ Answers s t h (.memSpare h 1 rank) (stReply h 0x00A2 stAccepted 0) ∧
        Completed t { hdr := h, opcode := 0x00A2 } (if (putRetired s 3).2 then stOk else stStoreFail) 0 [] ∧
        TrafficOnly { s with
          regs := t.regs, freeCnt := s.freeCnt + 1,
          mram := { s.mram with copies := (putRetired s 3).1.mram.copies },
          ccp := { s.ccp with longOps := List.erase (s.ccp.longOps ++ [⟨h, 0x00A2⟩]) ⟨h, 0x00A2⟩ } } t ∧
        RegsKept s t [F.calStoreStatusStoreFail.bits 0] ∧ ((putRetired s 3).2 = true → t.regs = s.regs) ∧
        ((putRetired s 3).2 = false → Raised t 0x44 [0xFFFF] ∧ (Canonical s → fget t F.calStoreStatusStoreFail = 1))))

/-- Power input: VIN above the threshold starts the sequence from reset values; a power-on reset, a brown-out, an overvoltage and a
rail fault lose everything but MRAM, the uptime count and the latches of the always-on domain; after three restarts the rails stay
off. -/
def Obligations.PowerEventsKeepWhatTheAlwaysOnDomainHolds : Prop :=
  ∀ (s : State),
    (s.pw.power = .off →
      ∃ t, exec .vinStart s = .next t ∧
        t = { coldReset s with pw := { power := .starting, powerOn := s.pw.powerOn, brownout := s.pw.brownout,
                                       railRestarts := s.pw.railRestarts, startTick := s.tm.now } }) ∧
    (s.pw.power ≠ .off → exec .vinStart s = .next s) ∧
    (∃ t, exec .powerOnReset s = .next t ∧ t.pw = {} ∧ t.tm = { now := s.tm.now } ∧ t.mram.failed = [] ∧
      t = { coldReset s with pw := t.pw, tm := t.tm, mi := {}, mram := { (coldReset s).mram with failed := [] } }) ∧
    (∀ vin, railsOn s = true →
      ∃ t, exec (.brownOut vin) s = .next t ∧
        t = { coldReset s with pw := { powerOn := false, brownout := some (0, 0, vin), railRestarts := 0 } }) ∧
    (∀ vin, railsOn s = true →
      ∃ t, exec (.overvoltage vin) s = .next t ∧
        t = { coldReset s with pw := { powerOn := false, brownout := some (1, 0, vin), railRestarts := 0 } }) ∧
    (∀ rail vin, railsOn s = true → railOn s rail = true →
      ∃ t, exec (.railFault rail vin) s = .next t ∧
        t = { coldReset s with pw := { power := if 3 ≤ s.pw.railRestarts then .held else .off, powerOn := false,
                                       brownout := some (2, rail, vin),
                                       railRestarts := if 3 ≤ s.pw.railRestarts then s.pw.railRestarts
                                         else s.pw.railRestarts + 1 } }) ∧
    (∀ rail vin, (railsOn s = false ∨ railOn s rail = false) → exec (.railFault rail vin) s = .next s) ∧
    (coldReset s).regs = [] ∧ (coldReset s).caveMem = [] ∧ (coldReset s).sramMem = [] ∧ (coldReset s).md = {} ∧
    (coldReset s).ccp = {} ∧ (coldReset s).fh = {} ∧ (coldReset s).fab = {} ∧ (coldReset s).ws = {} ∧ (coldReset s).rf = {} ∧
    (coldReset s).cal = {} ∧ (coldReset s).mram.slotA = s.mram.slotA ∧ (coldReset s).mram.slotB = s.mram.slotB ∧
    (coldReset s).mram.copies = s.mram.copies ∧ (coldReset s).mram.startup = s.mram.startup ∧
    (coldReset s).tm.uptime = s.tm.uptime ∧ (coldReset s).mi = { passStart := s.tm.uptime } ∧
    (coldReset s).part = s.part ∧ (coldReset s).pending = s.pending

/-- The cold start, step by step: ranks, fill, firmware, clocks and STANDBY, or RECOVERY. -/
def Obligations.ColdStartReachesStandbyOrRecovery : Prop :=
  ∀ (s : State), Canonical s → booting s = true →
    (∀ failed : List Nat, s.pw.trained = false → 0 ∉ failed → 1 ∉ failed → retiredRank s ≠ 0 → retiredRank s ≠ 1 →
      ∃ t, exec (.dramTrainingDone failed) s = .next t ∧ fget t F.miStatusRetired = retiredRank s % 4 ∧
        RegsKept s t [F.miStatusRetired.bits 0] ∧
        t = { s with regs := t.regs, pw := { s.pw with trained := true }, cave := { s.cave with mapOrder := recordOrder s } }) ∧
    (∀ (failed : List Nat) (d : Nat), s.pw.trained = false → d < 2 → (d ∈ failed ∨ retiredRank s = d) → 1 - d ∉ failed → 2 ∉ failed →
      retiredRank s ≠ 1 - d → retiredRank s ≠ 2 →
      ∃ t, exec (.dramTrainingDone failed) s = .next t ∧ fget t F.miStatusRetired = retiredRank s % 4 ∧
        fget t (if d = 0 then F.caveStatusPhysL0 else F.caveStatusPhysL1) = 2 ∧ fget t F.caveStatusSpareUsed = 1 ∧
        RegsKept s t [F.miStatusRetired.bits 0, (if d = 0 then F.caveStatusPhysL0 else F.caveStatusPhysL1).bits 0,
          F.caveStatusSpareUsed.bits 0] ∧
        t = { s with
          regs := t.regs, cave := { s.cave with mapOrder := recordOrder s },
          pw := { s.pw with trained := true, rankReplaced := d,
                            bootFaults := s.pw.bootFaults ||| (if retiredRank s = d then 16 else 2) } }) ∧
    (∀ failed : List Nat, s.pw.trained = false → (0 ∈ failed ∧ 1 ∈ failed) →
      ∃ t, exec (.dramTrainingDone failed) s = .next t ∧ t.md.mode = .recovery ∧ t.pw.caveFail = true ∧ t.ccp.ready = true ∧
        t.caveMem = s.caveMem ∧ t.fh = { s.fh with linkUp := [false, false, false, false], egress := [] }) ∧
    (s.pw.trained = true → s.pw.filled = false →
      ∃ t, exec .memoryFillDone s = .next t ∧ (∀ a, memGet t.caveMem a = 0 ∧ memGet t.sramMem a = 0) ∧
        t = { s with pw := { s.pw with filled := true }, caveMem := [], sramMem := [], cavePoison := [], sramPoison := [] }) ∧
    (s.pw.filled = true → s.ccp.ready = false → bestSlot s ([0, 1].filter fun k => !s.mram.failed.contains k) = none →
      ∃ t, exec .firmwareSelect s = .next t ∧
        t = { s with
          md := { s.md with mode := .recovery }, mram := { s.mram with running := 2 },
          ccp := { s.ccp with ready := true, restarting := false, inBand := [], outBand := [], replyBand := [] },
          fh := { s.fh with linkUp := [false, false, false, false], egress := [] }, tm := { s.tm with ptpOut := [] } }) ∧
    (∀ k q o, s.pw.filled = true → s.ccp.ready = false → s.ccp.watchdog = false →
      bestSlot s ([0, 1].filter fun k => !s.mram.failed.contains k) = some k → s.mram.startup = some (q, o) →
      ∃ t, exec .firmwareSelect s = .next t ∧ t.mram = { s.mram with running := k } ∧ t.ccp.ready = true ∧ t.ccp.restarting = false ∧
        t.md = s.md ∧ t.fh.portConfig = q.portConfig ∧ t.th = { s.th with pinLimit := q.pinLimit } ∧
        t.pw.power = .starting ∧
        (s.pw.refValid = true → t.pw.refPll = true ∧ t.pw.cpll = true) ∧ t.caveMem = s.caveMem ∧ t.sramMem = s.sramMem ∧
        t.fab = s.fab ∧ t.ws = s.ws ∧ t.tm = s.tm ∧ t.dma = s.dma) ∧
    (∀ khz, railsOn s = true → rateListed khz = true → s.ccp.ready = false →
      ∃ t, exec (.referenceValid khz) s = .next t ∧ t = { s with pw := { s.pw with refValid := true, refRateKhz := khz } }) ∧
    (∀ khz, railsOn s = true → rateListed khz = true → s.ccp.ready = true → s.pw.refPll = false →
      ∃ t, exec (.referenceValid khz) s = .next t ∧ t.pw.refPll = true ∧ t.pw.cpll = true ∧ t.pw.refValid = true ∧
        t.pw.refRateKhz = khz ∧ t.md = s.md ∧ t.mram = s.mram ∧ t.caveMem = s.caveMem ∧ t.fh = s.fh ∧ t.fab = s.fab) ∧
    (coxRuns s = true → s.pw.filled = true → s.pw.refPll = false →
      ∃ t, exec .startupComplete s = .next t ∧ t = { s with pw := { s.pw with noReference := true } }) ∧
    (coxRuns s = true → s.pw.filled = true → s.pw.refPll = true → groupsMoving s = false → s.pw.tripPending = false →
      s.pw.brownout = none →
      ∃ t, exec .startupComplete s = .next t ∧
        Raised t 0x02 [((s.pw.bootFaults + (if s.pw.noReference then 1 else 0) : Nat) : Int),
          ((s.pw.rankReplaced + 4 * fget s F.caveStatusSpareUsed : Nat) : Int)] ∧
        fget t F.fabStatusVfabMv = 700 ∧ fget t F.fabVfabCfgLoopEn = 1 ∧
        RegsKept s t [F.fabStatusVfabMv.bits 0, F.fabVfabCfgLoopEn.bits 0] ∧
        EventsOnly { s with
          regs := t.regs, md := { s.md with mode := .standby }, pw := { s.pw with power := .on, powerOn := false, railRestarts := 0 },
          mram := { s.mram with failed := [] }, ccp := { s.ccp with episodes := t.ccp.episodes },
          fab := { s.fab with above := 0 } } t)

/-- DORMANT: the entry powers the Eight down and puts the ranks in self-refresh; a wake source starts the wake, or is kept during
the entry, and the Cave runs on its reset configuration; the wake ends in STANDBY with its event and the configuration of the entry. -/
def Obligations.DormantEntryAndWake : Prop :=
  ∀ (s : State), Canonical s →
    (∀ h, s.md.mode = .standby → s.pw.entering = some h → coxRuns s = true → s.pw.wakeHeld = none →
      ∃ t, exec .dormantEntry s = .next t ∧ t.md.mode = .dormant ∧ t.md.prep = none ∧ t.pw.power = .dormant ∧ t.pw.entering = none ∧
        t.pw.dormantCmd = some h ∧ t.ccp.ready = false ∧ t.tm.ppsOut = false ∧ t.fab.seats = [] ∧ t.fab.loads = [] ∧
        fget t F.fabStatusVfabMv = 0 ∧ fget t F.caveStatusSelfRefresh = 1 ∧ t.cave.reqs = [] ∧ t.sramMem = s.sramMem ∧
        t.mram.slotA = s.mram.slotA ∧ t.mram.slotB = s.mram.slotB) ∧
    (∀ h, s.pw.power ≠ .dormant → s.pw.entering = some h → s.pw.wakeHeld = none →
      ∃ t, exec .wakePin s = .next t ∧ t = { s with pw := { s.pw with wakeHeld := some .pin } }) ∧
    (s.pw.power = .dormant → s.pw.wakeHeld = none → wakeWaits s = false →
      ∃ t, exec .wakePin s = .next t ∧ t.pw.power = .waking ∧ t.pw.wake = some .pin ∧ fget t F.caveStatusSelfRefresh = 0 ∧
        fget t F.miStatusPaused = 0 ∧ t.cave.trrs = [] ∧ t.cave.tracks = [] ∧ t.rf.restore = [] ∧ t.md = s.md ∧ t.fab = s.fab ∧
        t.mram = s.mram ∧ t.caveMem = s.caveMem ∧ t.sramMem = s.sramMem ∧ t.tm = s.tm ∧ fget t F.fabStatusVfabMv = 700 ∧
        (s.md.mode = .dormant → s.pw.caveCfg = [] →
          t.pw.caveCfg = caveCfgRegs.map (rget s) ∧ ∀ a ∈ caveCfgRegs, rget t a = regReset a)) ∧
    (s.pw.power = .dormant → s.pw.wakeHeld = none → wakeWaits s = false → fget s F.wakeSec ≠ 0 →
      s.tm.counter / 65536 / 1000000000 % 2 ^ 32 = fget s F.wakeSec →
      ∃ t, exec .wakeSecMatch s = .next t ∧ t.pw.power = .waking ∧ t.pw.wake = some .counter ∧
        fget t F.caveStatusSelfRefresh = 0 ∧ t.md = s.md ∧ t.fab = s.fab ∧ t.mram = s.mram ∧ t.caveMem = s.caveMem ∧
        t.sramMem = s.sramMem ∧ t.tm = s.tm) ∧
    (∀ h, s.pw.power ≠ .dormant → enteringDormant s = some h → s.pw.wakeHeld = none → fget s F.wakeSec ≠ 0 →
      s.tm.counter / 65536 / 1000000000 % 2 ^ 32 = fget s F.wakeSec →
      ∃ t, exec .wakeSecMatch s = .next t ∧ t = { s with pw := { s.pw with wakeHeld := some .counter } }) ∧
    (fget s F.wakeSec = 0 → exec .wakeSecMatch s = .next s) ∧
    (∀ h, s.pw.power = .waking → groupsMoving s = false → s.md.mode = .dormant → s.pw.dormantCmd = some h →
      s.pw.tripPending = false → s.pw.abandoned = none → s.mram.trial = none → s.mram.trialBad = none →
      ∃ t, exec .wakeComplete s = .next t ∧ t.md.mode = .standby ∧ t.pw.power = .on ∧ t.pw.dormantCmd = none ∧ t.pw.wake = none ∧
        t.ccp.ready = true ∧ t.ws.ageingDue = true ∧ t.dma = [] ∧ fget t F.fabStatusVfabMv = 700 ∧ fget t F.wakeSec = 0 ∧
        Raised t 0x03 [((match s.pw.wake with | some w => wakeCode w | none => 0 : Nat) : Int), (if s.pw.short then 1 else 0),
          (h.tag : Int)] ∧
        fget t F.fabVfabCfgLoopEn = 1 ∧
        t.fab = { s.fab with above := 0 } ∧ t.pw.caveCfg = [] ∧
        (∀ v, s.pw.caveCfg = caveCfgRegs.map v → ∀ a ∈ caveCfgRegs, rget t a = v a) ∧
        t.caveMem = s.caveMem ∧ t.sramMem = s.sramMem ∧ t.fh = s.fh ∧ t.rf = s.rf)

/-- The watchdog restarts Cox and Cox resumes; a sensor trip shuts the device down, and the restart begins when it has cooled. What is
raised while the shutdown halts Cox waits (log entry 178). -/
def Obligations.WatchdogAndThermalShutdown : Prop :=
  ∀ (s : State), Canonical s →
    (s.pw.power = .on → s.ccp.ready = true → s.md.mode ≠ .boot → s.md.mode ≠ .recovery → s.mram.trial = none →
      ∃ t, exec .watchdogExpiry s = .next t ∧
        t = { s with ccp := { s.ccp with
          watchdog := true, restarting := true, inBand := [], mspi := [], doneBand := [], doneMspi := [], replyBand := [],
          replyMspi := [], due := s.ccp.due.filter Due.long } }) ∧
    (s.ccp.restarting = true → s.ccp.ready = true → s.md.mode = .standby → s.md.prep = none → s.mram.trial = none →
      s.mram.trialBad = none → s.cal.run = none →
      ∃ t, exec .coxResume s = .next t ∧ t.ccp.restarting = false ∧ t.ccp.watchdog = false ∧
        t.ccp.restartCnt = s.ccp.restartCnt + (if s.ccp.watchdog then 1 else 0) ∧ t.md = s.md ∧ t.fab = s.fab ∧ t.fh = s.fh ∧
        t.rf = s.rf ∧ t.caveMem = s.caveMem ∧ t.sramMem = s.sramMem ∧ t.mram = s.mram ∧
        (timeState s ≠ tsUnset → timeState t = tsHoldover)) ∧
    (∀ k, k < 24 → s.th.broken.testBit k = false → s.pw.power = .on → s.md.mode ≠ .shutdown → s.pw.entering = none →
      ∃ t, exec (.comparatorTrip k) s = .next t ∧ t.md.mode = .shutdown ∧ t.md.prep = none ∧ t.pw.power = .shutdown ∧
        t.pw.before = s.md.mode ∧ t.pw.shutdownCnt = satN 32 (s.pw.shutdownCnt + 1) ∧ t.pw.tripSensor = k ∧ t.pw.tripPending = true ∧
        t.pw.coolRounds = 0 ∧ t.ccp.ready = false ∧ t.ccp.restarting = false ∧ t.tm.ppsOut = false ∧
        t.fh.linkUp = [false, false, false, false] ∧ t.fh.egress = [] ∧ t.fab.seats = [] ∧ t.fab.loads = [] ∧
        fget t F.caveStatusSelfRefresh = 1 ∧ t.sramMem = s.sramMem ∧ t.th = s.th) ∧
    (∀ k, k < 24 → s.th.broken.testBit k = false → s.pw.power = .shutdown →
      ∃ t, exec (.comparatorTrip k) s = .next t ∧
        t = { s with pw := { s.pw with
          tripSensor := if s.pw.tripNow = s.tm.now then min s.pw.tripSensor k else s.pw.tripSensor } }) ∧
    (100 ≤ s.pw.coolRounds → s.pw.power = .shutdown → s.md.mode = .shutdown →
      ∃ t, exec .thermalRestart s = .next t ∧ t.pw.power = .waking ∧ t.ccp.ready = decide (s.mram.running < 2) ∧
        fget t F.caveStatusSelfRefresh = 0 ∧ t.md = s.md ∧ t.fab = s.fab ∧ t.mram = s.mram ∧ t.caveMem = s.caveMem ∧
        t.sramMem = s.sramMem) ∧
    (s.pw.coolRounds < 100 → exec .thermalRestart s = .next s) ∧
    (∀ code unit vals, s.pw.power = .shutdown → s.md.mode ≠ .service →
      raise s code unit vals = { s with ccp := { s.ccp with
        heldEvents := s.ccp.heldEvents ++ [(unit, { code := code, uptime := s.tm.uptime, vals := vals })] } })

/-- PTP as a slave: Announce selects the better master, Sync and Delay_Resp form the exchange, stray and two-step messages are
discarded and counted, and the loss of the selected master is HOLDOVER. -/
def Obligations.PtpSlaveFollowsTheSelectedMaster : Prop :=
  ∀ (s : State) (m : PtpMsg), Canonical s →
    (syncSrc s = srcPtp → m.port = 0 → ptpStray s m = false →
      ∃ t, exec (.announce m) s = .next t ∧
        t.tm.masters = { source := m.source, dataset := m.dataset } :: s.tm.masters.filter (fun x => !decide (x.source = m.source)) ∧
        t.tm.selected = bestMaster t.tm.masters ∧
        (t.tm.selected = s.tm.selected → t = { s with tm := { s.tm with masters := t.tm.masters } }) ∧
        (t.tm.selected ≠ s.tm.selected → t = { s with tm := { s.tm with
          masters := t.tm.masters, selected := t.tm.selected, recent := [], syncDelta := none, delayDelta := none, t3 := none } })) ∧
    (syncSrc s = srcPtp → m.port = 0 → ptpStray s m = true →
      (∃ t, exec (.announce m) s = .next t ∧ FieldSet s t F.ptpDropCnt 0 (satN 32 (fget s F.ptpDropCnt + 1))) ∧
      (∃ t, exec (.syncMessage m) s = .next t ∧ FieldSet s t F.ptpDropCnt 0 (satN 32 (fget s F.ptpDropCnt + 1))) ∧
      (∃ t, exec (.delayResp m) s = .next t ∧ FieldSet s t F.ptpDropCnt 0 (satN 32 (fget s F.ptpDropCnt + 1)))) ∧
    (slaveOn s m.port = true → m.twoStep = true →
      ∃ t, exec (.syncMessage m) s = .next t ∧ FieldSet s t F.ptpDropCnt 0 (satN 32 (fget s F.ptpDropCnt + 1))) ∧
    (slaveOn s m.port = true → m.twoStep = false → ptpStray s m = false → (recentSyncs s).length < 128 → fromMaster s m = true →
      s.tm.delayDelta = none →
      ∃ t, exec (.syncMessage m) s = .next t ∧ t = { s with tm := { s.tm with
        syncTimes := s.tm.now :: recentSyncs s,
        syncDelta := some (m.rxStamp - (((ptpCorr s m.port).2 * 65536 : Nat) : Int) - m.stamp - m.correction) } }) ∧
    (∀ d r, slaveOn s m.port = true → m.twoStep = false → ptpStray s m = false → (recentSyncs s).length < 128 →
      fromMaster s m = true → s.tm.delayDelta = some r → servoRuns s = true →
      d = m.rxStamp - (((ptpCorr s m.port).2 * 65536 : Nat) : Int) - m.stamp - m.correction →
      outlier s.tm.recent (d - (d + r) / 2 - asym s) = false →
      ∃ t, exec (.syncMessage m) s = .next t ∧ t.tm.offset = d - (d + r) / 2 - asym s ∧ t.tm.pathDelay = (d + r) / 2 ∧
        t.tm.lastMeas = some s.tm.now ∧ t.md = s.md ∧ t.fh = s.fh ∧ t.fab = s.fab ∧ t.rf = s.rf ∧ t.caveMem = s.caveMem) ∧
    (∀ d r, slaveOn s m.port = true → m.twoStep = false → ptpStray s m = false → (recentSyncs s).length < 128 →
      fromMaster s m = true → s.tm.delayDelta = some r →
      d = m.rxStamp - (((ptpCorr s m.port).2 * 65536 : Nat) : Int) - m.stamp - m.correction →
      outlier s.tm.recent (d - (d + r) / 2 - asym s) = true →
      ∃ t, exec (.syncMessage m) s = .next t ∧ t = { s with tm := { s.tm with
        syncTimes := s.tm.now :: recentSyncs s, syncDelta := some d,
        recent := ((d - (d + r) / 2 - asym s) :: s.tm.recent).take 8 } }) ∧
    (slaveOn s m.port = true → ptpStray s m = false → m.toDevice = false → exec (.delayResp m) s = .next s) ∧
    (∀ t3, slaveOn s m.port = true → ptpStray s m = false → fromMaster s m = true → m.toDevice = true → s.tm.t3 = some t3 →
      ∃ t, exec (.delayResp m) s = .next t ∧ t = { s with tm := { s.tm with
        delayLog := some (clampI (-7) 0 m.logInterval), delayDelta := some (m.stamp - t3 - m.correction), t3 := none } }) ∧
    (∀ k, s.tm.selected = some k → syncSrc s = srcPtp →
      ∃ t, exec .selectedMasterLost s = .next t ∧ t.tm.masters = s.tm.masters.filter (fun x => !decide (x.source = k)) ∧
        t.tm.selected = bestMaster t.tm.masters ∧ t.tm.selected ≠ some k ∧
        (timeState s ≠ tsUnset → timeState t = tsHoldover) ∧ t.tm.y = s.tm.y ∧ t.tm.counter = s.tm.counter ∧ t.md = s.md)

/-- The PTP messages that the device sends carry its corrected transmit stamp, the seconds and nanoseconds apart from the remainder;
one that finds the egress buffer full is not sent (log entry 147). 1PPS, the measurement timeout and the uptime count. -/
def Obligations.PtpStampsPpsTimeoutAndUptime : Prop :=
  (∀ (s : State) (x : Int), ptpRuns s = true →
    (coxRuns s = true → (syncSrc s = srcChainUp ∨ (syncSrc s = srcPtp ∧ s.tm.selected.isSome = true)) →
      ∃ t, exec (.delayReqSend x) s = .next t ∧ t = { s with tm := { s.tm with
        t3 := some (x + (((ptpCorr s (slavePort s)).1 * 65536 : Nat) : Int)), ptpOut := t.tm.ptpOut } } ∧
        (ptpFits s .delayReq = false → t.tm.ptpOut = s.tm.ptpOut) ∧
        (ptpFits s .delayReq = true → ∃ p, t.tm.ptpOut = s.tm.ptpOut ++ [p] ∧ p.kind = .delayReq ∧ p.port = slavePort s ∧ p.domain = fget s F.timeCfgDomain ∧
          0 ≤ p.correction ∧ p.correction < 65536 ∧
          p.stamp * 65536 + p.correction = x + (((ptpCorr s (slavePort s)).1 * 65536 : Nat) : Int))) ∧
    (fget s F.timeCfgChainServe = 1 →
      ∃ t, exec (.chainSyncSend x) s = .next t ∧ t = { s with tm := { s.tm with ptpOut := t.tm.ptpOut } } ∧
        (ptpFits s .sync = false → t.tm.ptpOut = s.tm.ptpOut) ∧
        (ptpFits s .sync = true → ∃ p, t.tm.ptpOut = s.tm.ptpOut ++ [p] ∧ p.kind = .sync ∧ p.port = masterPort s ∧ p.domain = fget s F.timeCfgDomain ∧
          0 ≤ p.correction ∧ p.correction < 65536 ∧
          p.stamp * 65536 + p.correction = x + (((ptpCorr s (masterPort s)).1 * 65536 : Nat) : Int))) ∧
    (∀ m : PtpMsg, fget s F.timeCfgChainServe = 1 → m.port = masterPort s → ptpStray s m = false →
      ∃ t, exec (.delayReq m) s = .next t ∧ t = { s with tm := { s.tm with ptpOut := t.tm.ptpOut } } ∧
        (ptpFits s .delayResp = false → t.tm.ptpOut = s.tm.ptpOut) ∧
        (ptpFits s .delayResp = true →
          ∃ p, t.tm.ptpOut = s.tm.ptpOut ++ [p] ∧ p.kind = .delayResp ∧ p.port = m.port ∧ p.domain = fget s F.timeCfgDomain ∧
            p.requester = m.source ∧
            p.stamp * 65536 + m.correction - p.correction = m.rxStamp - (((ptpCorr s m.port).2 * 65536 : Nat) : Int)))) ∧
  (∀ (s : State), Canonical s →
    (timeState s = tsLocked → (∀ n, s.tm.lastMeas = some n → n + fget s F.timeCfgSyncTimeout * (tickRate / 10) ≤ s.tm.now) →
      ∃ t, exec .syncTimeout s = .next t ∧ timeState t = tsHoldover ∧ fget t F.holdoverCnt = satN 32 (fget s F.holdoverCnt + 1) ∧
        fget t F.timeEventHoldover = 1 ∧
        RegsKept s t [F.timeStatusState.bits 0, F.holdoverCnt.bits 0, F.timeEventHoldover.bits 0] ∧
        EventsOnly { s with regs := t.regs, tm := { s.tm with runIn := 0, runOut := 0, cand := 0, runThresh := 0 } } t) ∧
    (∀ n, s.tm.lastMeas = some n → s.tm.now < n + fget s F.timeCfgSyncTimeout * (tickRate / 10) → exec .syncTimeout s = .next s) ∧
    (s.pw.power = .on → s.md.mode ≠ .dormant → syncSrc s ≠ srcPps →
      ∃ t, exec .ppsInEdge s = .next t ∧
        t = { s with regs := t.regs, tm := { s.tm with ppsLast := some s.tm.now, ppsSeen := some s.tm.now } } ∧
        fget t F.ppsInNs =
          (((s.tm.counter : Int) - ((fget s F.auxTimeCfgPpsInDelay * 65536 : Nat) : Int)) / 65536 % 1000000000).toNat ∧
        RegsKept s t [F.ppsInNs.bits 0]) ∧
    (∀ p, s.pw.power = .on → s.md.mode ≠ .dormant → syncSrc s = srcPps → s.tm.ppsLast = some p →
      s.tm.now < p + tickRate / 10 * 9 →
      ∃ t, exec .ppsInEdge s = .next t ∧ t = { s with regs := t.regs, tm := { s.tm with ppsSeen := some s.tm.now } } ∧
        fget t F.ptpDropCnt = satN 32 (fget s F.ptpDropCnt + 1) ∧ RegsKept s t [F.ppsInNs.bits 0, F.ptpDropCnt.bits 0]) ∧
    (∀ sec op p, s.pw.power = .on → s.md.mode = .standby → syncSrc s = srcPps → s.tm.ppsLast = some p → stepping s = false →
      p + tickRate / 10 * 9 ≤ s.tm.now → s.tm.setAtPps = some (sec, op) → fget s F.auxTimeCfgPpsInDelay = 0 →
      ∃ t, exec .ppsInEdge s = .next t ∧ t.tm.counter = sec % 2 ^ 48 * 1000000000 * 65536 ∧ t.tm.setAtPps = none ∧
        t.tm.ppsLast = some s.tm.now ∧ fget t F.timeEventStepApplied = 1 ∧ Completed t op stOk 0 [] ∧ t.md = s.md ∧ t.rf = s.rf ∧
        t.caveMem = s.caveMem) ∧
    (∀ p, syncSrc s = srcPps → s.tm.ppsLast = some p → p + tickRate / 10 * 11 ≤ s.tm.now → inEpisode s 0x63 0 = false →
      ∃ t, exec .ppsLost s = .next t ∧ Raised t 0x63 [] ∧ fget t F.timeEventPpsLost = 1 ∧ RegsKept s t [F.timeEventPpsLost.bits 0] ∧
        EventsOnly { s with regs := t.regs, ccp := { s.ccp with episodes := (0x63, 0) :: s.ccp.episodes } } t) ∧
    (∀ p, syncSrc s = srcPps → s.tm.ppsLast = some p → inEpisode s 0x63 0 = true → exec .ppsLost s = .next s) ∧
    (ppsPulses s = true → ppsInstant s = true →
      ∃ t, exec .ppsOutPulse s = .next t ∧ t = { s with tm := { s.tm with
        ppsOut := true, ppsFall := s.tm.now + fget s F.ppsCfgWidthMs * (tickRate / 1000) } }) ∧
    ((ppsPulses s = false ∨ ppsInstant s = false) → exec .ppsOutPulse s = .next s) ∧
    (¬(s.pw.power = .off ∧ s.pw.powerOn = true) →
      ∃ t, exec .uptimeTick s = .next t ∧ t = { s with tm := { s.tm with uptime := (s.tm.uptime + 1) % 2 ^ 48 } }))

/-- Faults of paths and of a crew mute their unit at once, set EVENT_FAULT and wait for Cox to record them; the loss of an LO
group's lock does so for the group and its paths. -/
def Obligations.HardwareFaultsMuteTheirUnitsAtOnce : Prop :=
  ∀ (s : State), Canonical s →
    (∀ p f, p < 64 → absentTx s p = false → f ∈ [0x01, 0x02, 0x03, 0x04] →
      ∃ t, exec (.txPathFault p f) s = .next t ∧ Faulted s t [uTx p]) ∧
    (∀ p f, p < 64 → f ∈ [0x03, 0x05, 0x06] → ∃ t, exec (.rxPathFault p f) s = .next t ∧ Faulted s t [uRx p]) ∧
    (∀ p f, absentTx s p = true → exec (.txPathFault p f) s = .next s) ∧
    (∀ l, (quietTx s l) = { s with cal := { s.cal with txOut := (quietTx s l).cal.txOut, dac := (quietTx s l).cal.dac } } ∧
      (risingFrom 0 s.cal.txOut = true → ∀ p, tget [] (quietTx s l).cal.txOut p =
        if p ∈ l then (tget [] s.cal.txOut p).map (fun _ => { re := 0, im := 0 }) else tget [] s.cal.txOut p)) ∧
    (∀ c f, c < 32 → (f = 0x09 ∨ f = 0x0A) → muted s (uCrew c) = false → s.cal.run = none →
      ∃ t, exec (.crewFault c f) s = .next t ∧ muted t (uCrew c) = true ∧ fget t F.fabEventFault = 1 ∧
        (∃ e ∈ t.fab.faults, e.1 = uCrew c) ∧ (∀ u, u ≠ uCrew c → muted t u = muted s u) ∧
        (∀ x ∈ t.fab.items, x.id < s.fab.nextItem → x.crew ≠ c) ∧ t.md = s.md ∧ t.rf = s.rf ∧
        (waitsDown s = false → t.caveMem = s.caveMem ∧ t.fh = s.fh)) ∧
    (∀ c, c < 32 → unitWorks s (uCrew c) = true → handshakePending s c = true → s.cal.run = none →
      ∃ t, exec (.handshakeTimeout c) s = .next t ∧ muted t (uCrew c) = true ∧ fget t F.fabEventFault = 1 ∧
        (∃ e ∈ t.fab.faults, e.1 = uCrew c) ∧ (∀ u, u ≠ uCrew c → muted t u = muted s u) ∧
        (∀ x ∈ t.fab.items, x.id < s.fab.nextItem → x.crew ≠ c) ∧ t.md = s.md ∧ t.rf = s.rf ∧
        (waitsDown s = false → t.caveMem = s.caveMem ∧ t.fh = s.fh)) ∧
    (∀ g, g < 4 → rsmLocked ≤ rsm s g →
      ∃ t, exec (.lossOfLock g) s = .next t ∧ rsm t g = rsmSettle ∧ fget t F.rsmStatusLock g = 0 ∧ muted t (uLo g) = true ∧
        (∀ i, i < 16 → (absentTx s (16 * g + i) = false → muted t (uTx (16 * g + i)) = true) ∧ muted t (uRx (16 * g + i)) = true) ∧
        (∀ u, u ≠ uLo g → (∀ i, i < 16 → u ≠ uTx (16 * g + i) ∧ u ≠ uRx (16 * g + i)) → muted t u = muted s u) ∧
        fget t F.fabEventFault = 1 ∧
        RegsKept s t [F.fabEventFault.bits 0, F.rsmStatusState.bits g, F.rsmStatusLock.bits g] ∧
        t = { s with regs := t.regs, rf := { s.rf with rejoin := tset false s.rf.rejoin g true },
                     fab := { s.fab with mutes := t.fab.mutes, faults := t.fab.faults },
                     cal := (quietTx s (groupTx g ++ (groupTx g).filter fun p => !absentTx s p)).cal }) ∧
    (∀ g, g < 4 → rsm s g = rsmSettle → s.rf.ops = [] →
      ∃ t, exec (.settleTimeout g) s = .next t ∧ rsm t g = rsmOff ∧ muted t (uLo g) = true ∧
        (∀ i, i < 16 → (absentTx s (16 * g + i) = false → muted t (uTx (16 * g + i)) = true) ∧ muted t (uRx (16 * g + i)) = true) ∧
        RegsKept s t [F.fabEventFault.bits 0, F.rsmStatusState.bits g, F.rsmStatusLock.bits g] ∧
        t = { s with regs := t.regs, rf := { s.rf with calFromOff := t.rf.calFromOff, calDue := t.rf.calDue, rejoin := t.rf.rejoin },
                     fab := { s.fab with mutes := t.fab.mutes, faults := t.fab.faults },
                     cal := (quietTx s (groupTx g ++ (groupTx g).filter fun p => !absentTx s p)).cal })

/-- The synthesizers: lock ends a settle and the tune that waits for it, a calibration ends in SETTLE, or in OFF where it started or
found no band, and a declared idle gap starts the calibration that waits. Loss of a PLL holds TX muted and, for the reference PLL,
is HOLDOVER; relock gives the span out of lock; timed PA-bus transactions run one at a time in the order of their instants. -/
def Obligations.SynthesizersPllsAndPaTransactions : Prop :=
  (∀ (s : State) (g : Nat), Canonical s → g < 4 →
    (rsm s g = rsmSettle → s.rf.ops = [] →
      ∃ t, exec (.lockDetected g) s = .next t ∧ rsm t g = rsmLocked ∧ fget t F.rsmStatusLock g = 1 ∧ t = { s with regs := t.regs } ∧
        RegsKept s t [F.rsmStatusState.bits g, F.rsmStatusLock.bits g]) ∧
    (∀ op, rsm s g = rsmSettle → op.opcode = 0x0040 → s.rf.ops = [(op, 2 ^ g, 0, 0)] →
      ∃ t, exec (.lockDetected g) s = .next t ∧ rsm t g = rsmLocked ∧ Completed t op stOk 0 [] ∧
        EventsOnly { s with regs := t.regs, rf := { s.rf with ops := [] },
                            ccp := { s.ccp with longOps := s.ccp.longOps.erase op } } t) ∧
    (∀ op, rsm s g = rsmSettle → op.opcode = 0x0040 → s.rf.ops = [(op, 2 ^ g, 0, 0)] →
      ∃ t, exec (.settleTimeout g) s = .next t ∧ rsm t g = rsmOff ∧ t.rf.ops = [] ∧ Completed t op stUnitFault g []) ∧
    (rsm s g = rsmCal → s.rf.ops = [] → tget false s.rf.calFromOff g = false →
      ∃ t, exec (.synthCalEnd g true) s = .next t ∧ rsm t g = rsmSettle ∧ fget t F.rsmStatusCalPend g = 0 ∧
        fget t F.synthCalCnt g = satN 32 (fget s F.synthCalCnt g + 1) ∧ inEpisode t 0x30 g = false ∧
        RegsKept s t [F.rsmStatusState.bits g, F.rsmStatusLock.bits g, F.rsmStatusCalPend.bits g, F.synthCalCnt.bits g] ∧
        t = { s with regs := t.regs, ccp := { s.ccp with episodes := t.ccp.episodes },
                     rf := { s.rf with calTemp := tset none s.rf.calTemp g (some (groupTemp s g)),
                                       rejoin := tset false s.rf.rejoin g true } }) ∧
    (rsm s g = rsmCal → s.rf.ops = [] → tget false s.rf.calFromOff g = true →
      ∃ t, exec (.synthCalEnd g true) s = .next t ∧ rsm t g = rsmOff ∧ fget t F.rsmStatusCalPend g = 0 ∧
        t.rf.calTemp = tset none s.rf.calTemp g (some (groupTemp s g)) ∧ t.fab = s.fab ∧ t.md = s.md) ∧
    (rsm s g = rsmCal → s.rf.ops = [] →
      ∃ t, exec (.synthCalEnd g false) s = .next t ∧ rsm t g = rsmOff ∧ muted t (uLo g) = true ∧
        (∃ e ∈ t.fab.faults, e.1 = uLo g) ∧ fget t F.fabEventFault = 1 ∧ t.rf.calTemp = s.rf.calTemp ∧ t.md = s.md ∧ t.fh = s.fh) ∧
    (∀ q, q ∈ tget [] s.rf.gaps g → (∀ r ∈ tget [] s.rf.gaps g, r.id = q.id → r = q) → q.period ≠ 0 →
      gapStarts q (slotStart s (halfOfGroup s g) (strokeSlot s (halfOfGroup s g))) = true → coxRuns s = true →
      activeMode s.md.mode = true → s.md.mode ≠ .service → rsm s g ≠ rsmOff → rsm s g ≠ rsmCal → fget s F.rsmStatusCalPend g = 1 →
      gapSlots (gridMu s (halfOfGroup s g)) ≤ q.slots →
      ∃ t, exec (.idleGapStart g q.id) s = .next t ∧ rsm t g = rsmCal ∧ fget t F.rsmStatusLock g = 0 ∧
        RegsKept s t [F.rsmStatusState.bits g, F.rsmStatusLock.bits g] ∧
        t = { s with regs := t.regs, rf := { s.rf with
          calDue := tset false s.rf.calDue g false, calFromOff := tset false s.rf.calFromOff g false,
          rejoin := tset false s.rf.rejoin g true } }) ∧
    (∀ q, q ∈ tget [] s.rf.gaps g → (∀ r ∈ tget [] s.rf.gaps g, r.id = q.id → r = q) → q.period = 0 →
      gapStarts q (slotStart s (halfOfGroup s g) (strokeSlot s (halfOfGroup s g))) = true → fget s F.rsmStatusCalPend g = 0 →
      ∃ t, exec (.idleGapStart g q.id) s = .next t ∧ t = { s with rf := { s.rf with
        gaps := tset [] s.rf.gaps g ((tget [] s.rf.gaps g).filter fun r => decide (r.id ≠ q.id)) } })) ∧
  (∀ (s : State), Canonical s →
    (s.pw.cpll = true →
      ∃ t, exec (.pllUnlock true) s = .next t ∧ t.pw = { s.pw with
          cpll := false, pllFrom := some (s.pw.pllFrom.getD (uFp s)), txHeld := (true, true) } ∧ t.md = s.md ∧ t.tm = s.tm ∧ t.rf = s.rf ∧
        t.cal = (quietTx s (List.range 64)).cal ∧
        inEpisode t 0x006 1 = true) ∧
    (s.pw.refPll = true →
      ∃ t, exec (.pllUnlock false) s = .next t ∧ t.pw = { s.pw with
          refPll := false, pllFrom := some (s.pw.pllFrom.getD (uFp s)), txHeld := (true, true) } ∧ t.md = s.md ∧ t.rf = s.rf ∧
            t.cal = (quietTx s (List.range 64)).cal ∧
        (timeState s ≠ tsUnset → timeState t = tsHoldover) ∧ t.tm.counter = s.tm.counter ∧ t.tm.y = s.tm.y) ∧
    (∀ a, s.pw.pllFrom = some a →
      ∃ t, exec .pllRelock s = .next t ∧ inEpisode t 0x006 0 = false ∧ inEpisode t 0x006 1 = false ∧
        t = { s with ccp := { s.ccp with episodes := t.ccp.episodes },
                     pw := { s.pw with refPll := true, cpll := true, pllFrom := none, pllSpan := some (a, uFp s) } }) ∧
    (∀ q, s.rf.paNow = none → paNext s = some q → paInstant s q ≤ uFp s + 50 * 65536 →
      ∃ t, exec .paTimedTransaction s = .next t ∧ t.rf = { s.rf with timed := s.rf.timed.erase q, paNow := some q.xfer, paRest := [] } ∧
        (q.late = true ∨ paInstant s q + 1000 * 65536 < uFp s → fget t F.paLateCnt = satN 32 (fget s F.paLateCnt + 1)) ∧
        (q.late = false → uFp s ≤ paInstant s q + 1000 * 65536 → t.regs = s.regs) ∧ RegsKept s t [F.paLateCnt.bits 0] ∧
        t = { s with regs := t.regs, rf := t.rf }) ∧
    (∀ x, s.rf.paNow = some x → exec .paTimedTransaction s = .next s) ∧
    (∀ x y l, s.rf.paNow = some x → s.rf.paRest = y :: l →
      ∃ t, exec .paTransactionDone s = .next t ∧ t = { s with rf := { s.rf with paNow := some y, paRest := l } }) ∧
    (∀ x, s.rf.paNow = some x → s.rf.paRest = [] → s.rf.timed = [] →
      ∃ t, exec .paTransactionDone s = .next t ∧ t = { s with rf := { s.rf with
        paNow := none, paMode3 := decide (fget s F.paBusCfgMode3 = 1), paSck := fget s F.paBusCfgSckMhz } }))

/-- A frame that fails a check is discarded and counted once; a PTP message that the device does not support is counted; PAUSE is
counted and has no other effect. -/
def Obligations.DiscardedFramesAreCounted : Prop :=
  ∀ (s : State) (f : RxFrame), Canonical s →
    (frameArrives s f = false → exec (.frameDiscard f) s = .next s) ∧
    (∀ k, frameArrives s f = true → f.etherType ≠ 0x88F7 → frameFault s f = some k → k ≠ cRxOvf →
      ∃ t, exec (.frameDiscard f) s = .next t ∧ t = { s with fh := { s.fh with counters := t.fh.counters } } ∧
        fhCounter t f.port k = satN 32 (fhCounter s f.port k + 1) ∧
        ∀ p j, 64 * p + j ≠ 64 * f.port + k → fhCounter t p j = fhCounter s p j) ∧
    (frameArrives s f = true → f.etherType ≠ 0x88F7 → frameFault s f = none →
      typeAccepted s f.port (effHdr f.eff).typ (isChainRecord (f.eff.drop 16)) = false →
      ∃ t, exec (.frameDiscard f) s = .next t ∧
        t = { s with fh := { s.fh with counters := t.fh.counters, lastRx := t.fh.lastRx, lastSrc := t.fh.lastSrc },
                     ccp := { s.ccp with episodes := t.ccp.episodes } } ∧
        fhCounter t f.port cBadHdr = satN 32 (fhCounter s f.port cBadHdr + 1)) ∧
    (frameArrives s f = true → f.etherType ≠ 0x88F7 → frameFault s f = some cRxOvf →
      (typeAccepted s f.port (effHdr f.eff).typ (isChainRecord (f.eff.drop 16)) = true → exec (.frameDiscard f) s = .next s) ∧
      (typeAccepted s f.port (effHdr f.eff).typ (isChainRecord (f.eff.drop 16)) = false →
        ∃ t, exec (.frameDiscard f) s = .next t ∧ t = { s with fh := { s.fh with counters := t.fh.counters } } ∧
          fhCounter t f.port cRxOvf = satN 32 (fhCounter s f.port cRxOvf + 1))) ∧
    (frameArrives s f = true → f.etherType = 0x88F7 → f.fecOk = true → f.fcsOk = true → 1 < f.vlanTags →
      ∃ t, exec (.frameDiscard f) s = .next t ∧ t = { s with fh := { s.fh with counters := t.fh.counters } } ∧
        fhCounter t f.port cNotEff = satN 32 (fhCounter s f.port cNotEff + 1)) ∧
    (frameArrives s f = true → f.etherType = 0x88F7 → f.fecOk = true → f.fcsOk = true → f.vlanTags ≤ 1 → ptpUnsupported s f = true →
      ∃ t, exec (.frameDiscard f) s = .next t ∧ FieldSet s t F.ptpDropCnt 0 (satN 32 (fget s F.ptpDropCnt + 1))) ∧
    (∀ port, portUp s port = true →
      ∃ t, exec (.macControlFrame port) s = .next t ∧ t = { s with fh := { s.fh with counters := t.fh.counters } } ∧
        fhCounter t port cPause = satN 32 (fhCounter s port cPause + 1) ∧
        ∀ p j, 64 * p + j ≠ 64 * port + cPause → fhCounter t p j = fhCounter s p j) ∧
    (∀ port, portUp s port = false → exec (.macControlFrame port) s = .next s)

/-- The sequence check: a packet of a new stream, and one in order, are accepted; a number received already is a duplicate; one that
lies further back than the history is stale, and the eighth in a row starts the stream anew. -/
def Obligations.SequenceNumbersAdmitAPacketOnce : Prop :=
  ∀ (s : State) (f : RxFrame), frameArrives s f = true → frameFault s f = none → headerOk s f.port f.eff = true →
    ¬((effHdr f.eff).poison = true ∧ (effHdr f.eff).typ ≠ 4) →
    (s.fh.streams.find? (streamIs f.port (effHdr f.eff).typ (effHdr f.eff).half (effHdr f.eff).module) = none →
      ∃ u, receive s f = (u, true) ∧ (∀ e ∈ u.sramPoison, e ∈ s.sramPoison) ∧
        u = { s with
          fh := { s.fh with
            lastRx := u.fh.lastRx, lastSrc := u.fh.lastSrc, streams := u.fh.streams, egress := u.fh.egress, counters := u.fh.counters },
          ccp := { s.ccp with episodes := u.ccp.episodes }, sramPoison := u.sramPoison } ∧
        (u.fh.streams.find? (streamIs f.port (effHdr f.eff).typ (effHdr f.eff).half (effHdr f.eff).module)).map
          (fun q => (q.expected, q.history)) = some (((effHdr f.eff).seq + 1) % 65536, [some true])) ∧
    (∀ q, s.fh.streams.find? (streamIs f.port (effHdr f.eff).typ (effHdr f.eff).half (effHdr f.eff).module) = some q →
      (q.expected = (effHdr f.eff).seq → q.expected < 65536 → q.history.length < 64 →
        ∃ u, receive s f = (u, true) ∧ (∀ e ∈ u.sramPoison, e ∈ s.sramPoison) ∧
          u = { s with
            fh := { s.fh with
              lastRx := u.fh.lastRx, lastSrc := u.fh.lastSrc, streams := u.fh.streams, egress := u.fh.egress, counters := u.fh.counters },
            ccp := { s.ccp with episodes := u.ccp.episodes }, sramPoison := u.sramPoison } ∧
          (u.fh.streams.find? (streamIs f.port (effHdr f.eff).typ (effHdr f.eff).half (effHdr f.eff).module)).map
            (fun q => (q.expected, q.history)) = some (((effHdr f.eff).seq + 1) % 65536, some true :: q.history)) ∧
      (∀ back, 1 ≤ back → back ≤ 64 → ((effHdr f.eff).seq + 65536 - q.expected) % 65536 = 65536 - back →
        q.history[back - 1]? = some (some true) →
        ∃ u, receive s f = (u, false) ∧
          u = { s with fh := { s.fh with lastRx := u.fh.lastRx, lastSrc := u.fh.lastSrc, counters := u.fh.counters },
                       ccp := { s.ccp with episodes := u.ccp.episodes } } ∧
          fhCounter u f.port cDup = satN 32 (fhCounter s f.port cDup + 1)) ∧
      (∀ back, 64 < back → back ≤ 32768 → ((effHdr f.eff).seq + 65536 - q.expected) % 65536 = 65536 - back → q.staleRun < 7 →
        ∃ u, receive s f = (u, false) ∧ fhCounter u f.port cStale = satN 32 (fhCounter s f.port cStale + 1) ∧
          (u.fh.streams.find? (streamIs f.port (effHdr f.eff).typ (effHdr f.eff).half (effHdr f.eff).module)).map
            (fun q => (q.expected, q.history, q.staleRun)) = some (q.expected, q.history, q.staleRun + 1)) ∧
      (∀ back, 64 < back → back ≤ 32768 → ((effHdr f.eff).seq + 65536 - q.expected) % 65536 = 65536 - back → q.staleRun = 7 →
        (receive s f).2 = false ∧
          (receive s f).1.fh.streams.find? (streamIs f.port (effHdr f.eff).typ (effHdr f.eff).half (effHdr f.eff).module) = none)) ∧
    (∀ u, receive s f = (u, false) →
      ((effHdr f.eff).typ = 1 → exec (.uDataDownlink f) s = .next u) ∧ ((effHdr f.eff).typ = 3 → exec (.cSection f) s = .next u) ∧
      ((effHdr f.eff).typ = 4 → exec (.partialSum f) s = .next u) ∧ ((effHdr f.eff).typ = 5 → exec (.ccpPacket f) s = .next u) ∧
      ((effHdr f.eff).typ = 6 → exec (.chainStatusRecord f) s = .next u) ∧
      ((effHdr f.eff).typ = 7 → exec (.weightUpdate f) s = .next u))

/-- A C-section packet that passes reception, arrives in its window and holds one section: the section is accepted, with its lookup and
the estimation of its pilot, or ignored and counted by the rule it breaks; a bad pilot is counted and leaves its section in force; one
that is early or late, or comes while the mode takes none, is dropped and counted. -/
def Obligations.CSectionsAreAcceptedOrCounted : Prop :=
  (∀ v : State, Canonical v →
    EventsOnly { v with regs := (judgePanic v).regs, cave := { v.cave with panic := (judgePanic v).cave.panic } } (judgePanic v) ∧
      RegsKept v (judgePanic v) [F.p0PanicCnt.bits 0, F.caveEventPanic.bits 0]) ∧
  ∀ (s u v : State) (f : RxFrame) (x : Section), (effHdr f.eff).typ = 3 → receive s f = (u, true) →
    x = sectionOf (effHdr f.eff) (slice (payload f) 0 24) →
    v = { u with fh := { u.fh with waits := u.fh.waits ++
      [{ half := (effHdr f.eff).half, tag := (effHdr f.eff).tag, typ := 3, bytes := f.eff.length, ext := none }] } } →
    (∀ k, check8 u (effHdr f.eff) = some (some k) →
      ∃ t, exec (.cSection f) s = .next t ∧ t = { u with fh := { u.fh with counters := t.fh.counters } } ∧
        fhCounter t f.port k = satN 32 (fhCounter u f.port k + 1)) ∧
    (check8 u (effHdr f.eff) = some none →
      ∃ t, exec (.cSection f) s = .next t ∧ t = { u with md := { u.md with dropCnt := satN 32 (u.md.dropCnt + 1) } }) ∧
    (∀ k, check8 u (effHdr f.eff) = none → window u (effHdr f.eff) = some k →
      ∃ t, exec (.cSection f) s = .next t ∧ fhCounter t f.port k = satN 32 (fhCounter u f.port k + 1) ∧
        EventsOnly { u with fh := { u.fh with counters := t.fh.counters } } t) ∧
    (check8 u (effHdr f.eff) = none → window u (effHdr f.eff) = none → (effHdr f.eff).sectionCnt = 1 → (effHdr f.eff).payloadLen = 24 →
      (∀ k, judgeSection u x = some k →
        ∃ t, exec (.cSection f) s = .next t ∧ t = judgePanic { v with fh := { v.fh with counters := t.fh.counters } } ∧
          fhCounter t f.port k = satN 32 (fhCounter u f.port k + 1)) ∧
      (judgeSection u x = none → x.sector = true → (x.dir = .dl ∨ x.pilot = none) →
        ∃ t, exec (.cSection f) s = .next t ∧ t = judgePanic { v with fh := { v.fh with
          nextOrder := u.fh.nextOrder + 1, sections := u.fh.sections ++ [{ x with order := u.fh.nextOrder }] } }) ∧
      (judgeSection u x = none → x.sector = false → lookedUp u x.user x.half x.slot = false → (x.dir = .dl ∨ x.pilot = none) →
        ∃ t, exec (.cSection f) s = .next t ∧
          t = judgePanic { v with
            fh := { v.fh with nextOrder := u.fh.nextOrder + 1, sections := u.fh.sections ++ [{ x with order := u.fh.nextOrder }] },
            cave := { u.cave with nextReq := u.cave.nextReq + 1 },
            ws := { u.ws with reads := u.ws.reads ++
              [{ user := x.user, half := x.half, slot := x.slot, est := none, deadline := lookupDeadline u x,
                 entered := u.cave.nextReq }] } }) ∧
      (∀ p w, judgeSection u x = none → x.dir = .ul → x.pilot = some p →
        w = issueLookup
          { v with fh := { v.fh with
              nextOrder := u.fh.nextOrder + 1, sections := u.fh.sections ++ [{ x with order := u.fh.nextOrder }] } }
          { x with order := u.fh.nextOrder } →
        w = { v with
          fh := { v.fh with
              nextOrder := u.fh.nextOrder + 1, sections := u.fh.sections ++ [{ x with order := u.fh.nextOrder }] },
          ws := { u.ws with reads := w.ws.reads }, cave := { u.cave with nextReq := w.cave.nextReq } } ∧
        (x.sector = true → w.ws.reads = u.ws.reads) ∧
        (x.user ≠ sectorTag → p.bad x.symStart x.symCnt = false →
          exec (.cSection f) s = .next (judgePanic { w with fab := { u.fab with
            nextItem := u.fab.nextItem + 1,
            est := u.fab.est ++ [{
              id := u.fab.nextItem, user := x.user, half := x.half, slot := x.slot, sectionId := x.id, pilot := p,
              prbStart := x.prbStart, prbCnt := x.prbCnt, rx := [], symsLeft := p.nsym, lookup := none,
              heard := uptimeAt u x.half (slotNear u x.half x.slot) }] } })) ∧
        (x.user = sectorTag → p.bad x.symStart x.symCnt = false → exec (.cSection f) s = .next (judgePanic w)) ∧
        (p.bad x.symStart x.symCnt = true →
          ∃ t, exec (.cSection f) s = .next t ∧ t = judgePanic { w with fh := { w.fh with counters := t.fh.counters } } ∧
            fhCounter t f.port cPilotBad = satN 32 (fhCounter u f.port cPilotBad + 1))))

/-- Downlink user data that passes its checks takes its place for its symbol, PRB by PRB, where an accepted section covers it; what
no section covers is counted. -/
def Obligations.DownlinkDataTakesItsPlace : Prop :=
  ∀ (s u v : State) (f : RxFrame) (x : UdSection) (ext : Option Nat), (effHdr f.eff).typ = 1 → receive s f = (u, true) →
    check8 u (effHdr f.eff) = none → window u (effHdr f.eff) = none → (effHdr f.eff).sectionCnt = 1 →
    udSections (prbBytes (rxMant (effHdr f.eff))) 1 (payload f) = some [x] →
    (waitFor u f = none →
      ∃ t, exec (.uDataDownlink f) s = .next t ∧ t = { u with fh := { u.fh with counters := t.fh.counters } } ∧
        fhCounter t f.port cExtFull = satN 32 (fhCounter u f.port cExtFull + 1)) ∧
    (waitFor u f = some (v, ext) →
      v = { u with
        fh := { u.fh with waits := u.fh.waits ++
          [{ half := (effHdr f.eff).half, tag := (effHdr f.eff).tag, typ := 1, bytes := f.eff.length, ext := ext }] },
        cave := { u.cave with nextReq := v.cave.nextReq, reqs := v.cave.reqs } } ∧
      (waiting u 1 + f.eff.length ≤ 1048576 → ext = none ∧ v.cave = u.cave) ∧
      (1048576 < waiting u 1 + f.eff.length → ∃ k, k < 29127 ∧ ext = some (0x50000000 + 9216 * k) ∧
        ∀ w ∈ u.fh.waits, w.ext ≠ ext) ∧
      (x.prbCnt = 0 →
        ∃ t, exec (.uDataDownlink f) s = .next t ∧ t = { v with fh := { v.fh with counters := t.fh.counters } } ∧
          fhCounter t f.port cZeroPrb = satN 32 (fhCounter v f.port cZeroPrb + 1)) ∧
      (x.prbCnt ≠ 0 → (∀ y ∈ u.fh.sections, ¬(y.dir = .dl ∧ y.half = (effHdr f.eff).half ∧ y.id = x.id ∧
          sameSlot y.slot (effHdr f.eff).tag = true)) →
        ∃ t, exec (.uDataDownlink f) s = .next t ∧ t = { v with fh := { v.fh with counters := t.fh.counters } } ∧
          fhCounter t f.port cNoSection = satN 32 (fhCounter v f.port cNoSection + 1)) ∧
      (∀ y, x.prbCnt ≠ 0 → u.fh.sections.find? (fun y => decide (y.dir = .dl ∧ y.half = (effHdr f.eff).half ∧ y.id = x.id) &&
          sameSlot y.slot (effHdr f.eff).tag) = some y →
        y.symStart ≤ (effHdr f.eff).tag.symbol → (effHdr f.eff).tag.symbol < y.symStart + y.symCnt →
        y.prbStart ≤ x.prbStart → x.prbStart + x.prbCnt ≤ y.prbStart + y.prbCnt →
        ∃ t, exec (.uDataDownlink f) s = .next t ∧ t = { v with fh := { v.fh with dlData := t.fh.dlData } } ∧
          (∀ i, i < x.prbCnt → ∃ d ∈ t.fh.dlData, d.half = (effHdr f.eff).half ∧ d.tag = (effHdr f.eff).tag ∧ d.unit = y.beam ∧
            d.prb = x.prbStart + i ∧ d.id = y.id ∧ d.ext = ext ∧
            d.vals = cplxOf (decodePrb (nth [] x.blocks i) (rxMant (effHdr f.eff)))) ∧
          (∀ d ∈ u.fh.dlData, (∀ i, i < x.prbCnt → samePrb (effHdr f.eff).half (effHdr f.eff).tag y.id (x.prbStart + i) d = false) →
            d ∈ t.fh.dlData)))

/-- Partial sums from downstream: each PRB is kept with its status bits until its symbol's sum; one that comes after its deadline,
and a keepalive, are counted; one of a sum that is complete has no effect (log entry 146); a poisoned one is counted, reported and kept as zero. A finished uplink symbol leaves once on the
upstream-facing port, or is counted where that port is down; a module that waits for partial sums sends it when they are complete or
when the deadline of R118 has passed. -/
def Obligations.PartialSumsAndUplinkSymbolsLeaveOnce : Prop :=
  (∀ (s u : State) (f : RxFrame), (effHdr f.eff).typ = 4 → receive s f = (u, true) →
    (∀ k, check8 u (effHdr f.eff) = some (some k) →
      ∃ t, exec (.partialSum f) s = .next t ∧ t = { u with fh := { u.fh with counters := t.fh.counters } } ∧
        fhCounter t f.port k = satN 32 (fhCounter u f.port k + 1)) ∧
    check8 u (effHdr f.eff) ≠ some none ∧
    (check8 u (effHdr f.eff) = none →
    (accClosed u (effHdr f.eff).half (effHdr f.eff).tag = true →
      ∃ t, exec (.partialSum f) s = .next t ∧ t = { u with fh := { u.fh with counters := t.fh.counters } } ∧
        fhCounter t f.port cPsLate = satN 32 (fhCounter u f.port cPsLate + 1)) ∧
    (accClosed u (effHdr f.eff).half (effHdr f.eff).tag = false → (effHdr f.eff).sectionCnt = 0 →
      ∃ t, exec (.partialSum f) s = .next t ∧ t = { u with fh := { u.fh with counters := t.fh.counters } } ∧
        fhCounter t f.port cKeepalive = satN 32 (fhCounter u f.port cKeepalive + 1)) ∧
    (accClosed u (effHdr f.eff).half (effHdr f.eff).tag = false → (effHdr f.eff).sectionCnt ≠ 0 →
      udSections (prbBytes (rxMant (effHdr f.eff))) (effHdr f.eff).sectionCnt (payload f) = none →
      ∃ t, exec (.partialSum f) s = .next t ∧ t = { u with fh := { u.fh with counters := t.fh.counters } } ∧
        fhCounter t f.port cBadLen = satN 32 (fhCounter u f.port cBadLen + 1)) ∧
    (∀ l, accClosed u (effHdr f.eff).half (effHdr f.eff).tag = false → (effHdr f.eff).sectionCnt ≠ 0 →
      udSections (prbBytes (rxMant (effHdr f.eff))) (effHdr f.eff).sectionCnt (payload f) = some l →
      accOf u (effHdr f.eff).half (effHdr f.eff).tag = none → waitFor u f = none →
      ∃ t, exec (.partialSum f) s = .next t ∧ t = { u with fh := { u.fh with counters := t.fh.counters } } ∧
        fhCounter t f.port cExtFull = satN 32 (fhCounter u f.port cExtFull + 1)) ∧
    (∀ x, accClosed u (effHdr f.eff).half (effHdr f.eff).tag = false → (effHdr f.eff).sectionCnt = 1 →
      udSections (prbBytes (rxMant (effHdr f.eff))) 1 (payload f) = some [x] →
      accDone u (effHdr f.eff).half (effHdr f.eff).tag = true →
      (x.prbCnt ≠ 0 → exec (.partialSum f) s = .next u) ∧
      (x.prbCnt = 0 →
        ∃ t, exec (.partialSum f) s = .next t ∧ t = { u with fh := { u.fh with counters := t.fh.counters } } ∧
          fhCounter t f.port cZeroPrb = satN 32 (fhCounter u f.port cZeroPrb + 1))) ∧
    (∀ v x ext, accClosed u (effHdr f.eff).half (effHdr f.eff).tag = false → (effHdr f.eff).sectionCnt = 1 →
      udSections (prbBytes (rxMant (effHdr f.eff))) 1 (payload f) = some [x] →
      accDone u (effHdr f.eff).half (effHdr f.eff).tag = false →
      (if (accOf u (effHdr f.eff).half (effHdr f.eff).tag).isSome then some (u, none) else waitFor u f) = some (v, ext) →
      ∃ t, exec (.partialSum f) s = .next t ∧
        EventsOnly { v with fh := { v.fh with partials := t.fh.partials, counters := t.fh.counters } } t ∧
        fhCounter t f.port cRxPoison =
          (if (effHdr f.eff).poison then satN 32 (fhCounter u f.port cRxPoison + 1) else fhCounter u f.port cRxPoison) ∧
        (∀ i, i < x.prbCnt → ∃ d ∈ t.fh.partials, d.half = (effHdr f.eff).half ∧ d.tag = (effHdr f.eff).tag ∧ d.id = x.id ∧
          d.prb = x.prbStart + i ∧ d.vals = cplxOf (decodePrb (nth [] x.blocks i) (rxMant (effHdr f.eff))) ∧
          d.miss = x.flags.testBit 7 ∧ d.poison = x.flags.testBit 6 ∧ d.lateWeight = x.flags.testBit 5 ∧
          d.mismatch = x.flags.testBit 4 ∧ d.bad = (effHdr f.eff).poison ∧
          d.lateBit = (effHdr f.eff).late ∧ d.ext = ext) ∧
        (∀ d ∈ u.fh.partials, d.tag ≠ (effHdr f.eff).tag → d ∈ t.fh.partials)))) ∧
  (∀ (s : State) (half : Nat) (tag : TimeTag), Canonical s →
    (planeStopped s = true ∨ symbolReady s half tag = false ∨ accPending s half tag = true →
      exec (.uplinkSend half tag) s = .next s) ∧
    (planeStopped s = false → symbolReady s half tag = true → accPending s half tag = false →
      ∃ t l, exec (.uplinkSend half tag) s = .next t ∧
        t = { s with
          regs := t.regs, sramPoison := t.sramPoison,
          fh := { s.fh with counters := t.fh.counters, txSeq := t.fh.txSeq, egress := s.fh.egress ++ l, partials := t.fh.partials,
                            waits := t.fh.waits, accs := t.fh.accs },
          fab := { s.fab with ulOut := t.fab.ulOut, symbols := t.fab.symbols } } ∧
        RegsKept s t [F.poisonReadCnt.bits 0] ∧ (∀ e ∈ t.sramPoison, e ∈ s.sramPoison) ∧
        symbolReady t half tag = false ∧ (∀ d ∈ t.fab.ulOut, ¬(d.half = half ∧ d.tag = tag)) ∧
        (∀ d ∈ s.fab.ulOut, ¬(d.half = half ∧ d.tag = tag) → d ∈ t.fab.ulOut) ∧
        (∀ d ∈ t.fh.partials, ¬(d.half = half ∧ d.tag = tag)) ∧ (∀ w ∈ t.fh.waits, w ∈ s.fh.waits) ∧
        (∀ e ∈ l, e.port = upPort s ∧ ∃ h p, e.bytes = effHdrBytes h ++ p ∧ h.typ = (if isMember s then 4 else 2) ∧ h.half = half ∧
          h.tag = tag ∧ h.module = chainPos s ∧ h.late = lateSymbol s half tag ∧ h.payloadLen = p.length) ∧
        (portUp s (upPort s) = false → l = []) ∧ (waitsDown s = false → t.fh.accs = s.fh.accs) ∧
        (waitsDown s = true → accDone t half tag = true)) ∧
    (∀ a, planeStopped s = false → waitsDown s = true → accOf s half tag = some a → a.closed = false → a.deadline ≤ uFp s →
      ∃ t, exec (.accumulationDeadline half tag) s = .next t ∧
        EventsOnly { s with
          regs := t.regs, sramPoison := t.sramPoison,
          fh := { s.fh with accs := t.fh.accs, counters := t.fh.counters, sections := t.fh.sections },
          fab := { s.fab with items := t.fab.items, seats := t.fab.seats, ulOut := t.fab.ulOut, formed := t.fab.formed } } t ∧
        accOf t half tag = some { a with closed := true, late := !partialsComplete s half tag } ∧ accPending t half tag = false ∧
        (∀ i ∈ s.fab.items, ¬(i.kind = 6 ∧ i.half = half ∧ i.tag = tag) →
          (∀ j ∈ accItems s half tag, j.id ≠ i.id) → i ∈ t.fab.items) ∧
        fhCounter t (downPort s) cPsLate =
          (if partialsComplete s half tag then fhCounter s (downPort s) cPsLate else satN 32 (fhCounter s (downPort s) cPsLate + 1))) ∧
    (planeStopped s = true ∨ waitsDown s = false ∨ (∀ a, accOf s half tag = some a → a.closed = true ∨ uFp s < a.deadline) →
      exec (.accumulationDeadline half tag) s = .next s))

/-- Weight updates for this module are held for a stroke, at most 512 between two strokes; the tag of the sector beam and an unknown
operation are counted. That stroke applies the invalidations that wait, then the marks of ageing, the estimates and the updates. -/
def Obligations.WeightUpdatesAreHeldForAStroke : Prop :=
  (∀ (s u : State) (f : RxFrame) (b : List Byte), (effHdr f.eff).typ = 7 → receive s f = (u, true) →
    b = slice (payload f) 0 264 →
    (forThis u (effHdr f.eff) = false ∨ modesA u.md.mode = false → exec (.weightUpdate f) s = .next u) ∧
    (forThis u (effHdr f.eff) = true → modesA u.md.mode = true → (effHdr f.eff).sectionCnt = 1 → (effHdr f.eff).payloadLen = 264 →
      (512 ≤ u.fh.updatesNow →
        ∃ t, exec (.weightUpdate f) s = .next t ∧ t = { u with fh := { u.fh with counters := t.fh.counters } } ∧
          fhCounter t f.port cWuDrop = satN 32 (fhCounter u f.port cWuDrop + 1)) ∧
      (u.fh.updatesNow < 512 → beNat (slice b 0 4) = sectorTag ∨ 1 < (nth (0 : Byte) b 4).toNat →
        ∃ t, exec (.weightUpdate f) s = .next t ∧
          t = { u with fh := { u.fh with counters := t.fh.counters, updatesNow := u.fh.updatesNow + 1 } } ∧
          fhCounter t f.port cRange = satN 32 (fhCounter u f.port cRange + 1)) ∧
      (u.fh.updatesNow < 512 → beNat (slice b 0 4) ≠ sectorTag → (nth (0 : Byte) b 4).toNat ≤ 1 →
        ∃ t w, exec (.weightUpdate f) s = .next t ∧
          t = { u with fh := { u.fh with updatesNow := u.fh.updatesNow + 1, updates := u.fh.updates ++ [w] } } ∧
          w.tag = beNat (slice b 0 4) ∧ w.quality = signed 16 (beNat (slice b 6 2)) ∧
          ((nth (0 : Byte) b 4).toNat = 0 → w.write = true ∧ w.coef.length = 64) ∧
          ((nth (0 : Byte) b 4).toNat = 1 → w.write = false ∧ w.coef = [])))) ∧
  (∀ (s u : State), Canonical s → StrokeRuns s 0 → s.cal.run = none → s.ccp.due = [] →
    u = (s.fh.updates.filter fun x => decide (x.wait = 0)).foldl applyUpdate
      ((sortBy wbBefore (s.ws.writeBacks.filter fun w => decide (w.wait = 0))).foldl applyEstimate
        ((s.ws.marks.filter fun p => decide (p.2.2 = 0)).foldl (fun s p => applyMark s p.1 p.2.1)
          ((sortBy invBefore (s.ws.invals.filter fun p => decide (p.2.2 = 0))).foldl (fun s p => applyInval s p.1 p.2.1) s))) →
    ∃ t, exec (.stroke 0) s = .next t ∧ (∀ b w, entryNow t b w = entryNow u b w ∧ headerPoisoned t b w = headerPoisoned u b w) ∧
      t.cave.writes = u.cave.writes ∧ t.cave.waiting = u.cave.waiting ∧ t.ws.counters = u.ws.counters ∧
      t.ws.invals = (s.ws.invals.filter fun p => decide (p.2.2 ≠ 0)).map (fun p => (p.1, p.2.1, p.2.2 - 1)) ∧
      t.ws.marks = (s.ws.marks.filter fun p => decide (p.2.2 ≠ 0)).map (fun p => (p.1, p.2.1, p.2.2 - 1)) ∧
      t.ws.writeBacks = (s.ws.writeBacks.filter fun w => decide (w.wait ≠ 0)).map (fun w => { w with wait := w.wait - 1 }) ∧
      t.fh.updates = (s.fh.updates.filter fun x => decide (x.wait ≠ 0)).map (fun x => { x with wait := x.wait - 1 }) ∧
      t.fh.updatesNow = 0)

/-- CCP packets for this module join Cox's queue, a keepalive is answered, and a short one or one beyond the 16th is dropped and
counted; records of the chain are kept and passed on, and so are replies that come from downstream. A silent neighbour is reported
once; a lane goes down and comes up, and the lanes' retraining ends when all four are up. In a tick the oldest frame of each lane that is
up leaves, the counter and the management clock advance, a deadline that comes within reach asserts panic, and Cox takes the oldest CCP
packet that waits. -/
def Obligations.CcpPacketsRecordsSilenceAndLinks : Prop :=
  (∀ (s u : State) (f : RxFrame), receive s f = (u, true) →
    ((effHdr f.eff).typ = 5 →
      ((effHdr f.eff).module ≠ chainPos u → exec (.ccpPacket f) s = .next u) ∧
      ((effHdr f.eff).module = chainPos u → coxRuns u = false →
        exec (.ccpPacket f) s = .next { u with ccp := { u.ccp with bandPort := some f.port } }) ∧
      ((effHdr f.eff).module = chainPos u → coxRuns u = true → (effHdr f.eff).payloadLen = 0 →
        exec (.ccpPacket f) s = .next { u with ccp := { u.ccp with
          bandPort := some f.port, outBand := u.ccp.outBand ++ [.keepalive (effHdr f.eff).seq] } }) ∧
      ((effHdr f.eff).module = chainPos u → coxRuns u = true → 0 < (effHdr f.eff).payloadLen →
        (effHdr f.eff).payloadLen < 6 ∨ 16 ≤ u.ccp.inBand.length →
        exec (.ccpPacket f) s = .next { u with ccp := { u.ccp with
          bandPort := some f.port, dropCnt := satN 32 (u.ccp.dropCnt + 1) } }) ∧
      ((effHdr f.eff).module = chainPos u → coxRuns u = true → 6 ≤ (effHdr f.eff).payloadLen → u.ccp.inBand.length < 16 →
        exec (.ccpPacket f) s = .next { u with ccp := { u.ccp with
          bandPort := some f.port, inBand := u.ccp.inBand ++ [(u.tm.now, payload f)] } })) ∧
    ((effHdr f.eff).typ = 6 → isChainRecord (payload f) = true →
      ∃ t, exec (.chainStatusRecord f) s = .next t ∧
        t = { u with
          sramPoison := t.sramPoison,
          fh := { u.fh with
            records := t.fh.records, position := t.fh.position, egress := t.fh.egress, counters := t.fh.counters } } ∧
        (∀ e ∈ t.sramPoison, e ∈ u.sramPoison) ∧
        tget none t.fh.records (recordOf (payload f)).position = some (recordOf (payload f)) ∧
        t.fh.position = (if f.port = 1 ∧ isHub u = false then (recordOf (payload f)).position + 1 else u.fh.position) ∧
        (isMember u = true → f.port = 0 → portUp u 1 = true → egressFits u (frameOf u 1 f.eff false) = true →
          t.fh.egress = u.fh.egress ++ [frameOf u 1 f.eff false] ∧ t.fh.counters = u.fh.counters) ∧
        (isMember u = true → f.port = 0 → portUp u 1 = true → egressFits u (frameOf u 1 f.eff false) = false →
          t.fh.egress = u.fh.egress ∧ fhCounter t 1 cTxDrop = satN 32 (fhCounter u 1 cTxDrop + 1)) ∧
        (isMember u = false ∨ f.port ≠ 0 ∨ portUp u 1 = false → t.fh.egress = u.fh.egress ∧ t.fh.counters = u.fh.counters)) ∧
    ((effHdr f.eff).typ = 6 → isChainRecord (payload f) = false → inChain u = true → f.port = downPort u →
      ∃ t, exec (.ccpReplyUpstream f) s = .next t ∧
        t = { u with sramPoison := t.sramPoison, fh := { u.fh with egress := t.fh.egress, counters := t.fh.counters } } ∧
        (∀ e ∈ t.sramPoison, e ∈ u.sramPoison) ∧
        (portUp u (upPort u) = true → egressFits u (frameOf u (upPort u) f.eff false) = true →
          t.fh.egress = u.fh.egress ++ [frameOf u (upPort u) f.eff false] ∧ t.fh.counters = u.fh.counters) ∧
        (portUp u (upPort u) = true → egressFits u (frameOf u (upPort u) f.eff false) = false →
          t.fh.egress = u.fh.egress ∧ fhCounter t (upPort u) cTxDrop = satN 32 (fhCounter u (upPort u) cTxDrop + 1)) ∧
        (portUp u (upPort u) = false → t = u))) ∧
  (∀ (s : State),
    (activeMode s.md.mode = true → s.md.mode ≠ .service → isMember s = false → silentFor s 0 100 = true → inEpisode s 0x14 0 = false →
      ∃ t, exec .hostSilent s = .next t ∧ Raised t 0x14 [0] ∧
        EventsOnly { s with ccp := { s.ccp with episodes := (0x14, 0) :: s.ccp.episodes } } t) ∧
    (isMember s = true → silentFor s 1 30 = true → inEpisode s 0x15 1 = false →
      ∃ t, exec .hubSilent s = .next t ∧ Raised t 0x15 [1] ∧
        EventsOnly { s with ccp := { s.ccp with episodes := (0x15, 1) :: s.ccp.episodes } } t) ∧
    (waitsDown s = true → silentFor s (downPort s) 30 = true → inEpisode s 0x16 (downPort s) = false →
      ∃ t, exec .memberSilent s = .next t ∧ Raised t 0x16 [(downPort s : Int)] ∧
        EventsOnly { s with ccp := { s.ccp with episodes := (0x16, downPort s) :: s.ccp.episodes } } t) ∧
    (activeMode s.md.mode = false ∨ silentFor s 0 100 = false ∨ inEpisode s 0x14 0 = true → exec .hostSilent s = .next s) ∧
    (isMember s = false ∨ silentFor s 1 30 = false ∨ inEpisode s 0x15 1 = true → exec .hubSilent s = .next s) ∧
    (waitsDown s = false ∨ silentFor s (downPort s) 30 = false ∨ inEpisode s 0x16 (downPort s) = true → exec .memberSilent s = .next s) ∧
    (∀ lane, laneUp s lane = true → s.md.mode ≠ .service →
      ∃ t, exec (.linkDown lane) s = .next t ∧ laneUp t lane = false ∧ (∀ k, k ≠ lane → laneUp t k = laneUp s k) ∧
        Raised t 0x17 [(lane : Int)] ∧
        (∀ p, fhCounter s p cTxDrop < 2 ^ 32 → fhCounter t p cTxDrop = satN 32 (fhCounter s p cTxDrop +
          (s.fh.egress.filter fun e => decide (e.port = p) && isUplink e && !linkIsUp t e.lane).length)) ∧
        EventsOnly { s with
          fh := { s.fh with linkUp := t.fh.linkUp, egress := s.fh.egress.filter fun e => linkIsUp t e.lane, counters := t.fh.counters },
          tm := { s.tm with ptpOut := s.tm.ptpOut.filter fun p => linkIsUp t p.lane } } t) ∧
    (∀ lane, laneUp s lane = false → exec (.linkDown lane) s = .next s) ∧
    (∀ lane, lane < 4 → laneUp s lane = false → s.fh.linkUp.length = 4 → s.pw.power = .on → s.md.mode ≠ .service →
      s.md.mode ≠ .recovery → s.fh.retrain = none → (∀ q ∈ s.fh.streams, q.port ≠ laneOwner s.fh.portConfig lane) →
      ∃ t, exec (.linkUp lane) s = .next t ∧ laneUp t lane = true ∧ (∀ k, k ≠ lane → laneUp t k = laneUp s k) ∧
        Raised t 0x18 [(lane : Int)] ∧ EventsOnly { s with fh := { s.fh with linkUp := t.fh.linkUp } } t) ∧
    (∀ lane h, lane < 4 → laneUp s lane = false → s.fh.linkUp.length = 4 → s.pw.power = .on → s.md.mode ≠ .recovery →
      s.fh.retrain = some h → lane ∈ lanesAwaited s → (∀ l ∈ lanesAwaited s, l ≠ lane → laneUp s l = true) →
      ∃ t, exec (.linkUp lane) s = .next t ∧ t.fh.retrain = none ∧ laneUp t lane = true ∧
        Completed t { hdr := h, opcode := 0x0030 } stOk 0 [] ∧ (∀ q ∈ t.fh.streams, q.port ≠ laneOwner s.fh.portConfig lane) ∧
        t.md = s.md ∧ t.rf = s.rf ∧ t.regs = s.regs) ∧
    (s.md.mode = .recovery → ∀ lane, exec (.linkUp lane) s = .next s) ∧
    (∀ lane, 4 ≤ lane ∨ laneUp s lane = true → exec (.linkUp lane) s = .next s)) ∧
  (∀ (s : State), s.pending = [] →
    (coxRuns s = false ∨ (s.ccp.inBand = [] ∧ s.ccp.mspi = []) →
      ∃ t num, step s = .next t ∧ num = (1600000 * (1000000000000 + counterRate s)).toNat + s.tm.rem ∧
        (s.pw.power ≠ .off → t.tm.now = s.tm.now + 1 ∧ t.tm.rem = num % 3000000000000 ∧
          t.tm.counter = (s.tm.counter + num / 3000000000000) % (2 ^ 48 * 1000000000 * 65536)) ∧
        (s.pw.power = .off → t.tm.now = s.tm.now ∧ t.tm.counter = s.tm.counter) ∧
        (∀ lane, lane < 4 → linkIsUp s lane = true →
          (∀ e l, s.fh.egress.filter (fun x => decide (x.lane = lane)) = e :: l → tget none t.fh.sent lane = some (leaves s e)) ∧
          (∀ e ∈ (s.fh.egress.filter fun x => decide (x.lane = lane)).drop 1, e ∈ t.fh.egress) ∧
          t.tm.ptpOut.filter (fun x => decide (x.lane = lane)) = (s.tm.ptpOut.filter fun x => decide (x.lane = lane)).drop 1) ∧
        (∀ e ∈ s.fh.egress, linkIsUp s e.lane = false → e ∈ t.fh.egress) ∧
        (s.ccp.outBand = [] ∨ outReady s = false → (t.cave.panic = true → s.cave.panic = true) → t.ccp = s.ccp ∧
          ∀ lane, lane < 4 → linkIsUp s lane = true →
            t.fh.egress.filter (fun x => decide (x.lane = lane)) = (s.fh.egress.filter fun x => decide (x.lane = lane)).drop 1) ∧
        (outReady s = true → (t.cave.panic = true → s.cave.panic = true) →
          t.ccp = { s.ccp with outBand := s.ccp.outBand.drop 1 }) ∧
        (s.cave.panic = false → pfLevel s * 100 < fget s F.p0CfgPanicLo * 1024 → urgentRead t = true →
          t.cave.panic = true ∧ fget t F.p0PanicCnt = satN 32 (fget s F.p0PanicCnt + 1) ∧ fget t F.caveEventPanic = 1) ∧
        (urgentRead t = false → t.cave.panic = false) ∧
        t.md = s.md ∧ t.rf = s.rf ∧ t.cal = s.cal ∧ t.fab = s.fab ∧ t.ws = s.ws ∧ t.cave = { s.cave with panic := t.cave.panic } ∧
        t.caveMem = s.caveMem) ∧
    (∀ path n b l, coxRuns s = true →
      (path = CcpPath.inBand ∧ s.ccp.inBand = (n, b) :: l ∧ (∀ c m, s.ccp.mspi = c :: m → n ≤ c.1)) ∨
        (path = CcpPath.mspi ∧ s.ccp.mspi = (n, b) :: l ∧ (∀ c m, s.ccp.inBand = c :: m → n < c.1)) →
      (∀ e ∈ doneOf s path, e.raw ≠ b) → beNat (slice b 0 2) ≠ 0x004A →
      ∃ u, u.ccp.inBand = (if path = CcpPath.inBand then l else s.ccp.inBand) ∧
        u.ccp.mspi = (if path = CcpPath.inBand then s.ccp.mspi else l) ∧ doneOf u path = doneOf s path ∧
        u.ccp.nextSlot = s.ccp.nextSlot ∧ u.md = s.md ∧ u.rf = s.rf ∧ u.cal = s.cal ∧ u.fab = s.fab ∧ u.ws = s.ws ∧
        u.cave = { s.cave with panic := u.cave.panic } ∧ u.caveMem = s.caveMem ∧ (s.pw.power ≠ .off → u.tm.now = s.tm.now + 1) ∧
        (∀ i t, judgePacket u [] { path := path, tag := beNat (slice b 2 2) } b = .inr i → exec i u = .next t →
          step s = .next (noteRaw t path s.ccp.nextSlot b)) ∧
        (∀ st dt, judgePacket u [] { path := path, tag := beNat (slice b 2 2) } b = .inl (st, dt) →
          ∃ t, step s = .next t ∧ ((doneOf t path).head?.map fun x => (x.tag, x.raw, x.instr)) = some (beNat (slice b 2 2), b, none) ∧
            (slotsOf s path = [] → CcpOut.reply {
              opcode := beNat (slice b 0 2) % 0x8000, tag := beNat (slice b 2 2), status := st, detail := dt } ∈ outOf t path))))

/-- MSPI: a packet with a right CRC joins Cox's queue, a wrong one is counted, one beyond the 16th is dropped; READ_PACKET gives the
oldest packet with its length and CRC and removes it once all of it is clocked; READ_STATUS gives the status word. -/
def Obligations.MspiTransactions : Prop :=
  ∀ (s : State), s.pw.power ≠ .off →
    (∀ len bytes crc, writeOk len bytes crc = false →
      exec (.writePacket len bytes crc) s = .next { s with ccp := { s.ccp with
        mspiCrcCnt := satN 32 (s.ccp.mspiCrcCnt + 1), miso := [] } }) ∧
    (∀ (bytes : List Byte), 6 ≤ bytes.length → bytes.length ≤ 8198 → s.pw.power ≠ .dormant → enteringDormant s = none → coxReady s = true →
      (s.ccp.mspi.length < 16 →
        exec (.writePacket bytes.length bytes (crc32 (beBytes 2 bytes.length ++ bytes))) s = .next { s with ccp := { s.ccp with
          mspi := s.ccp.mspi ++ [(s.tm.now, bytes)], miso := [] } }) ∧
      (16 ≤ s.ccp.mspi.length →
        exec (.writePacket bytes.length bytes (crc32 (beBytes 2 bytes.length ++ bytes))) s = .next { s with ccp := { s.ccp with
          dropCnt := satN 32 (s.ccp.dropCnt + 1), miso := [] } })) ∧
    (s.md.mode ≠ .dormant → s.pw.power ≠ .shutdown →
      (∀ o rest b, s.ccp.outMspi = o :: rest → b = beBytes 2 (outBytes o).length ++ outBytes o →
        exec (.readPacket true) s = .next { s with ccp := { s.ccp with outMspi := rest, miso := b ++ beBytes 4 (crc32 b) } } ∧
        exec (.readPacket false) s = .next { s with ccp := { s.ccp with miso := b ++ beBytes 4 (crc32 b) } }) ∧
      (∀ c, s.ccp.outMspi = [] → exec (.readPacket c) s = .next { s with ccp := { s.ccp with miso := [0, 0] } })) ∧
    (∀ c, s.md.mode = .dormant ∨ s.pw.power = .shutdown → exec (.readPacket c) s = .next { s with ccp := { s.ccp with miso := [] } }) ∧
    (∃ t, exec .readStatus s = .next t ∧ t = { s with ccp := { s.ccp with miso := t.ccp.miso } } ∧
      t.ccp.miso.length = 4 ∧
      (beNat t.ccp.miso).testBit 31 = coxReady s ∧ (beNat t.ccp.miso).testBit 30 = decide (s.md.mode = .dormant) ∧
      (beNat t.ccp.miso).testBit 29 = decide (s.md.mode = .recovery) ∧
      (s.ccp.mspi.length ≤ 16 → beNat t.ccp.miso / 2 ^ 16 % 2 ^ 8 = 16 - s.ccp.mspi.length) ∧
      beNat t.ccp.miso % 2 ^ 16 = min s.ccp.outMspi.length 65535)

/-- The arithmetic of format M: the exact product of the selected halves goes to the accumulator, is added to it or is subtracted
from it, in 40 bits that wrap; NOP leaves the seat to its side action. -/
def Obligations.SeatsMultiplyIntoAccumulators : Prop :=
  ∀ (s : State) (q : SeatFetch) (f : MForm) (b : Seat) (x : Int) (k : Bool), SeatFree s q.n f.side f.push → b = seatOf s q.n →
    x = (b.reg f.xr).half f.xh * (b.reg f.yr).half f.yh → k = ((b.reg f.xr).mark || (b.reg f.yr).mark) →
    (SeatTakes s q (.seatNop q f) 2 → ∃ t, exec (.seatNop q f) s = .next t ∧ SeatDid s t q b f.side f.push f.fault) ∧
    (SeatTakes s q (.seatMpy q f) 2 → ∃ t v, exec (.seatMpy q f) s = .next t ∧
      SeatDid s t q (b.setAcc f.acc { val := v, mark := k }) f.side f.push f.fault ∧
      v.toInt = x) ∧
    (SeatTakes s q (.seatMac q f) 2 → ∃ t v, exec (.seatMac q f) s = .next t ∧
      SeatDid s t q (b.setAcc f.acc { val := v, mark := (b.acc f.acc).mark || k }) f.side f.push f.fault ∧
      v.toInt = ((b.acc f.acc).val.toInt + x).bmod (2 ^ 40)) ∧
    (SeatTakes s q (.seatMsu q f) 2 → ∃ t v, exec (.seatMsu q f) s = .next t ∧
      SeatDid s t q (b.setAcc f.acc { val := v, mark := (b.acc f.acc).mark || k }) f.side f.push f.fault ∧
      v.toInt = ((b.acc f.acc).val.toInt - x).bmod (2 ^ 40))

/-- The operations of format R, on the whole word or on its two halves; the result is marked when an operand is. -/
def Obligations.SeatsComputeInRegisters : Prop :=
  ∀ (s : State) (q : SeatFetch) (f : RForm) (x y : Word), SeatFree s q.n f.side false →
    x = ((seatOf s q.n).reg f.da).val → y = ((seatOf s q.n).reg f.db).val →
    (SeatTakes s q (.seatAdd q f) 2 → ∃ t v, exec (.seatAdd q f) s = .next t ∧ SeatGot s t q f v ∧
      (f.hw = false → v = x + y) ∧ (f.hw = true → wordH v = wordH x + wordH y ∧ wordL v = wordL x + wordL y)) ∧
    (SeatTakes s q (.seatSub q f) 2 → ∃ t v, exec (.seatSub q f) s = .next t ∧ SeatGot s t q f v ∧
      (f.hw = false → v = x - y) ∧ (f.hw = true → wordH v = wordH x - wordH y ∧ wordL v = wordL x - wordL y)) ∧
    (SeatTakes s q (.seatAnd q f) 2 → ∃ t, exec (.seatAnd q f) s = .next t ∧ SeatGot s t q f (x &&& y)) ∧
      (SeatTakes s q (.seatOr q f) 2 → ∃ t, exec (.seatOr q f) s = .next t ∧ SeatGot s t q f (x ||| y)) ∧
    (SeatTakes s q (.seatXor q f) 2 → ∃ t, exec (.seatXor q f) s = .next t ∧ SeatGot s t q f (x ^^^ y)) ∧
    (SeatTakes s q (.seatMax q f) 2 → ∃ t v, exec (.seatMax q f) s = .next t ∧ SeatGot s t q f v ∧
      (f.hw = false → v.toInt = max x.toInt y.toInt) ∧
      (f.hw = true → (wordH v).toInt = max (wordH x).toInt (wordH y).toInt ∧ (wordL v).toInt = max (wordL x).toInt (wordL y).toInt)) ∧
    (SeatTakes s q (.seatMin q f) 2 → ∃ t v, exec (.seatMin q f) s = .next t ∧ SeatGot s t q f v ∧
      (f.hw = false → v.toInt = min x.toInt y.toInt) ∧
      (f.hw = true → (wordH v).toInt = min (wordH x).toInt (wordH y).toInt ∧ (wordL v).toInt = min (wordL x).toInt (wordL y).toInt)) ∧
    (SeatTakes s q (.seatAsr q f) 2 → ∃ t v, exec (.seatAsr q f) s = .next t ∧ SeatGot s t q f v ∧
      (f.hw = false → v.toInt = x.toInt / 2 ^ (y.toNat % 32)) ∧
      (f.hw = true → (wordH v).toInt = (wordH x).toInt / 2 ^ (y.toNat % 32) ∧ (wordL v).toInt = (wordL x).toInt / 2 ^ (y.toNat % 32))) ∧
    (SeatTakes s q (.seatShl q f) 2 → ∃ t v, exec (.seatShl q f) s = .next t ∧ SeatGot s t q f v ∧
      (f.hw = false → v.toNat = x.toNat * 2 ^ (y.toNat % 32) % 2 ^ 32) ∧
      (f.hw = true → (wordH v).toNat = (wordH x).toNat * 2 ^ (y.toNat % 32) % 2 ^ 16 ∧
        (wordL v).toNat = (wordL x).toNat * 2 ^ (y.toNat % 32) % 2 ^ 16)) ∧
    (SeatTakes s q (.seatExpr q f) 2 → ∃ t v, exec (.seatExpr q f) s = .next t ∧ SeatGot s t q f v ∧
      (f.hw = false → v.toInt = max x.toInt (max (bitsNeeded (wordH y).toInt) (bitsNeeded (wordL y).toInt) : Nat)) ∧
      (f.hw = true → v.toInt = max x.toInt (bitsNeeded (y.extractLsb' 0 24).toInt : Nat)))

/-- NRW narrows both accumulators with their clamps counted, NORM counts redundant sign bits, ACLR clears. -/
def Obligations.SeatsNarrowNormalizeAndClear : Prop :=
  ∀ (s : State) (q : SeatFetch) (b : Seat), Canonical s → seatRuns s q.n = true → b = seatOf s q.n →
    (∀ dd sat ks k x y, x = b.a0.val.toInt / 2 ^ (if ks then b.shf else k) → y = b.a1.val.toInt / 2 ^ (if ks then b.shf else k) →
      SeatTakes s q (.seatNrw q dd sat ks k) 1 → ∃ t v, exec (.seatNrw q dd sat ks k) s = .next t ∧
        t = { s with regs := t.regs, fab := { s.fab with seats := t.fab.seats, seatCorr := t.fab.seatCorr } } ∧
        CorrCounted s t q 0 ∧ seatOf t q.n = ((b.setReg dd { val := v, mark := b.a0.mark || b.a1.mark }).spend 1 none).advance ∧
        (∀ j, j ≠ q.n → seatOf t j = seatOf s j) ∧ RegsKept s t [F.fabSatCnt.bits 0] ∧
        (sat = true → (wordH v).toInt = max (-32768) (min 32767 x) ∧ (wordL v).toInt = max (-32768) (min 32767 y) ∧
          fget t F.fabSatCnt = satN 32 (fget s F.fabSatCnt + (if x < -32768 ∨ 32767 < x then 1 else 0) +
            (if y < -32768 ∨ 32767 < y then 1 else 0))) ∧
        (sat = false → (wordH v).toInt = x.bmod (2 ^ 16) ∧ (wordL v).toInt = y.bmod (2 ^ 16) ∧
          fget t F.fabSatCnt = fget s F.fabSatCnt)) ∧
    (∀ asel dd, SeatTakes s q (.seatNorm q asel dd) 1 → ∃ t v, exec (.seatNorm q asel dd) s = .next t ∧
      SeatTook s t q (((b.setReg dd { val := v, mark := (b.acc asel).mark }).spend 1 none).advance) ∧ v.toNat ≤ 39 ∧
      -(2 ^ (39 - v.toNat)) ≤ (b.acc asel).val.toInt ∧ (b.acc asel).val.toInt < 2 ^ (39 - v.toNat) ∧
      (v.toNat < 39 → (b.acc asel).val.toInt < -(2 ^ (38 - v.toNat)) ∨ 2 ^ (38 - v.toNat) ≤ (b.acc asel).val.toInt)) ∧
    (∀ asel, asel ≤ 2 → SeatTakes s q (.seatAclr q asel) 1 → ∃ t, exec (.seatAclr q asel) s = .next t ∧
      SeatTook s t q ((({ b with a0 := if asel = 1 then b.a0 else {}, a1 := if asel = 0 then b.a1 else {} } : Seat).spend 1 none).advance))

/-- EXP takes the largest count of bits needed over up to 64 words of memory; MOVI, MOVS, LDP and MVP load registers. -/
def Obligations.SeatsScanMemoryAndLoadRegisters : Prop :=
  ∀ (s : State) (q : SeatFetch) (b : Seat), seatRuns s q.n = true → b = seatOf s q.n →
    (∀ dd da ep em w cnt faults c (r : Nat → DReg) (d : List Dec), c = (if cnt = 0 then 64 else cnt) →
      (∀ i, i < c → r i = (Nat.repeat (fun u => Seat.bump u ep em) i b).load ep (nth {} faults i)) →
      d = ((List.range c).map fun i =>
        let u := Nat.repeat (fun u => Seat.bump u ep em) i b
        (u.dataRead (u.wordAt ep) (nth {} faults i)).1) →
      SeatTakes s q (.seatExp q dd da ep em w cnt faults) (c + 1) → ∃ t v k, exec (.seatExp q dd da ep em w cnt faults) s = .next t ∧
        SeatIs s t q.n ((((Nat.repeat (fun u => Seat.bump u ep em) c b).setReg dd { val := v, mark := k }).spend
          (c + b.interlock (some (ep, em))) none).advance) ∧
        CorrCounted s t q (d.filter fun x => decide (x = .corrected)).length ∧ PoisonCounted s t (d.filter Dec.marked).length ∧
        (k = true ↔ (b.reg da).mark = true ∨ ∃ i, i < c ∧ (r i).mark = true) ∧ (b.reg da).val.toInt ≤ v.toInt ∧
        (∀ i, i < c → ∀ x ∈ exprValues w (r i).val, (bitsNeeded x : Int) ≤ v.toInt) ∧
        (v = (b.reg da).val ∨ ∃ i, i < c ∧ ∃ x ∈ exprValues w (r i).val, v.toInt = bitsNeeded x)) ∧
    (∀ dd imm, (SeatTakes s q (.seatMovi q dd 0 imm) 1 → ∃ t, exec (.seatMovi q dd 0 imm) s = .next t ∧
        SeatTook s t q (((b.setReg dd { val := imm.signExtend 32, mark := false }).spend 1 none).advance)) ∧
      (SeatTakes s q (.seatMovi q dd 1 imm) 1 → ∃ t v, exec (.seatMovi q dd 1 imm) s = .next t ∧
        SeatTook s t q (((b.setReg dd { val := v, mark := (b.reg dd).mark }).spend 1 none).advance) ∧
        wordL v = imm ∧ wordH v = wordH (b.reg dd).val) ∧
      (SeatTakes s q (.seatMovi q dd 2 imm) 1 → ∃ t v, exec (.seatMovi q dd 2 imm) s = .next t ∧
        SeatTook s t q (((b.setReg dd { val := v, mark := (b.reg dd).mark }).spend 1 none).advance) ∧
        wordH v = imm ∧ wordL v = wordL (b.reg dd).val)) ∧
    (∀ dd sreg v, (sreg, v) ∈ [(0, q.n % 64), (1, q.n / 64), (2, b.nb), (3, b.shf), (4, b.item), (5, b.kind), (6, b.hcnt.toNat)] →
      SeatTakes s q (.seatMovs q dd sreg) 1 → ∃ t, exec (.seatMovs q dd sreg) s = .next t ∧
        SeatTook s t q (((b.setReg dd { val := BitVec.ofNat 32 v, mark := false }).spend 1 none).advance)) ∧
    (∀ idx imm, (SeatTakes s q (.seatLdp q false idx imm) 1 → ∃ t, exec (.seatLdp q false idx imm) s = .next t ∧
        SeatTook s t q
          ((({ b with p := b.p.set idx (imm &&& 0xFFC#12), pMark := b.pMark.set idx false } : Seat).spend 1 (some (false, idx))).advance)) ∧
      (SeatTakes s q (.seatLdp q true idx imm) 1 → ∃ t, exec (.seatLdp q true idx imm) s = .next t ∧
        SeatTook s t q
          ((({ b with m := b.m.set idx (imm &&& 0xFFC#12), mMark := b.mMark.set idx false } : Seat).spend 1 (some (true, idx))).advance))) ∧
    (∀ idx dr v k, v = BitVec.ofNat 12 ((b.reg dr).val.toNat % 4096) &&& 0xFFC#12 → k = (b.reg dr).mark →
      (SeatTakes s q (.seatMvp q false idx dr) 1 → ∃ t, exec (.seatMvp q false idx dr) s = .next t ∧
        SeatTook s t q ((({ b with p := b.p.set idx v, pMark := b.pMark.set idx k } : Seat).spend 1 (some (false, idx))).advance)) ∧
      (SeatTakes s q (.seatMvp q true idx dr) 1 → ∃ t, exec (.seatMvp q true idx dr) s = .next t ∧
        SeatTook s t q ((({ b with m := b.m.set idx v, mMark := b.mMark.set idx k } : Seat).spend 1 (some (true, idx))).advance)))

/-- Loops and branches: LOOP runs its body COUNT times or skips it, a taken branch costs two handshakes and leaves the loops whose
body its target lies outside. -/
def Obligations.SeatsLoopAndBranch : Prop :=
  ∀ (s : State) (q : SeatFetch) (b : Seat), seatRuns s q.n = true → b = seatOf s q.n →
    (∀ rs dr lend cnt c, c = (if rs then (b.reg dr).val.toNat % 65536 else cnt) → 0 < c →
      SeatTakes s q (.seatLoop q rs dr lend cnt) 1 → ∃ t, exec (.seatLoop q rs dr lend cnt) s = .next t ∧ SeatTook s t q { b with
        pc := b.pc + 1, loops := { count := c, first := (b.pc + 1).toNat, last := lend } :: b.loops, hcnt := b.hcnt + 1,
        lastSet := none }) ∧
    (∀ rs dr lend cnt, (if rs then (b.reg dr).val.toNat % 65536 else cnt) = 0 → b.loops = [] →
      SeatTakes s q (.seatLoop q rs dr lend cnt) 1 → ∃ t, exec (.seatLoop q rs dr lend cnt) s = .next t ∧
        SeatTook s t q { b with pc := BitVec.ofNat 8 lend + 1, hcnt := b.hcnt + 1, lastSet := none }) ∧
    (∀ tgt, SeatTakes s q (.seatJmp q tgt) 2 → ∃ t, exec (.seatJmp q tgt) s = .next t ∧ SeatTook s t q { b with
      pc := BitVec.ofNat 8 tgt, loops := b.loops.dropWhile (fun l => decide (tgt < l.first ∨ l.last < tgt)), hcnt := b.hcnt + 2,
      lastSet := none }) ∧
    (∀ dr tgt, (b.reg dr).val = 0 →
      (SeatTakes s q (.seatBz q dr tgt) 2 → ∃ t, exec (.seatBz q dr tgt) s = .next t ∧ SeatTook s t q { b with
        pc := BitVec.ofNat 8 tgt, loops := b.loops.dropWhile (fun l => decide (tgt < l.first ∨ l.last < tgt)), hcnt := b.hcnt + 2,
        lastSet := none }) ∧
      (SeatTakes s q (.seatBnz q dr tgt) 2 → ∃ t, exec (.seatBnz q dr tgt) s = .next t ∧
        SeatTook s t q (({ b with hcnt := b.hcnt + 1, lastSet := none } : Seat).advance))) ∧
    (∀ dr tgt, (b.reg dr).val ≠ 0 →
      (SeatTakes s q (.seatBnz q dr tgt) 2 → ∃ t, exec (.seatBnz q dr tgt) s = .next t ∧ SeatTook s t q { b with
        pc := BitVec.ofNat 8 tgt, loops := b.loops.dropWhile (fun l => decide (tgt < l.first ∨ l.last < tgt)), hcnt := b.hcnt + 2,
        lastSet := none }) ∧
      (SeatTakes s q (.seatBz q dr tgt) 2 → ∃ t, exec (.seatBz q dr tgt) s = .next t ∧
        SeatTook s t q (({ b with hcnt := b.hcnt + 1, lastSet := none } : Seat).advance))) ∧
    (∀ l rest, b.loops = l :: rest → b.pc.toNat = l.last →
      (1 < l.count → b.advance = { b with pc := BitVec.ofNat 8 l.first, loops := { l with count := l.count - 1 } :: rest }) ∧
      (l.count ≤ 1 → rest = [] → b.advance = { b with pc := b.pc + 1, loops := [] })) ∧
    (∀ l rest, b.loops = l :: rest → b.pc.toNat ≠ l.last → b.advance = { b with pc := b.pc + 1 })

/-- A seat whose side action or push must wait keeps its instruction and executes it when the wait ends; a seat that does not run,
that has another word at its PC, or whose chunk of class 2 or 3 work has no handshake left, executes nothing. What the side actions
and PUSH do, beside the main operation: loads from IN, RIN and memory, stores to memory, the OUT port and the reduction network. -/
def Obligations.SideActionsMoveWordsOrWait : Prop :=
  (∀ (s : State) (q : SeatFetch),
    (∀ (f : MForm) (w : WaitOn) (i k : Instr), seatRuns s q.n = true → (seatOf s q.n).blocked f.side f.push = some w →
      (i, k) ∈ [(Instr.seatNop q f, Instr.seatNop { n := q.n } f), (.seatMpy q f, .seatMpy { n := q.n } f),
        (.seatMac q f, .seatMac { n := q.n } f), (.seatMsu q f, .seatMsu { n := q.n } f)] → SeatTakes s q i 0 →
      ∃ t, exec i s = .next t ∧ SeatTook s t q { seatOf s q.n with wait := some (w, k) }) ∧
    (∀ (f : RForm) (w : WaitOn) (i k : Instr), seatRuns s q.n = true → (seatOf s q.n).blocked f.side false = some w →
      (i, k) ∈ [(Instr.seatAdd q f, Instr.seatAdd { n := q.n } f), (.seatSub q f, .seatSub { n := q.n } f),
        (.seatAnd q f, .seatAnd { n := q.n } f), (.seatOr q f, .seatOr { n := q.n } f), (.seatXor q f, .seatXor { n := q.n } f),
        (.seatMax q f, .seatMax { n := q.n } f), (.seatMin q f, .seatMin { n := q.n } f), (.seatAsr q f, .seatAsr { n := q.n } f),
        (.seatShl q f, .seatShl { n := q.n } f), (.seatExpr q f, .seatExpr { n := q.n } f)] → SeatTakes s q i 0 →
      ∃ t, exec i s = .next t ∧ SeatTook s t q { seatOf s q.n with wait := some (w, k) }) ∧
    (∀ (f : MForm) (g : RForm) (w : WaitOn) (i : Instr) (r : State), (seatOf s q.n).wait = some (w, i) →
      waitOver (seatOf s q.n) w = true → r = putSeat s q.n ((seatOf s q.n).resumed w) → q.fault = {} →
      i ∈ [Instr.seatNop q f, .seatMpy q f, .seatMac q f, .seatMsu q f, .seatAdd q g, .seatSub q g, .seatAnd q g, .seatOr q g,
        .seatXor q g, .seatMax q g, .seatMin q g, .seatAsr q g, .seatShl q g, .seatExpr q g] →
      seatRuns r q.n = true → SeatTakes r q i 2 →
      ∃ t, exec (.queueWaitEnd q.n) s = .next t ∧ exec i r = .next t) ∧
    (∀ w i, (seatOf s q.n).wait = some (w, i) → waitOver (seatOf s q.n) w = false → exec (.queueWaitEnd q.n) s = .next s) ∧
    ((seatOf s q.n).wait = none → exec (.queueWaitEnd q.n) s = .next s) ∧
    (∀ (f : MForm) (g : RForm) (a b c d e : Nat) (x y : Bool) (v : BitVec 16) (p : BitVec 12) (l : List WordFault) (i : Instr),
      seatRuns s q.n = false ∨ spelled s q i = false →
      i ∈ [Instr.seatNop q f, .seatMpy q f, .seatMac q f, .seatMsu q f, .seatAdd q g, .seatSub q g, .seatAnd q g, .seatOr q g,
        .seatXor q g, .seatMax q g, .seatMin q g, .seatAsr q g, .seatShl q g, .seatExpr q g, .seatNrw q a x y b, .seatNorm q a b,
        .seatAclr q a, .seatExp q a b c d x e l, .seatMovi q a b v, .seatMovs q a b, .seatLdp q x a p, .seatMvp q x a b,
        .seatLoop q x a b c, .seatJmp q a, .seatBz q a b, .seatBnz q a b, .seatEnd q] →
      exec i s = .next s) ∧
    (∀ (f : MForm) (g : RForm) (i : Instr), (seatOf s q.n).kind = 5 ∨ (seatOf s q.n).kind = 7 →
      512 ≤ (seatOf s q.n).hcnt.toNat → (seatOf s q.n).hcnt.toNat < 2 ^ 31 →
      (SeatFree s q.n f.side f.push ∧ i ∈ [Instr.seatNop q f, .seatMpy q f, .seatMac q f, .seatMsu q f]) ∨
        (SeatFree s q.n g.side false ∧ i ∈ [Instr.seatAdd q g, .seatSub q g, .seatAnd q g, .seatOr q g, .seatXor q g, .seatMax q g,
          .seatMin q g, .seatAsr q g, .seatShl q g, .seatExpr q g]) →
      exec i s = .next s)) ∧
  (∀ (b m : Seat) (flt : WordFault),
    sideDo b m flt .none = (m, 0) ∧
    (∀ d w q, m.inq = w :: q → m.feed = [] → sideDo b m flt (.ldi d) = (({ m with inq := q } : Seat).setReg d w, 0)) ∧
    (∀ d w q, m.rin = w :: q → sideDo b m flt (.ldr d) = (({ m with rin := q } : Seat).setReg d w, 0)) ∧
    (∀ d p k r v, b.dataRead (b.wordAt p) flt = (r, v) →
      (sideDo b m flt (.ld d p k)).1.p = m.p.set p (nth 0 m.p p + nth 0 m.m k) ∧
      (sideDo b m flt (.ld d p k)).1.pMark = m.pMark.set p (nth false m.pMark p || nth false m.mMark k) ∧
      (sideDo b m flt (.ld d p k)).1.d = m.d.set d { val := v, mark := r.marked || nth false b.pMark p }) ∧
    (∀ d p k r v, risingFrom 0 m.mem = true → m.dataRead (partner (m.wordAt p)) flt = (r, v) →
      (sideDo b m flt (.st d p k)).1.p = m.p.set p (nth 0 m.p p + nth 0 m.m k) ∧
      (sideDo b m flt (.st d p k)).1.pMark = m.pMark.set p (nth false m.pMark p || nth false m.mMark k) ∧
      (∀ a, a ≠ m.wordAt p → a ≠ partner (m.wordAt p) → tget {} (sideDo b m flt (.st d p k)).1.mem a = tget {} m.mem a) ∧
      tget {} (sideDo b m flt (.st d p k)).1.mem (m.wordAt p) =
        { val := (b.reg d).val, mark := (b.reg d).mark || nth false m.pMark p || r.marked } ∧
      tget {} (sideDo b m flt (.st d p k)).1.mem (partner (m.wordAt p)) =
        { val := v, mark := (b.reg d).mark || nth false m.pMark p || r.marked }) ∧
    (∀ w q p k r v, m.inq = w :: q → risingFrom 0 m.mem = true → m.dataRead (partner (m.wordAt p)) flt = (r, v) →
      (sideDo b m flt (.sti p k)).1.p = m.p.set p (nth 0 m.p p + nth 0 m.m k) ∧
      (∀ a, a ≠ m.wordAt p → a ≠ partner (m.wordAt p) → tget {} (sideDo b m flt (.sti p k)).1.mem a = tget {} m.mem a) ∧
      tget {} (sideDo b m flt (.sti p k)).1.mem (m.wordAt p) = { val := w.val, mark := w.mark || nth false m.pMark p || r.marked } ∧
      tget {} (sideDo b m flt (.sti p k)).1.mem (partner (m.wordAt p)) =
        { val := v, mark := w.mark || nth false m.pMark p || r.marked }) ∧
    (∀ w o e, flt.flips = [] → flt.waXor = 0 → o = tget {} m.mem w → e = tget {} m.mem (partner w) →
      m.dataRead w flt = (if o.mark = true ∨ e.mark = true then .poisoned else .clean, o.val)) ∧
    (∀ d p k, sideReads b m flt (.ld d p k) = [(b.dataRead (b.wordAt p) flt).1] ∧
      sideReads b m flt (.st d p k) = [(m.dataRead (m.wordAt p) flt).1] ∧
      sideReads b m flt (.sti p k) = [(m.dataRead (m.wordAt p) flt).1] ∧ sideReads b m flt .none = [] ∧
      sideReads b m flt (.ldi d) = [] ∧ sideReads b m flt (.ldr d) = [] ∧ sideReads b m flt (.out d) = []) ∧
    (∀ d, m.kind ≠ 2 → (m.kind = 3 → m.outs < 13) →
      sideDo b m flt (.out d) = ({ m with out := m.out ++ [b.reg d], outs := m.outs + 1, leaked := m.leaked || (b.reg d).mark }, 0)) ∧
    (∀ d, m.kind = 2 ∨ (m.kind = 3 ∧ 13 ≤ m.outs) → sideDo b m flt (.out d) = (m, 1)) ∧
    (m.kind ≠ 3 → (m.kind = 2 → m.pushes < 12 * m.nb) →
      pushDo m = ({ m with
        red := some { re := m.a0.val, im := m.a1.val, mark := m.a0.mark || m.a1.mark, index := m.pushes, nb := m.nb, shf := m.shf },
        pushes := m.pushes + 1, leaked := m.leaked || m.a0.mark || m.a1.mark }, 0)) ∧
    (m.kind = 3 ∨ (m.kind = 2 ∧ 12 * m.nb ≤ m.pushes) → pushDo m = (m, 1)))

/-- A change of mode: crews are loaded for its target, preparation ends when the groups have settled and every crew is loaded, the
source stops at the first stroke, and the target is in force from the stroke at which everything is ready. A step of the counter
that waits is applied at the next stroke and stops the data plane. -/
def Obligations.ModesTakeForceAtStrokes : Prop :=
  ∀ (s : State), Canonical s →
    (∀ p crew own kinds, s.md.prep = some p → crew < 32 → activeMode p.target = true → p.ready = false →
      (p.stopped = true ∨ activeMode s.md.mode = false) →
      own = (storedKernel s).filter (fun k => decide (KernelImage.length k ≤ kernelLimit (loadMode s))) →
      (kernelKept s = false ∨ storedKernel s ≠ none ∨ s.fab.loads ≠ []) →
      kinds = packKinds 0 (crewKinds (loadMode s) crew ((own.map KernelImage.length).getD 24)) →
      (∃ t l, exec (.crewLoad crew []) s = .next t ∧
        t = { s with fab := { s.fab with loads := t.fab.loads, seats := t.fab.seats, items := t.fab.items } } ∧
        tget {} t.fab.loads crew = l ∧ l.kinds = kinds ∧ l.customer = (if kinds.any (fun k => decide (k.1 = 2)) then own else none) ∧
        l.crc = crc32 (l.prog.flatMap fun w => beBytes 4 w.toNat) ∧
        (own = none → ∀ k ∈ kinds, ∀ j, j < k.2.2 → nth 0 l.prog (k.2.1 + j) = Config.vendorWord k.1 j) ∧
        (∀ img, own = some img → img.words.length = 4 + KernelImage.length img → ∀ k ∈ kinds, k.1 = 2 →
          ∀ j, j < KernelImage.length img →
          nth 0 l.prog (k.2.1 + j) = nth 0 img.words (4 + j)) ∧
        (∀ c, c ≠ crew → tget {} t.fab.loads c = tget {} s.fab.loads c) ∧ (∀ k, k < 64 → seatOf t (64 * crew + k) = {}) ∧
        (∀ n, n / 64 ≠ crew → seatOf t n = seatOf s n) ∧ (∀ i ∈ t.fab.items, i.crew ≠ crew)) ∧
      (∀ bad, bad ≠ [] → s.md.mode ≠ .service →
        ∃ t, exec (.crewLoad crew bad) s = .next t ∧ muted t (uCrew crew) = true ∧ unitState t (uCrew crew) = 2 ∧
          fget t F.fabEventFault = 1 ∧ RegsKept s t [F.fabEventFault.bits 0] ∧ Raised t 0x23 [5, (crew : Int), 0x0B] ∧
          EventsOnly { s with regs := t.regs, fab := { s.fab with
            loads := t.fab.loads, seats := t.fab.seats, items := t.fab.items, units := t.fab.units, mutes := t.fab.mutes } } t)) ∧
    (∀ crew bad, s.md.prep = none → exec (.crewLoad crew bad) s = .next s) ∧
    (s.md.prep = none → exec .modePrepDone s = .next s) ∧
    (∀ p, s.md.prep = some p → p.ready = false → coxRuns s = true → p.target ≠ .dormant →
      (activeMode p.target = false →
        exec .modePrepDone s = .next { s with md := { s.md with prep := some { p with ready := true } } }) ∧
      (activeMode p.target = true → (p.stopped = false ∨ settling s = true) → exec .modePrepDone s = .next s) ∧
      (activeMode p.target = true → p.stopped = true → settling s = false →
        ∃ t, exec .modePrepDone s = .next t ∧ t.md = { s.md with prep := some { p with ready := true } } ∧ unloaded t = [] ∧
          t.rf = s.rf ∧ t.fh = s.fh ∧ t.tm = s.tm ∧ t.caveMem = s.caveMem)) ∧
    (∀ half, strokesRun s = false ∨ (half ≠ 0 ∧ ¬(half = 1 ∧ isSplit s = true)) → exec (.stroke half) s = .next s) ∧
    (isSplit s = true → strokesRun s = true →
      ∃ t, exec (.stroke 1) s = .next t ∧ t.md = s.md ∧ t.tm = s.tm ∧ t.th = s.th ∧ t.sramMem = s.sramMem ∧
        t.pw = { s.pw with
          txHeld := if coxRuns s && s.pw.refPll && s.pw.cpll then (s.pw.txHeld.1, false) else s.pw.txHeld } ∧
        ∀ x ∈ t.fh.sections, x.half = 1 → strokeSlot s 1 ≤ slotNear s 1 x.slot + 2) ∧
    (strokesRun s = true → s.md.stepStop = none → s.tm.step = none →
      (s.md.prep = none ∨ coxRuns s = false →
        ∃ t, exec (.stroke 0) s = .next t ∧ t.md = s.md ∧ t.tm = s.tm ∧ t.th = s.th ∧ t.sramMem = s.sramMem ∧
          t.pw = { s.pw with
            txHeld := if coxRuns s && s.pw.refPll && s.pw.cpll then (if isSplit s then (false, s.pw.txHeld.2) else (false, false))
              else s.pw.txHeld } ∧
          ∀ x ∈ t.fh.sections, x.half = 0 → strokeSlot s 0 ≤ slotNear s 0 x.slot + 2) ∧
      (∀ p, s.md.prep = some p → coxRuns s = true → activeMode p.target = true → p.stopped = false → p.ready = false →
        ∃ t, exec (.stroke 0) s = .next t ∧ t.md = { s.md with prep := some { p with stopped := true } } ∧ t.tm = s.tm ∧
          (activeMode s.md.mode = true → t.fh.sections = [] ∧ t.fab.items = [] ∧ t.fab.symbols = [])) ∧
      (∀ p h, s.md.prep = some p → coxRuns s = true → p.target ≠ .dormant → p.ready = true → onTargetGrid s p = true → p.recheck = none →
        p.cmd = some h →
        ∃ t, exec (.stroke 0) s = .next t ∧ t.md.mode = p.target ∧ t.md.prep = none ∧ t.md.effectiveNow = s.tm.now ∧
          (activeMode p.target = true → t.md.full = p.full ∧ (p.full ≠ {} → tget {} t.md.stored (modeCode p.target) = p.full)) ∧
          t.md.stepdownCnt = s.md.stepdownCnt ∧ t.tm = s.tm ∧ t.fab.symbols = [] ∧ t.fh.sections = []) ∧
      (∀ p h k, s.md.prep = some p → coxRuns s = true → p.target ≠ .dormant → p.ready = true → onTargetGrid s p = true →
        p.recheck = some k →
        p.cmd = some h →
        ∃ t, exec (.stroke 0) s = .next t ∧ t.md.prep = none ∧ t.md.dropCnt = s.md.dropCnt ∧
          t.md.mode = (if p.stopped = true ∧ activeMode s.md.mode = true then .standby else s.md.mode)) ∧
      (∀ p, s.md.prep = some p → coxRuns s = true → p.target ≠ .dormant → p.ready = true → onTargetGrid s p = true → p.cmd = none →
        ∃ t, exec (.stroke 0) s = .next t ∧ t.md.prep = none ∧ t.md.mode = (if p.recheck = none then p.target else .standby) ∧
          t.md.stepdownCnt = satN 32 (s.md.stepdownCnt + 1) ∧ t.md.lastStepdown = s.tm.uptime)) ∧
    (∀ w, strokesRun s = true → coxRuns s = false → s.md.stepStop = none → s.tm.step = some w →
      ∃ t, exec (.stroke 0) s = .next t ∧ t.tm = s.tm ∧ t.md = s.md) ∧
    (∀ d dst op, strokesRun s = true → coxRuns s = true → s.md.stepStop = none → s.tm.step = some (d, dst, op) →
      ∃ t, exec (.stroke 0) s = .next t ∧
        t.tm.counter = ((s.tm.counter : Int) + d).toNat % (2 ^ 48 * 1000000000 * 65536) ∧ t.tm.step = none ∧ t.tm.stepDone = op ∧
        t.md = { s.md with stepStop := some ((t.tm.counter + 65535) / 65536 + 2000000) } ∧ t.fh.sections = [] ∧ t.fh.dlData = [] ∧
        t.fab.symbols = [] ∧ t.fab.items = [] ∧ t.rf = s.rf ∧
        t.cal = (quietTx s (List.range 64)).cal ∧ t.caveMem = s.caveMem)

/-- A housekeeping round, at every 80th uptime count, records the readings, the lowest VIN and the mean IIN (rounded down: log entry 198)
among them; with Cox running it judges the sensors, brings the thermal settings into force, opens
WARNING where a die is hot, and starts the slack minima anew. -/
def Obligations.HousekeepingRoundsJudgeTheReadings : Prop :=
  (∀ (s : State) (hk : HkSample), s.tm.uptime % 80 ≠ 0 → exec (.housekeepingRound hk) s = .next s) ∧
  (∀ (hk : HkSample), (roundValues hk).length = 96 ∧
    (∀ i, i < 88 → i ≠ 24 → i ≠ 25 → nth 0 (roundValues hk) i = nth 0 hk.values i) ∧
    (hk.vin ≠ [] → nth 0 (roundValues hk) 24 ∈ hk.vin ∧ ∀ x ∈ hk.vin, nth 0 (roundValues hk) 24 ≤ x) ∧
    (hk.iin.length = 16 → nth 0 (roundValues hk) 25 = hk.iin.sum / 16) ∧
    (∀ i, 88 ≤ i → nth 0 (roundValues hk) i = 0)) ∧
  (∀ (s : State) (hk : HkSample), s.tm.uptime % 80 = 0 →
    (s.md.mode = .dormant → s.pw.tripPending = false → exec (.housekeepingRound hk) s = .next { s with th := { s.th with
      codes := hkChannels 0 hk.codes, values := roundValues hk } }) ∧
    (s.md.mode ≠ .dormant → s.md.mode ≠ .shutdown → s.pw.power = .on → (coxRuns s = false ∨ s.md.mode = .recovery) →
      ∃ t, exec (.housekeepingRound hk) s = .next t ∧ t = { s with th := t.th } ∧ t.th.codes = hkChannels 0 hk.codes ∧
        t.th.values = roundValues hk ∧ t.th.farRuns = [] ∧ t.th.broken = s.th.broken ∧ t.th.warning = s.th.warning ∧
        t.th.alert = s.th.alert ∧ t.th.next = none ∧ (s.th.next = none → t.th.pinLimit = s.th.pinLimit ∧ t.th.warnT = s.th.warnT) ∧
        (∀ q, s.th.next = some q → t.th.pinLimit = q.pinLimit.getD s.th.pinLimit ∧ t.th.riseLimit = q.riseLimit.getD s.th.riseLimit ∧
          t.th.warnT = q.warnT.getD s.th.warnT ∧ t.th.stepInt = q.stepInt.getD s.th.stepInt)) ∧
    (s.md.mode = .shutdown →
      ∃ t, exec (.housekeepingRound hk) s = .next t ∧
        (∀ i, i < 96 → nth 0 t.th.codes i =
          if i < 24 ∨ s.pw.power ≠ .shutdown then nth 0 (hkChannels 0 hk.codes) i else nth 0 s.th.codes i) ∧
        (∀ i, i < 96 → nth 0 t.th.values i =
          if i < 24 ∨ s.pw.power ≠ .shutdown then nth 0 (roundValues hk) i else nth 0 s.th.values i) ∧
        t.th.next = none ∧ (∀ q, s.th.next = some q → t.th.pinLimit = q.pinLimit.getD s.th.pinLimit) ∧
        t.md = s.md ∧ t.tm = s.tm ∧ t.caveMem = s.caveMem ∧
        t.pw.coolRounds = (if ∀ i, i < 24 → sensorBroken s i = true ∨ nth 0 hk.values i < 1100 then s.pw.coolRounds + 1 else 0)) ∧
    (s.md.mode ≠ .dormant → s.md.mode ≠ .shutdown → s.pw.power = .on → coxRuns s = true → s.md.mode ≠ .recovery →
      ∃ t, exec (.housekeepingRound hk) s = .next t ∧ t.th.codes = hkChannels 0 hk.codes ∧ t.th.values = roundValues hk ∧
        (∀ i, i < 24 → (t.th.broken.testBit i = true ↔ sensorBroken s i = true ∨ nth 0 hk.values i < -500 ∨ 1500 < nth 0 hk.values i ∨
          3 ≤ farRun { s with th := { s.th with values := roundValues hk } } i)) ∧
        t.th.next = none ∧
        (∀ q, s.th.next = some q → t.th.pinLimit = q.pinLimit.getD s.th.pinLimit ∧ t.th.riseLimit = q.riseLimit.getD s.th.riseLimit ∧
          t.th.warnT = q.warnT.getD s.th.warnT ∧ t.th.stepInt = q.stepInt.getD s.th.stepInt) ∧
        (s.th.warning = false → (t.th.warning = true ↔ ∃ i v, i < 24 ∧ i % 6 < 4 ∧
          sensorValueOf t.th.values s.th.broken t.th.broken i = some v ∧ 10 * (t.th.warnT : Int) ≤ v)) ∧
        t.fab.slackMin = [none, none, none, none] ∧ t.fab.cutInRound = false ∧ t.md.mode = s.md.mode ∧
        (s.ws.ageingDue = false → t.caveMem = s.caveMem) ∧ t.sramMem = s.sramMem))

/-- A symbol starts once: its uplink data is taken from the ADCs, or from the downlink under FREQ, through the front end and the OFDM
engine, pilots reach their estimation items, every PRB that a section covers gets its items on the crew that its slot's configuration
gives it, and a symbol cut with work left is repeated on downlink or dropped on uplink, and counted. -/
def Obligations.SymbolsStartAndAreCut : Prop :=
  ∀ (s : State) (d : Dir) (half : Nat) (tag : TimeTag) (samples : List (Nat × List Cplx)), Canonical s → Orderly s →
    (symbolOk s d half tag = false ∨ (∃ r ∈ s.fab.symbols, r.dir = d ∧ r.half = half ∧ r.tag = tag) →
      exec (.symbolStart d half tag samples) s = .next s) ∧
    (symbolOk s d half tag = true → (∀ r ∈ s.fab.symbols, ¬(r.dir = d ∧ r.half = half ∧ r.tag = tag)) →
      ∃ t, exec (.symbolStart d half tag samples) s = .next t ∧ t.md = s.md ∧ t.tm = s.tm ∧ t.pw = s.pw ∧ t.cal = s.cal ∧
        t.sramMem = s.sramMem ∧ (∀ i ∈ s.fab.items, i ∈ t.fab.items) ∧
        (covering s d half tag = [] → t.fab.symbols = s.fab.symbols) ∧
        (covering s d half tag ≠ [] → ∃ r ∈ t.fab.symbols, r.dir = d ∧ r.half = half ∧ r.tag = tag) ∧
        (∀ v, v = viewFor (holdChanges s half tag) half tag →
          ∀ x ∈ covering s d half tag, ∀ b c, x.prbStart ≤ b → b < x.prbStart + x.prbCnt → b < carrierPrbs s half →
          crewOfPrb v half b = some c → unitWorks v (uCrew c) = true →
          (d = .dl → ∃ i ∈ t.fab.items, i.crew = c ∧ i.kind = 1 ∧ i.dir = d ∧ i.half = half ∧ i.tag = tag ∧ i.index = b ∧
            i.deadline = cutOf s d half tag) ∧
          (d = .ul → (∃ i ∈ t.fab.items, i.crew = c ∧ i.kind = 2 ∧ i.dir = d ∧ i.half = half ∧ i.tag = tag ∧ i.index = b) ∧
            ∃ i ∈ t.fab.items, i.crew = c ∧ i.kind = 3 ∧ i.dir = d ∧ i.half = half ∧ i.tag = tag ∧ i.index = b)) ∧
        (∀ v vals, d = .ul → v = viewFor (holdChanges s half tag) half tag → vals = (receiveSymbol s half tag samples).2 →
          (∀ e ∈ vals, rxWorks v e.1 = true → ∀ x ∈ covering s d half tag, ∀ b, x.prbStart ≤ b → b < x.prbStart + x.prbCnt →
            b < carrierPrbs s half →
            ({ half := half, tag := tag, unit := e.1, prb := b, vals := prbVals e.2 b } : PrbData) ∈ t.fab.ulIn) ∧
          (∀ e ∈ t.fab.ulIn, e.half = half → e.tag = tag → tag ≠ prevTag s half tag → rxWorks v e.unit = true) ∧
          t.fab.est = s.fab.est.map (takePilot half tag (vals.filter fun e => rxWorks v e.1)) ∧
          (∀ i ∈ s.fab.est, pilotHere half tag i = true → i.symsLeft = i.pilot.nsym →
            ∃ r ∈ t.ws.reads, r.est = some i.id ∧ r.user = i.user ∧ r.half = i.half ∧ r.slot = i.slot))) ∧
    (∀ p ∈ halfPaths s half, tget 0 s.rf.loopback (p / 16) = 1 →
      ∃ e ∈ (receiveSymbol s half tag samples).2, e.1 = p ∧ e.2 = loopedValues s half tag p) ∧
    (∀ p codes n ratio len adc fe bins, (∀ g, tget 0 s.rf.loopback g = 0) → p ∈ halfPaths s half → samples = [(p, codes)] →
      n = nFft s half → ratio = 491520 / max 1 (rateOfPath s p) → len = ratio * (cpOf s half tag + n) →
      adc = (if (groupsReceived s half tag).contains (p / 16) || rxCaptured s p then
        (codes.take len ++ List.replicate (len - codes.length) CplxOps.zero).map (CplxOps.mapParts adcWord) else []) →
      fe = (rxFrontEnd (s.freeCnt + 1) ratio (ncoWord (ofHalf s.rf.ncoF half) 491520) (sampleNo s half tag 491520) adc).1 →
      bins = (ofdmRx
        (if (groupsReceived s half tag).contains (p / 16) && rxHeard s half tag p then
          (List.range n).map fun i => cnth fe (cpOf s half tag - ofHalf s.rf.fftAdvF half + i) else List.replicate n CplxOps.zero)
        n (ofHalf s.rf.ofdmUlF half) (ofHalf s.rf.fftAdvF half) (-(phaseOf s half tag p).1, (phaseOf s half tag p).2)).1 →
      (receiveSymbol s half tag samples).2 = [(p, carrierOf bins n (carrierPrbs s half))]) ∧
    ((∀ r ∈ s.fab.symbols, ¬(r.dir = d ∧ r.half = half ∧ r.tag = tag)) → exec (.symbolCut d half tag) s = .next s) ∧
    (∀ r ∈ s.fab.symbols, r.dir = d → r.half = half → r.tag = tag →
      (∀ q ∈ s.fab.symbols, q.dir = d → q.half = half → q.tag = tag → q = r) →
      (r.cut = true → exec (.symbolCut d half tag) s = .next s) ∧
      (r.cut = false → (∃ i ∈ s.fab.items, i.kind ≤ 3 ∧ i.dir = d ∧ i.half = half ∧ i.tag = tag) →
        ∃ t, exec (.symbolCut d half tag) s = .next t ∧
          (∀ q, q ∈ t.fab.symbols ↔ q ∈ s.fab.symbols ∧ ¬(q.dir = d ∧ q.half = half ∧ q.tag = tag)) ∧
          (∀ i, i ∈ t.fab.items ↔ i ∈ s.fab.items ∧ ¬(i.kind ≤ 4 ∧ i.dir = d ∧ i.half = half ∧ i.tag = tag)) ∧
          fget t F.fabEventSlip = 1 ∧
          (d = .dl → fget t F.dlRepeatCnt = satN 32 (fget s F.dlRepeatCnt + (cutPaths s .dl half).length) ∧
            ∀ e, e ∈ t.fab.dlOut ↔ (e ∈ s.fab.dlOut ∧ ¬(e.half = half ∧ e.tag = tag)) ∨
              ∃ f ∈ s.fab.dlOut, f.half = half ∧ f.tag = prevTag s half tag ∧ e = { f with tag := tag }) ∧
          (d = .ul → fget t F.ulDropCnt = satN 32 (fget s F.ulDropCnt + (cutPaths s .ul half).length) ∧
            ∀ e, e ∈ t.fab.ulOut ↔ e ∈ s.fab.ulOut ∧ ¬(e.half = half ∧ e.tag = tag)) ∧
          (slackKey d half < s.fab.slackMin.length → t.fab.slackMin[slackKey d half]? = some (some 0)) ∧
          (∀ c k, k < 64 →
            ((∃ i ∈ s.fab.items, (i.kind = 2 ∨ i.kind = 3) ∧ i.dir = d ∧ i.half = half ∧ i.tag = tag ∧ i.crew = c) →
              (seatOf t (64 * c + k)).rin = [] ∧ (seatOf t (64 * c + k)).red = none) ∧
            ((∀ i ∈ s.fab.items, i.kind = 2 ∨ i.kind = 3 → i.dir = d → i.half = half → i.tag = tag → i.crew ≠ c) →
              (seatOf t (64 * c + k)).rin = (seatOf s (64 * c + k)).rin ∧
              (seatOf t (64 * c + k)).red = (seatOf s (64 * c + k)).red)) ∧
          RegsKept s t [F.fabEventSlip.bits 0, F.dlRepeatCnt.bits 0, F.ulDropCnt.bits 0] ∧
          EventsOnly { s with regs := t.regs, fab := { s.fab with
            items := t.fab.items, seats := t.fab.seats, symbols := t.fab.symbols, slackMin := t.fab.slackMin, cutInRound := true,
            dlOut := t.fab.dlOut, ulOut := t.fab.ulOut, dlRepeat := t.fab.dlRepeat, ulDrop := t.fab.ulDrop } } t) ∧
      (∀ f, r.cut = false → r.finished = some f →
        (∀ i ∈ s.fab.items, ¬(i.kind ≤ 3 ∧ i.dir = d ∧ i.half = half ∧ i.tag = tag)) →
        ∃ t, exec (.symbolCut d half tag) s = .next t ∧
          t = { s with fab := { s.fab with
            slackMin := t.fab.slackMin, symbols := t.fab.symbols, items := t.fab.items, seats := t.fab.seats } } ∧
          (∀ i, i ∈ t.fab.items ↔ i ∈ s.fab.items ∧ ¬(i.kind ≤ 4 ∧ i.dir = d ∧ i.half = half ∧ i.tag = tag)) ∧
          ((∀ i ∈ s.fab.items, i.running = false) → t.fab.seats = s.fab.seats) ∧
          (∀ q, q ∈ t.fab.symbols ↔ (q ∈ s.fab.symbols ∧ ¬(q.dir = d ∧ q.half = half ∧ q.tag = tag)) ∨
            (d = .ul ∧ r.sent = false ∧ q = { r with cut := true })) ∧
          ∀ m, s.fab.slackMin[slackKey d half]? = some m → t.fab.slackMin[slackKey d half]? = some (some (match m with
            | none => ticksOf (cutOf s d half tag - f)
            | some k => min k (ticksOf (cutOf s d half tag - f))))))

/-- A symbol boundary switches the groups of its half as their patterns say, and gives each TX path its samples: its downlink values
through the OFDM engine, the actuator and the digital gain, zeros where the path may not transmit; FREQ diverts the values to the
uplink. -/
def Obligations.SymbolBoundariesDriveTheTxPaths : Prop :=
  ∀ (s : State) (half : Nat) (tag : TimeTag), Canonical s → Orderly s →
    (activeMode s.md.mode = false ∨ tagValid (gridMu s half) tag = false → exec (.symbolBoundary half tag) s = .next s) ∧
    (activeMode s.md.mode = true → (half = 0 ∨ (half = 1 ∧ isSplit s = true)) → tagValid (gridMu s half) tag = true →
      ∃ t, exec (.symbolBoundary half tag) s = .next t ∧ t.md = s.md ∧ t.fh = s.fh ∧ t.ws = s.ws ∧ t.tm = s.tm ∧ t.pw = s.pw ∧
        t.caveMem = s.caveMem ∧ t.fab.dlOut = s.fab.dlOut ∧ t.fab.items = s.fab.items ∧
        (∀ g ∈ groupsOf s half,
          (followsPattern s g = true → rsm t g = stateOfCode (codeOf s g (slotNear s half tag) tag.symbol)) ∧
          (followsPattern s g = false → rsm t g = rsm s g)) ∧
        t.rf.rxSymbols = ((half, tag, (groupsOf s half).filter (fun g => inRx (rsm t g)),
          (halfPaths s half).filter fun p => !rxWorks s p) :: s.rf.rxSymbols).take 8 ∧
        (∀ p ∈ halfPaths s half, absentTx s p = false → tget 0 s.rf.loopback (p / 16) ≠ 1 →
          ∀ l x clips y sat hist, l = s.fab.dlOut.filter (fun e => decide (e.half = half ∧ e.tag = tag ∧ e.unit = p)) →
            (x, clips) = ofdmTx (binsOf l (nFft s half) (carrierPrbs s half)) (nFft s half) (ofHalf s.rf.ofdmDlF half) (cpOf s half tag)
              (phaseOf s half tag p) →
            (y, sat, hist) = actuateSymbol s p x →
            tget [] t.cal.txOut p =
              if txOpen t p then y.map (scaleTx (digGainOf s p)) else List.replicate y.length CplxOps.zero) ∧
        (∀ p ∈ halfPaths s half, absentTx s p = false → tget 0 s.rf.loopback (p / 16) = 1 →
          tget [] t.cal.txOut p = [] ∧ ∀ e ∈ s.fab.dlOut, e.half = half → e.tag = tag → e.unit = p → e ∈ t.fab.loopIn))

/-- A crew without a running item starts its best ready one of class 1 on the seats of its kind, each with its queue, registers and
PC as the item gives them; where none is ready, an estimation item whose pilots have come, and then a chunk of the class 3 work that
stands at it; else it starts nothing. -/
def Obligations.CrewsDispatchTheirBestItem : Prop :=
  ∀ (s : State) (crew : Nat) (best : Option Item),
    best = bestOf itemBefore (s.fab.items.filter fun i => decide (i.crew = crew ∧ (i.kind ≤ 4 ∨ i.kind = 6)) && itemReady s i) →
    (planeStopped s = true ∨ 32 ≤ crew ∨ unitWorks s (uCrew crew) = false ∨ (∃ i ∈ s.fab.items, i.crew = crew ∧ i.running = true) →
      exec (.itemDispatch crew) s = .next s) ∧
    (planeStopped s = false → crew < 32 → unitWorks s (uCrew crew) = true →
      (∀ j ∈ s.fab.items, ¬(j.crew = crew ∧ j.running = true)) →
      (∀ i r, best = some i → r = (if i.kind ≤ 2 then (itemSections s i).foldl checkFormed s else s) →
        ∃ t, exec (.itemDispatch crew) s = .next t ∧ ItemStarted r t i ∧
          ((∀ x ∈ itemSections s i, ∀ f ∈ s.fab.formed, isFormedOf x f = true → x.sector = true ∨
            bufMarked s bufFormed (formedKey f) = false) →
            r = s)) ∧
      (∀ e i r, best = none → ¬(crew = 31 ∧ crewReserved s = true) → nextEstimate s = some e →
        i = { id := s.fab.nextItem, crew := crew, kind := 5, half := e.half, dir := .ul, tag := e.slot, index := e.prbStart, ref := e.id,
              deadline := 0 } →
        r = { s with fab := { s.fab with nextItem := s.fab.nextItem + 1, items := s.fab.items ++ [i] } } →
        ∃ t, exec (.itemDispatch crew) s = .next t ∧ ItemStarted r t i) ∧
      (∀ i r, best = none → ((crew = 31 ∧ crewReserved s = true) ∨ nextEstimate s = none) → chunkWaits s crew = true →
        i = { id := s.fab.nextItem, crew := crew, kind := 7, half := 0, dir := .dl, tag := tagOfSlot (gridMu s 0) (slotNow s 0) 0,
              index := 0, ref := 0, deadline := 0 } →
        r = { s with fab := { s.fab with nextItem := s.fab.nextItem + 1, items := s.fab.items ++ [i] } } →
        ∃ t, exec (.itemDispatch crew) s = .next t ∧ ItemStarted r t i) ∧
      (best = none → ((crew = 31 ∧ crewReserved s = true) ∨ nextEstimate s = none) → chunkWaits s crew = false →
        exec (.itemDispatch crew) s = .next s))

/-- END ends the item on its seat, which discards and counts what it leaves, and with its last seat the item; the results are the
sums of products, shifted and clamped, the words of the customer's kernel, or the sums with the partial sums of the module
downstream. A seat whose item owes words leaves it open. The reduction network delivers the sum of 64 pushes, narrowed, to one
seat's RIN, and frees the input stage of every seat; it waits while a push is missing or that queue is full. -/
def Obligations.ItemsEndAndReductionsDeliver : Prop :=
  (∀ (s : State) (q : SeatFetch) (b e : Seat) (c : Nat) (whole : Bool), Canonical s → Orderly s → seatRuns s q.n = true →
    SeatTakes s q (.seatEnd q) 1 → b = seatOf s q.n → c = q.n / 64 →
    whole = decide (b.hcnt = 0 ∧ ¬(b.kind = 2 ∧ customerCrew s c = true)) →
    e = { b with running := false, loops := [], inq := [], feed := [], hcnt := b.hcnt + 1, lastSet := none } →
    (whole = true → b.kind = 3 → customerCrew s c = true → b.rin.length < 12 →
      ∃ t, exec (.seatEnd q) s = .next t ∧ SeatTook s t q b) ∧
    (whole = false → (b.kind = 2 ∧ b.pushes < 12 * b.nb) ∨ (b.kind = 3 ∧ b.outs < 13) →
      ∃ t, exec (.seatEnd q) s = .next t ∧ SeatTook s t q e ∧ t.fab.items = s.fab.items) ∧
    (∀ i, (whole = true → b.kind = 3 → customerCrew s c = true → 12 ≤ b.rin.length) →
      (whole = false → ¬(b.kind = 2 ∧ b.pushes < 12 * b.nb) ∧ ¬(b.kind = 3 ∧ b.outs < 13)) →
      (s.fab.items.find? fun j => decide (j.crew = c) && j.running && j.seatsLeft.contains (q.n % 64)) = some i →
      ((∃ k ∈ i.seatsLeft, k ≠ q.n % 64) →
        ∃ t, exec (.seatEnd q) s = .next t ∧ CorrCounted s t q 0 ∧
          t = { s with fab := { s.fab with
            items := t.fab.items, seats := t.fab.seats, seatProto := t.fab.seatProto, seatCorr := t.fab.seatCorr } } ∧
          seatOf t q.n = e ∧ (∀ k, k ≠ q.n → seatOf t k = seatOf s k) ∧
          (tget 0 s.fab.seatProto c < 2 ^ 32 → tget 0 t.fab.seatProto c = satN 32 (tget 0 s.fab.seatProto c +
            (if whole then 0 else b.inq.length + b.feed.length + (if b.kind = 3 then b.rin.length else 0)))) ∧
          t.fab.items = s.fab.items.map fun j => if j.id = i.id then
            { i with seatsLeft := i.seatsLeft.filter fun k => decide (k ≠ q.n % 64) } else j) ∧
      ((∀ k ∈ i.seatsLeft, k = q.n % 64) →
        ∃ t, exec (.seatEnd q) s = .next t ∧ t.md = s.md ∧ t.tm = s.tm ∧ t.rf = s.rf ∧
          (∀ j ∈ s.fab.items, j.id ≠ i.id → j ∈ t.fab.items) ∧
          (∀ j ∈ t.fab.items, j.kind = 6 ∨ (j ∈ s.fab.items ∧ j.id ≠ i.id)) ∧
          (∀ k ∈ seatsOf i.kind b.nb, ∀ u, u = (if k = q.n % 64 then e else seatOf s (64 * c + k)) →
            seatOf t (64 * c + k) = { u with out := [], rin := if u.kind = 3 then [] else u.rin }) ∧
          (itemLeaked s i = false → ∀ v, v = itemView s i →
            (i.kind = 1 → t.ccp = s.ccp ∧ t.caveMem = s.caveMem ∧
              ∀ p ∈ halfPaths v i.half, txWorks v p = true → ∃ o ∈ t.fab.dlOut, o.half = i.half ∧ o.tag = i.tag ∧ o.unit = p ∧
                o.prb = i.index ∧ o.vals = (List.range 12).map fun k => (beamform ((itemSections s i).map fun x =>
                  (cnth (weightsAt v x i.index) p, cnth (dlInput v i x) k)) (shiftOf v .dl i.half)).1) ∧
            (i.kind = 2 → customerCrew s c = false →
              (waitsDown s = false ∨ ∃ k, crewOfPrb v i.half i.index = some k ∧ unitWorks v (uCrew k) = true) →
              ∀ x ∈ itemSections s i, beamWorks v .ul i.half x.beam = true →
              ∃ o ∈ t.fab.ulOut, o.half = i.half ∧ o.tag = i.tag ∧ o.unit = x.beam ∧ o.prb = i.index ∧ o.id = x.id ∧
                o.poison = decide (ulMarked s i ≠ 0) ∧
                o.vals = (List.range 12).map fun k => (beamform ((halfPaths v i.half).map fun p =>
                  (cnth (weightsAt v x i.index) p, cnth (ulInput v i p) k)) (shiftOf v .ul i.half)).1) ∧
            (i.kind = 3 → customerCrew s c = true →
              (waitsDown s = false ∨ ∃ k, crewOfPrb v i.half i.index = some k ∧ unitWorks v (uCrew k) = true) →
              (∀ x ∈ itemSections s i, ∀ r ∈ exponentWords (seatOf s (64 * c + x.beam)), r.mark = false) →
              ∀ x ∈ itemSections s i, beamWorks v .ul i.half x.beam = true →
              ∃ o ∈ t.fab.ulOut, o.half = i.half ∧ o.tag = i.tag ∧ o.unit = x.beam ∧ o.prb = i.index ∧ o.id = x.id ∧
                o.vals = (exponentWords (seatOf s (64 * c + x.beam))).map fun r => unpackCplx r.val) ∧
            (i.kind = 6 → ∀ x ∈ itemSections s i, ∀ own add,
              own = (match s.fab.ulOut.find? fun d => decide (d.half = i.half ∧ d.tag = i.tag ∧ d.unit = x.beam ∧ d.prb = i.index) with
                | some d => CplxOps.parts d.vals
                | none => List.replicate 24 0) →
              add = (match partialOf s i.half i.tag x.id i.index with
                | some d => if d.bad then List.replicate 24 0 else CplxOps.parts d.vals
                | none => List.replicate 24 0) →
              ∃ o ∈ t.fab.ulOut, o.half = i.half ∧ o.tag = i.tag ∧ o.unit = x.beam ∧ o.prb = i.index ∧ o.id = x.id ∧
                o.vals = cplxOf (List.zipWith (fun a d => max (-8388608) (min 8388607 (a + d))) own add)))))) ∧
  (∀ (s : State) (crew k : Nat) (l : List RedPush) (p : RedPush), Canonical s → Orderly s →
    l = (List.range 64).filterMap (fun j => (seatOf s (64 * crew + j)).red) → l.head? = some p → k = p.index % p.nb →
    (l.length ≠ 64 ∨ p.nb = 0 → exec (.reductionDelivery crew) s = .next s) ∧
    (l.length = 64 → 0 < p.nb → 16 ≤ (seatOf s (64 * crew + k)).rin.length → exec (.reductionDelivery crew) s = .next s) ∧
    (l.length = 64 → 0 < p.nb → k < 64 → (seatOf s (64 * crew + k)).rin.length < 16 →
      ∃ t w x y, exec (.reductionDelivery crew) s = .next t ∧
        t = { s with regs := t.regs, fab := { s.fab with seats := t.fab.seats } } ∧
        (∀ j, j < 64 → seatOf t (64 * crew + j) = { seatOf s (64 * crew + j) with
          red := none, rin := (seatOf s (64 * crew + j)).rin ++ (if j = k then [w] else []) }) ∧
        (∀ n, n / 64 ≠ crew → seatOf t n = seatOf s n) ∧ (w.mark = true ↔ ∃ r ∈ l, r.mark = true) ∧
        x = (l.foldl (fun a (r : RedPush) => a + r.re) 0).toInt / 2 ^ p.shf ∧
          y = (l.foldl (fun a (r : RedPush) => a + r.im) 0).toInt / 2 ^ p.shf ∧
        (wordH w.val).toInt = max (-32768) (min 32767 x) ∧ (wordL w.val).toInt = max (-32768) (min 32767 y) ∧
        RegsKept s t [F.fabSatCnt.bits 0] ∧
        fget t F.fabSatCnt = (if customerCrew s crew then satN 32 (fget s F.fabSatCnt + (if x < -32768 ∨ 32767 < x then 1 else 0) +
          (if y < -32768 ∨ 32767 < y then 1 else 0)) else fget s F.fabSatCnt))) ∧
  (∀ (s : State) (crew : Nat), (∀ j, j < 64 → (seatOf s (64 * crew + j)).red = none) → exec (.reductionDelivery crew) s = .next s)

/-- P0 lookups find the LIVE or STALE entry of a tag in its bucket, or miss; estimates below EST_MIN_Q are discarded and others wait
for their stroke; an expired item is abandoned; the ageing walk marks what has been idle too long and counts the rest. -/
def Obligations.WeightStoreLooksUpEstimatesAndAges : Prop :=
  ∀ (s : State), Canonical s →
    (fget s F.caveStatusSelfRefresh = 1 ∨ servedRead s = none ∨ lookupTurn s = false → ∀ l, exec (.lookupDone l) s = .next s) ∧
    (∀ r l, servedRead s = some r → r.est = none → 1024 ≤ pfLevel s → exec (.lookupDone l) s = .next s) ∧
    (∀ r, fget s F.caveStatusSelfRefresh = 0 → servedRead s = some r → (r.est = none → pfLevel s < 1024) → NoWritesQueued s →
      lookupTurn s = true →
      (∀ j, j < 72 → tget false s.cavePoison (72 * bucketOf r.user + j) = false) →
      ∃ t, exec (.lookupDone []) s = .next t ∧ t.ws.reads = s.ws.reads.erase r ∧ t.caveMem = s.caveMem ∧ t.md = s.md ∧ t.fh = s.fh ∧
        t.tm = s.tm ∧
        (∀ w e, w < 8 → e = entryOf (memSlice s.caveMem (wayAddr (bucketOf r.user) w) 288) → e.tag = r.user → e.holds = true →
          (∀ v f, v < w → f = entryOf (memSlice s.caveMem (wayAddr (bucketOf r.user) v) 288) → ¬(f.tag = r.user ∧ f.holds = true)) →
          (r.est = none → t.ws.prefetch = s.ws.prefetch ++
            [{ user := r.user, half := r.half, slot := r.slot, result := .hit w, coef := e.coef, quality := e.quality }] ∧
            tget 0 t.ws.counters wcHit = satN 32 (tget 0 s.ws.counters wcHit + 1)) ∧
          (∀ id, r.est = some id →
            t.fab.est = s.fab.est.map fun i => if i.id = id then { i with lookup := some (.hit w, e.updCnt) } else i)) ∧
        ((∀ w e, w < 8 → e = entryOf (memSlice s.caveMem (wayAddr (bucketOf r.user) w) 288) → ¬(e.tag = r.user ∧ e.holds = true)) →
          (r.est = none → t.ws.prefetch = s.ws.prefetch ∧ t.ws.results = s.ws.results ++ [(r.user, r.half, r.slot, .miss)] ∧
            tget 0 t.ws.counters wcMiss = satN 32 (tget 0 s.ws.counters wcMiss + 1)))) ∧
    (∀ r, fget s F.caveStatusSelfRefresh = 0 → servedRead s = some r → r.est = none → pfLevel s < 1024 → NoWritesQueued s →
      lookupTurn s = true →
      (∀ w, w < 8 → tget false s.cavePoison (72 * bucketOf r.user + 9 * w) = true) →
      ∃ t, exec (.lookupDone []) s = .next t ∧ t.ws.reads = s.ws.reads.erase r ∧ t.caveMem = s.caveMem ∧
        t.ws.prefetch = s.ws.prefetch ++
          [{ user := r.user, half := r.half, slot := r.slot, result := .poison, coef := [], quality := 0 }]) ∧
    (∀ i, (s.fab.est.find? fun j => decide (j.id = i.id)) = some i → ∀ lk upd, i.lookup = some (lk, upd) → i.symsLeft = 0 →
      ∃ t q f a x, exec (.estimateDone i.id) s = .next t ∧
        x = pilotValues i.pilot ((i.rx.map fun e => e.2.length).foldl max 0) ∧ a = estSums i.rx x (estPaths s i.half) ∧
        q = estQuality i.rx x (estPaths s i.half) a f ∧
        t.fab = { s.fab with est := s.fab.est.filter fun j => decide (j.id ≠ i.id) } ∧ t.caveMem = s.caveMem ∧ t.cave = s.cave ∧
        t.regs = s.regs ∧ t.ccp = s.ccp ∧ t.md = s.md ∧
        (q < s.ws.estMinQ → t.ws = { s.ws with counters := t.ws.counters } ∧
          tget 0 t.ws.counters wcLowq = satN 32 (tget 0 s.ws.counters wcLowq + 1)) ∧
        (s.ws.estMinQ ≤ q → t.ws = { s.ws with writeBacks := s.ws.writeBacks ++
          [{ half := i.half, slot := i.slot, sectionId := i.sectionId, user := i.user, lookup := lk, updCnt := upd,
             coef := normalize15 a, quality := q, heard := i.heard, wait := 1, split := isSplit s }] })) ∧
    (∀ id, (∀ i ∈ s.fab.est, i.id ≠ id ∨ i.lookup = none ∨ i.symsLeft ≠ 0) → exec (.estimateDone id) s = .next s) ∧
    (∀ i ∈ s.fab.est, slotNear s i.half i.slot + 4 ≤ strokeSlot s i.half →
      ∃ t, exec (.estAbandon i.id) s = .next t ∧
        EventsOnly { s with regs := t.regs, cave := { s.cave with panic := t.cave.panic }, fab := { s.fab with est := t.fab.est },
                            ws := { s.ws with reads := t.ws.reads } } t ∧
        t.fab.est = s.fab.est.filter (fun j => decide (j.id ≠ i.id)) ∧
        t.ws.reads = s.ws.reads.filter (fun r => decide (r.est ≠ some i.id)) ∧
        fget t F.estAbandonCnt = satN 32 (fget s F.estAbandonCnt + 1) ∧
        RegsKept s t [F.estAbandonCnt.bits 0, F.p0PanicCnt.bits 0, F.caveEventPanic.bits 0]) ∧
    (∀ id, (∀ i ∈ s.fab.est, i.id = id → strokeSlot s i.half < slotNear s i.half i.slot + 4) → exec (.estAbandon id) s = .next s) ∧
    (s.ws.ageMin = 0 ∨ s.md.mode = .boot ∨ s.md.mode = .recovery → exec .ageingWalk s = .next s) ∧
    (s.ws.ageMin ≠ 0 → s.md.mode ≠ .boot → s.md.mode ≠ .recovery →
      s.md.mode = .dormant ∨ s.md.mode = .shutdown ∨ s.ws.transfer ≠ none ∨ coxRuns s = false →
      exec .ageingWalk s = .next { s with ws := { s.ws with ageingDue := true } }) ∧
    (∀ l, s.ws.ageMin ≠ 0 → modesA s.md.mode = true → s.ws.transfer = none → coxRuns s = true → s.cavePoison = [] →
      NoWritesQueued s → l = (usedEntries s.caveMem).map (fun k => (k, entryOf (memSlice s.caveMem (288 * k) 288))) →
      ∃ t, exec .ageingWalk s = .next t ∧
        t = { s with regs := t.regs, cave := t.cave, freeCnt := t.freeCnt,
                     ws := { s.ws with live := t.ws.live, stale := t.ws.stale, marks := t.ws.marks } } ∧
        t.ws.live = (l.filter fun p => decide (p.2.state = 1) && !idleOver s p.2).length ∧
        t.ws.stale = (l.filter fun p => decide (p.2.state = 2) || (decide (p.2.state = 1) && idleOver s p.2)).length ∧
        t.ws.marks = s.ws.marks ++ (l.filter fun p => decide (p.2.state = 1) && idleOver s p.2).map fun p => (p.1 / 8, p.1 % 8, 1))

/-- The Cave's refreshes: one that falls due is performed, put behind what goes first, postponed while panic or a P0 burst lasts and
fewer than REF_CFG are owed, or forced with all that is owed; targeted refreshes become urgent oldest first; the window's end clears
the trackers of its rank. The order of service of a rank: an urgent targeted refresh first, then P0, the write queue while it
drains, an owed refresh, a targeted refresh, a request of P1 to P3, and the migration copy; a request is promoted once, and counted.
-/
def Obligations.TheCaveRefreshesAndServesInOrder : Prop :=
  (∀ (s : State) (rank : Nat), Canonical s →
    (rank < 3 → fget s F.caveStatusSelfRefresh = 0 → rank ∉ s.cave.asleep →
      (fget s F.refCfg ≤ fget s (owedFld rank) →
        ∃ t, exec (.refreshDue rank) s = .next t ∧
          t = { s with regs := t.regs, cave := { s.cave with refDue := t.cave.refDue } } ∧ fget t (owedFld rank) = 0 ∧
          fget t F.refForcedCnt = satN 32 (fget s F.refForcedCnt + 1) ∧ fget t F.caveEventRefForced = 1 ∧
          (risingFrom 0 s.cave.refDue = true → tget 0 t.cave.refDue rank = 0) ∧
          RegsKept s t [(owedFld rank).bits 0, F.refForcedCnt.bits 0, F.caveEventRefForced.bits 0]) ∧
      (fget s (owedFld rank) < fget s F.refCfg → fget s F.refCfg ≤ 8 → postponing s = true →
        ∃ t, exec (.refreshDue rank) s = .next t ∧ t = { s with regs := t.regs } ∧
          fget t (owedFld rank) = fget s (owedFld rank) + 1 ∧ fget t F.refPostponeCnt = satN 32 (fget s F.refPostponeCnt + 1) ∧
          RegsKept s t [(owedFld rank).bits 0, F.refPostponeCnt.bits 0]) ∧
      (fget s (owedFld rank) < fget s F.refCfg → postponing s = false → goesFirst s rank = true →
        ∃ t, exec (.refreshDue rank) s = .next t ∧ t = { s with cave := { s.cave with refDue := t.cave.refDue } } ∧
          tget 0 t.cave.refDue rank = tget 0 s.cave.refDue rank + 1 ∧
          ∀ k, k ≠ rank → tget 0 t.cave.refDue k = tget 0 s.cave.refDue k) ∧
      (fget s (owedFld rank) < fget s F.refCfg → postponing s = false → goesFirst s rank = false →
        exec (.refreshDue rank) s = .next s)) ∧
    (3 ≤ rank ∨ rank ∈ s.cave.asleep → exec (.refreshDue rank) s = .next s) ∧
    (fget s F.caveStatusSelfRefresh = 1 →
      exec (.refreshDue rank) s = .next s ∧ ∀ l, exec (.caveItemIssue rank l) s = .next s) ∧
    (∀ a b x, s.cave.trrs = a ++ x :: b → x.rank = rank → x.urgent = false → (∀ y ∈ a, ¬(y.rank = rank ∧ y.urgent = false)) →
      exec (.targetedRefreshUrgent rank) s = .next { s with cave := { s.cave with trrs := a ++ { x with urgent := true } :: b } }) ∧
    ((∀ x ∈ s.cave.trrs, ¬(x.rank = rank ∧ x.urgent = false)) → exec (.targetedRefreshUrgent rank) s = .next s) ∧
    (∃ t, exec (.refreshWindowEnd rank) s = .next t ∧ t = { s with cave := { s.cave with
        tracks := s.cave.tracks.filter (fun x => decide (x.rank ≠ rank)), dist2 := decide (fget s F.rhCfgRhDist2 = 1) } }) ∧
    exec .meterWindow s = .next { s with cave := { s.cave with metered := [] } }) ∧
  (∀ (s : State) (rank : Nat) (l : List WordFault), Canonical s → fget s F.caveStatusSelfRefresh = 0 →
    (∀ a b x, s.cave.trrs = a ++ x :: b → x.rank = rank → x.urgent = true → (∀ y ∈ a, ¬(y.rank = rank ∧ y.urgent = true)) →
      exec (.caveItemIssue rank l) s = .next { s with cave := { s.cave with
        trrs := a ++ b, lastTrr := some x, openRows := tset 0 s.cave.openRows (bankKey x.rank x.bank) 0 } }) ∧
    ((∀ y ∈ s.cave.trrs, ¬(y.rank = rank ∧ y.urgent = true)) →
      (p0Ready s rank = true → exec (.caveItemIssue rank l) s = .next s) ∧
      (∀ w rest, p0Ready s rank = false → drainReady s rank = true → s.cave.writes = w :: rest → s.cave.waiting = [] → s.cave.reqs = [] →
        w.data.length = 288 →
        ∃ t, exec (.caveItemIssue rank l) s = .next t ∧ t.cave.writes = rest ∧ t.cave.waiting = [] ∧
          memSlice t.caveMem (wayAddr w.bucket w.way) 288 = w.data ∧
          (∀ a, (a < wayAddr w.bucket w.way ∨ wayAddr w.bucket w.way + 288 ≤ a) → memGet t.caveMem a = memGet s.caveMem a) ∧
          t.md = s.md ∧ t.fh = s.fh ∧ t.ws = s.ws) ∧
      (p0Ready s rank = false → drainReady s rank = false → s.cave.panic = true → exec (.caveItemIssue rank l) s = .next s) ∧
      (p0Ready s rank = false → drainReady s rank = false → s.cave.panic = false →
        (rank < 3 → refreshWaits s rank = true → postponing s = false →
          ∃ t, exec (.caveItemIssue rank l) s = .next t ∧
            t = { s with regs := t.regs, cave := { s.cave with refDue := t.cave.refDue } } ∧ fget t (owedFld rank) = 0 ∧
            (risingFrom 0 s.cave.refDue = true → tget 0 t.cave.refDue rank = 0) ∧ RegsKept s t [(owedFld rank).bits 0]) ∧
        (refreshWaits s rank = false ∨ postponing s = true →
          (∀ a b x, s.cave.trrs = a ++ x :: b → x.rank = rank → (∀ y ∈ a, y.rank ≠ rank) →
            exec (.caveItemIssue rank l) s = .next { s with cave := { s.cave with
              trrs := a ++ b, lastTrr := some x, openRows := tset 0 s.cave.openRows (bankKey x.rank x.bank) 0 } }) ∧
          ((∀ y ∈ s.cave.trrs, y.rank ≠ rank) → s.cave.promoMig = false → s.cave.promoScrub = false →
            (∀ r, s.cave.reqs = [r] → canServe s rank r = true → r.write = true → r.addr % 32 = 0 → r.data.length % 32 = 0 →
              s.cave.writes = [] → s.cave.waiting = [] →
              ∃ t, exec (.caveItemIssue rank l) s = .next t ∧ t.cave.reqs = [] ∧
                memSlice t.caveMem r.addr r.data.length = r.data.map Prod.fst ∧
                (∀ a, (a < r.addr ∨ r.addr + r.data.length ≤ a) → memGet t.caveMem a = memGet s.caveMem a) ∧ t.md = s.md ∧
                t.fh = s.fh) ∧
            (NoWritesQueued s → copyReady s rank = true →
              ∃ t, exec (.caveItemIssue rank l) s = .next t ∧ t.caveMem = s.caveMem ∧ t.md = s.md ∧ t.fh = s.fh ∧
                ∀ wa next, wa = fget s F.migPos → next = wa + (if s.cave.mapOrder = 2 then 2 else 1) →
                  (next ≤ lastWordOf s.cave.mapOrder (mapAddr s.cave.mapOrder (32 * wa)).1 →
                    fget t F.migPos = next ∧ t.cave.migEnd = false) ∧
                  (lastWordOf s.cave.mapOrder (mapAddr s.cave.mapOrder (32 * wa)).1 < next →
                    fget t F.migPos = wa ∧ t.cave.migEnd = true)))))) ∧
    (∀ r ∈ s.cave.reqs, fget s F.portCfgAgeLimit ≠ 0 → 2 ≤ r.id → r.promoted = false → inQueue s r = true →
      ∃ t, exec (.agePromote r.id) s = .next t ∧
        t = { s with regs := t.regs, cave := { s.cave with reqs := s.cave.reqs.map fun q =>
          if q.id = r.id then { q with promoted := true } else q } } ∧
        fget t F.agePromoteCnt = satN 32 (fget s F.agePromoteCnt + 1) ∧ RegsKept s t [F.agePromoteCnt.bits 0]) ∧
    (fget s F.portCfgAgeLimit ≠ 0 → s.cave.promoScrub = false →
      ∃ t, exec (.agePromote 1) s = .next t ∧ t = { s with regs := t.regs, cave := { s.cave with promoScrub := true } } ∧
        fget t F.agePromoteCnt = satN 32 (fget s F.agePromoteCnt + 1) ∧ RegsKept s t [F.agePromoteCnt.bits 0]) ∧
    (∀ k, fget s F.portCfgAgeLimit = 0 → exec (.agePromote k) s = .next s))

/-- The scrubbers read word after word, the Cave's at its turn: a word without error is left as it is, a corrected one is counted,
tracked and written back, an uncorrectable one is counted, logged and written back poisoned, with what its region asks for; a migration
that ends puts rank 2 in the place of its source and completes its command. -/
def Obligations.ScrubbersWalkAndMigrationsEnd : Prop :=
  ∀ (s : State), Canonical s →
    (∀ f, scrubTurn s = false ∨ drainHeld s (32 * fget s F.scrubPos) 32 = true → exec (.scrubRead f) s = .next s) ∧
    (fget s F.scrubCfgScrubPeriod = 0 ∨ fget s F.caveStatusSelfRefresh = 1 →
      ∀ f, exec (.scrubRead f) s = .next s ∧ exec (.sramScrub f) s = .next s) ∧
    (∀ f, fget s F.scrubCfgScrubPeriod ≠ 0 → fget s F.caveStatusSelfRefresh = 0 → f.flips = [] → f.waXor = 0 →
      (fget s F.scrubPos + 1 < 2 ^ 27 → NoWritesQueued s → scrubTurn s = true →
        ∃ t, exec (.scrubRead f) s = .next t ∧ fget t F.scrubPos = fget s F.scrubPos + 1 ∧ t.caveMem = s.caveMem ∧
          t.cavePoison = s.cavePoison ∧ t.mi = s.mi ∧ t.md = s.md ∧ t.fh = s.fh ∧ t.cave.promoScrub = false) ∧
      (s.mi.sramPos < 3145728 → tget false s.sramPoison s.mi.sramPos = false →
        exec (.sramScrub f) s = .next { s with mi := { s.mi with sramPos := (s.mi.sramPos + 1) % 3145728 } })) ∧
    (∀ f wa d r b, scrubTurn s = true → NoWritesQueued s → wa = fget s F.scrubPos → wa + 1 < 2 ^ 27 → d = rankOfWord s wa → d ≤ 2 →
      rindRead caveForm s.caveMem s.cavePoison wa { f with word := wa } = (r, b) →
      (r = .corrected →
        ∃ t, exec (.scrubRead f) s = .next t ∧ fget t F.scrubPos = wa + 1 ∧ fget t F.ceCntD d = satN 32 (fget s F.ceCntD d + 1) ∧
          (wa, d) ∈ t.mi.rewrites ∧ t.caveMem = s.caveMem ∧ t.cavePoison = s.cavePoison ∧ t.md = s.md ∧ t.fh = s.fh ∧ t.ws = s.ws ∧
          ((∀ e ∈ s.mi.tracker, e.addr = 32 * wa → e.rank = d → e.state = .seen) →
            ∃ e ∈ t.mi.tracker, e.addr = 32 * wa ∧ e.rank = d ∧ e.state = .rewritten)) ∧
      (r = .ue ∨ r = .ueAddr →
        ∃ t, exec (.scrubRead f) s = .next t ∧ fget t F.scrubPos = wa + 1 ∧ fget t F.ueCntD d = satN 32 (fget s F.ueCntD d + 1) ∧
          t.mi.ueBacks = s.mi.ueBacks ++ [{ wa := wa, rank := d, bytes := b, id := s.cave.nextReq }] ∧
          t.mi.passUe = s.mi.passUe + 1 ∧ fget t F.miEventUeFound = 1 ∧ t.caveMem = s.caveMem ∧ t.cavePoison = s.cavePoison ∧
          t.md = s.md ∧ t.fh = s.fh ∧
          ∃ e ∈ t.mi.log, e.addr = 32 * wa ∧ e.sram = false ∧ e.cls = (if r = .ue then 0 else 1) ∧ e.reader = byScrubber)) ∧
    (∀ rank l, fget s F.caveStatusSelfRefresh = 0 →
      (∀ w, nextItem s rank = some (.rewrite w) →
        ∃ t, exec (.caveItemIssue rank l) s = .next t ∧ t.mi = { s.mi with rewrites := s.mi.rewrites.erase w } ∧
          t.caveMem = s.caveMem ∧ t.cavePoison = s.cavePoison ∧ t.cave.promoScrub = false ∧ t.md = s.md ∧ t.fh = s.fh) ∧
      (∀ b, nextItem s rank = some (.ueBack b) → NoWritesQueued s → b.bytes.length = 32 →
        ∃ t h, exec (.caveItemIssue rank l) s = .next t ∧ h = 0x60000000 + 65536 * ((32 * b.wa - 0x60000000) / 65536) ∧
          tget false t.cavePoison b.wa = true ∧ memSlice t.caveMem (32 * b.wa) 32 = b.bytes ∧
          (32 * b.wa < 0x48000000 → ∃ p ∈ t.ws.invals, p.1 = b.wa / 72 ∧ p.2.1 = b.wa % 72 / 9) ∧
          (0x60000000 ≤ 32 * b.wa → h + 64 ≤ 32 * b.wa → memGet t.caveMem (h + 7) = memGet s.caveMem (h + 7) ||| 0x10#8) ∧
          (32 * b.wa < 0x60000000 → t.mi.ueBacks = s.mi.ueBacks.erase b ∧
            ∀ a, (a < 32 * b.wa ∨ 32 * b.wa + 32 ≤ a) → memGet t.caveMem a = memGet s.caveMem a) ∧ t.md = s.md ∧ t.fh = s.fh) ∧
      (∀ b, nextItem s rank = some (.ueBack b) → writeQueued s b.wa = true →
        ∃ t, exec (.caveItemIssue rank l) s = .next t ∧ t.caveMem = s.caveMem ∧ t.cavePoison = s.cavePoison ∧
          ∀ x ∈ t.mi.ueBacks, x.wa ≠ b.wa)) ∧
    (∀ f b, fget s F.scrubCfgScrubPeriod ≠ 0 → fget s F.caveStatusSelfRefresh = 0 →
      rindRead sramForm s.sramMem s.sramPoison s.mi.sramPos { f with word := s.mi.sramPos } = (.corrected, b) →
      ∃ t, exec (.sramScrub f) s = .next t ∧ fget t F.sramCeCnt = satN 32 (fget s F.sramCeCnt + 1) ∧
        RegsKept s t [F.sramCeCnt.bits 0] ∧
        t = { s with regs := t.regs, mi := { s.mi with sramPos := (s.mi.sramPos + 1) % 3145728 } }) ∧
    (∀ f d b, fget s F.scrubCfgScrubPeriod ≠ 0 → fget s F.caveStatusSelfRefresh = 0 →
      rindRead sramForm s.sramMem s.sramPoison s.mi.sramPos { f with word := s.mi.sramPos } = (d, b) → d = .ue ∨ d = .ueAddr →
      b.length = 8 →
      ∃ t, exec (.sramScrub f) s = .next t ∧ tget false t.sramPoison s.mi.sramPos = true ∧
        memSlice t.sramMem (8 * s.mi.sramPos) 8 = b ∧
        (∀ a, (a < 8 * s.mi.sramPos ∨ 8 * s.mi.sramPos + 8 ≤ a) → memGet t.sramMem a = memGet s.sramMem a) ∧
        fget t F.sramUeCnt = satN 32 (fget s F.sramUeCnt + 1) ∧ fget t F.miEventUeFound = 1 ∧ t.mi.passUe = s.mi.passUe + 1 ∧
        t.mi.sramPos = (s.mi.sramPos + 1) % 3145728 ∧ t.caveMem = s.caveMem ∧ t.md = s.md ∧ t.fh = s.fh) ∧
    (fget s F.caveStatusMigrating = 0 ∨ fget s F.miStatusPaused = 1 ∨ s.cave.migEnd = false → exec .migrationDone s = .next s) ∧
    (fget s F.caveStatusMigrating = 1 → fget s F.miStatusPaused = 0 → s.cave.migEnd = true →
      ∃ t, exec .migrationDone s = .next t ∧ fget t F.caveStatusMigrating = 0 ∧ fget t F.caveStatusSpareUsed = 1 ∧
        fget t F.miEventSpareDone = 1 ∧
        (fget s F.caveStatusPhysL0 = fget s F.miStatusMigSrc →
          fget t F.caveStatusPhysL0 = 2 ∧ fget t F.caveStatusPhysL1 = fget s F.caveStatusPhysL1) ∧
        (fget s F.caveStatusPhysL0 ≠ fget s F.miStatusMigSrc →
          fget t F.caveStatusPhysL1 = 2 ∧ fget t F.caveStatusPhysL0 = fget s F.caveStatusPhysL0) ∧
        (∀ h, s.mi.spareCmd = some h → t.mi.spareCmd = none ∧ Completed t { hdr := h, opcode := 0x00A2 } stOk 0 []) ∧
        (∀ e ∈ s.cave.migPoison, tget false t.cavePoison e.1 = true) ∧ t.cave.migPoison = [] ∧
        t.cave.asleep = fget s F.miStatusMigSrc :: s.cave.asleep ∧ t.cave.migBytes = [] ∧
        t.cave.migEnd = false ∧ t.caveMem = s.cave.migBytes.foldl (fun m e => memPutAll m (32 * e.1) e.2) s.caveMem ∧
        t.md = s.md ∧ t.fh = s.fh)

/-- The commands of a DMA channel: GO starts the active or the armed set after its checks, ARM and DISARM set and clear
SHADOW_VALID, STOP waits for the set's end, ABORT ends a bulk channel at once; a command that does not apply sets CMD_IGNORED alone.
-/
def Obligations.DmaCommandsActOnTheirChannel : Prop :=
  ∀ (s : State) (c : Nat), Canonical s → Orderly s → c < 16 →
    (∃ t, exec (.dmaArm c) s = .next t ∧ FieldSet s t F.dmaStatusShadowValid c 1) ∧
    (∃ t, exec (.dmaDisarm c) s = .next t ∧ FieldSet s t F.dmaStatusShadowValid c 0) ∧
    (dmaState s c = dmaRunning →
      (∃ t, exec (.dmaStop c) s = .next t ∧ t = { s with dma := t.dma } ∧ chanOf t c = { chanOf s c with stopping := true } ∧
        ∀ k, k ≠ c → chanOf t k = chanOf s k) ∧
      (hostOwns s c = false ∨ dormantComing s = false →
        ∃ t, exec (.dmaGo c) s = .next t ∧ FieldSet s t F.dmaStatusCmdIgnored c 1)) ∧
    (dmaState s c ≠ dmaRunning → ∃ t, exec (.dmaStop c) s = .next t ∧ FieldSet s t F.dmaStatusCmdIgnored c 1) ∧
    (dmaState s c ≠ dmaRunning ∨ c < 12 → ∃ t, exec (.dmaAbort c) s = .next t ∧ FieldSet s t F.dmaStatusCmdIgnored c 1) ∧
    (hostOwns s c = true → dormantComing s = true → exec (.dmaGo c) s = .next s) ∧
    (∀ q, dmaState s c ≠ dmaRunning → hostOwns s c = false ∨ dormantComing s = false →
      q = (if fget s F.dmaStatusShadowValid c = 1 then shadowSet s c else activeSet s c) →
      (hostOwns s c = true → s.ws.transfer.isSome = true → namesBulk q = false) →
      ∃ t, exec (.dmaGo c) s = .next t ∧ ChannelOnly s t c ∧ Activated s t c q (fget s F.dmaSetCnt c) ∧
        fget t F.dmaStatusStopped c = 0 ∧ fget t F.dmaStatusAborted c = 0 ∧
        (q.len ≠ 0 → fget t F.dmaStatusDone c = 0) ∧ (dmaState t c ≠ dmaHalted → fget t F.dmaStatusHaltCode c = 0)) ∧
    (12 ≤ c → dmaState s c = dmaRunning →
      ∃ t, exec (.dmaAbort c) s = .next t ∧ dmaState t c = dmaIdle ∧ fget t F.dmaStatusAborted c = 1) ∧
    (∀ q, 12 ≤ c → dmaState s c = dmaRunning → q = activeSet s c → q.dst.space ≠ spReg → NoWritesQueued s →
      ∃ t, exec (.dmaAbort c) s = .next t ∧
        t = { s with
          regs := t.regs, dma := t.dma, caveMem := t.caveMem, sramMem := t.sramMem, freeCnt := t.freeCnt,
          mram := { s.mram with raw := t.mram.raw } } ∧
        (∀ a, q.dst.space ≠ spMram ∨ a < q.dst.addr ∨ q.dst.addr + q.len ≤ a →
          tget none t.mram.raw a = tget none s.mram.raw a) ∧
        dmaState t c = dmaIdle ∧ fget t F.dmaStatusAborted c = 1 ∧ fget t F.dmaStatusShadowValid c = 0 ∧
        fget t F.dmaStatusDone c = fget s F.dmaStatusDone c ∧ fget t F.dmaSetCnt c = fget s F.dmaSetCnt c ∧ chanOf t c = {} ∧
        RegsKept s t [F.dmaStatusState.bits c, F.dmaStatusAborted.bits c, F.dmaStatusShadowValid.bits c, F.dmaRemain.bits c] ∧
        (∀ a, q.dst.space ≠ spCave ∨ a < q.dst.addr ∨ q.dst.addr + q.len ≤ a → memGet t.caveMem a = memGet s.caveMem a) ∧
        (∀ a, q.dst.space ≠ spSram ∨ a < q.dst.addr ∨ q.dst.addr + q.len ≤ a → memGet t.sramMem a = memGet s.sramMem a) ∧
        (q.dst.fix = false → ∀ k, k < (chanOf s c).done * q.esize →
          memGet t.caveMem (q.dst.addr + k) = memGet s.caveMem (q.dst.addr + k) ∧
          memGet t.sramMem (q.dst.addr + k) = memGet s.sramMem (q.dst.addr + k)) ∧
        (q.src.space = spSram → q.dst.space = spCave → q.src.fix = false → q.dst.fix = false → ∀ k,
          memGet t.caveMem (q.dst.addr + k) = memGet s.caveMem (q.dst.addr + k) ∨
          memGet t.caveMem (q.dst.addr + k) = memGet s.sramMem (q.src.addr + k)))

/-- Each element of a running set is read and written in order; a full or empty bulk buffer makes it wait; poison is passed on with
its mark and halts a channel that writes registers or MRAM. The final handshake of a set ends it, stops its channel or starts the
next. -/
def Obligations.DmaElementsMoveTheirSet : Prop :=
  ∀ (s : State) (c : Nat) (l : List WordFault) (v : Nat), Canonical s → Orderly s → c < 16 → (c = 14 → s.ws.transfer = none) →
    (dmaState s c ≠ dmaRunning ∨ (chanOf s c).last = true → exec (.dmaElement c l v) s = .next s) ∧
    (∀ q i x u, NoWritesQueued s → dmaState s c = dmaRunning → (chanOf s c).last = false → q = activeSet s c → i = (chanOf s c).done →
      elemRead s c q.src q.esize i l = (.data x, u) →
      (q.src.space ≠ spReg ∨ q.esize = 4 → x.length = q.esize) ∧
      (q.dst.space = spBulk → s.ccp.bulkOut.length + q.esize ≤ bulkSize →
        ∃ t, exec (.dmaElement c l v) s = .next t ∧ t.ccp.bulkOut = u.ccp.bulkOut ++ x ∧ t.caveMem = s.caveMem ∧ t.sramMem = s.sramMem ∧
          Moved u t c i q) ∧
      (q.dst.space = spCave → roomFor s (chanPort c) q.esize = true →
        ∃ t, exec (.dmaElement c l v) s = .next t ∧ Moved u t c i q ∧
          (∃ b rest, t.cave.reqs = { id := s.cave.nextReq, port := chanPort c, write := true, addr := q.dst.at q.esize i,
                                     len := b.length, data := b } :: rest ∧ b.length = x.length ∧
            (∀ w ∈ rest, w.write = false ∧ w.port = chanPort c ∧ w.data = []) ∧
            ∀ k, k < x.length → overlapOpen q (q.dst.at q.esize i + k) = false →
              nth (0, false) b k = ((nth (0, false) x k).1, x.any fun y => y.2)) ∧
          t.caveMem = s.caveMem ∧ t.sramMem = s.sramMem ∧ t.md = s.md ∧ t.fh = s.fh ∧ t.ws = u.ws ∧ t.fab = s.fab) ∧
      (q.dst.space = spSram →
        ∃ t, exec (.dmaElement c l v) s = .next t ∧ Moved u t c i q ∧
          (∀ k, k < x.length → overlapOpen q (q.dst.at q.esize i + k) = false →
            memGet t.sramMem (q.dst.at q.esize i + k) = (nth (0, false) x k).1) ∧
          (l = [] ∨ (q.dst.at q.esize i % 8 = 0 ∧ x.length % 8 = 0) →
            ∀ a, a < q.dst.at q.esize i ∨ q.dst.at q.esize i + q.esize ≤ a → memGet t.sramMem a = memGet s.sramMem a) ∧
          t.caveMem = s.caveMem ∧ t.md = s.md ∧ t.fh = s.fh ∧ t.ws = u.ws ∧ t.fab = s.fab) ∧
      (q.dst.space = spMram ∨ q.dst.space = spReg → (∃ y ∈ x, y.2 = true) →
        ∃ t, exec (.dmaElement c l v) s = .next t ∧ dmaState t c = dmaHalted ∧ fget t F.dmaStatusHaltCode c = haltPoison ∧
          Raised t 0x59 [(c : Int), (haltPoison : Int)] ∧ t.mram.raw = s.mram.raw) ∧
      (q.dst.space = spReg → (∀ y ∈ x, y.2 = false) → regAt (q.dst.at q.esize i) = none →
        ∃ t, exec (.dmaElement c l v) s = .next t ∧ dmaState t c = dmaHalted ∧ fget t F.dmaStatusHaltCode c = haltBus ∧
          Raised t 0x59 [(c : Int), (haltBus : Int)] ∧ t.mram.raw = s.mram.raw) ∧
      (q.dst.space = spMram → (∀ y ∈ x, y.2 = false) → v ≤ fget s F.dmaCfg →
        (∀ k, k < x.length → overlapOpen q (q.dst.at q.esize i + k) = false) →
        ∃ t, exec (.dmaElement c l v) s = .next t ∧ Moved u t c i q ∧
          t.mram.raw = mramPut s.mram.raw (q.dst.at q.esize i) (x.map Prod.fst) ∧ t.caveMem = s.caveMem ∧ t.sramMem = s.sramMem) ∧
      (q.dst.space = spMram → (∀ y ∈ x, y.2 = false) → fget s F.dmaCfg < v →
        ∃ t, exec (.dmaElement c l v) s = .next t ∧ dmaState t c = dmaHalted ∧ fget t F.dmaStatusHaltCode c = haltBus ∧
          Raised t 0x59 [(c : Int), (haltBus : Int)] ∧ t.mram.raw = s.mram.raw)) ∧
    (∀ q, dmaState s c = dmaRunning → q = activeSet s c →
      (q.dst.space = spBulk → bulkSize < s.ccp.bulkOut.length + q.esize → exec (.dmaElement c l v) s = .next s) ∧
      (q.dst.space = spCave → roomFor s (chanPort c) q.esize = false → exec (.dmaElement c l v) s = .next s) ∧
      (q.src.space = spCave → (chanOf s c).got.length < q.esize → exec (.dmaElement c l v) s = .next s) ∧
      (q.src.space = spCave → q.esize ≤ (chanOf s c).got.length → elemRead s c q.src q.esize (chanOf s c).done l =
        (.data ((chanOf s c).got.take q.esize), putChan s c { chanOf s c with got := (chanOf s c).got.drop q.esize })) ∧
      (q.src.space = spBulk → s.ccp.bulkIn.length < q.esize → exec (.dmaElement c l v) s = .next s)) ∧
    (dmaState s c ≠ dmaRunning ∨ (chanOf s c).last = false → exec (.dmaFinalHandshake c) s = .next s) ∧
    (dmaState s c = dmaRunning → (chanOf s c).last = true →
      ((chanOf s c).stopping = true →
        ∃ t, exec (.dmaFinalHandshake c) s = .next t ∧ ChannelOnly s t c ∧ dmaState t c = dmaIdle ∧ fget t F.dmaStatusDone c = 1 ∧
          fget t F.dmaStatusStopped c = 1 ∧ fget t F.dmaStatusSetDone c = 1 ∧ fget t F.dmaSetCnt c = satN 32 (fget s F.dmaSetCnt c + 1) ∧
          fget t F.dmaStatusShadowValid c = fget s F.dmaStatusShadowValid c ∧ chanOf t c = {}) ∧
      ((chanOf s c).stopping = false → fget s F.dmaStatusShadowValid c = 0 →
        ∃ t, exec (.dmaFinalHandshake c) s = .next t ∧ ChannelOnly s t c ∧ dmaState t c = dmaIdle ∧ fget t F.dmaStatusDone c = 1 ∧
          fget t F.dmaStatusStopped c = fget s F.dmaStatusStopped c ∧ fget t F.dmaStatusSetDone c = 1 ∧
          fget t F.dmaSetCnt c = satN 32 (fget s F.dmaSetCnt c + 1) ∧ chanOf t c = {}) ∧
      ((chanOf s c).stopping = false → fget s F.dmaStatusShadowValid c = 1 →
        ∃ t, exec (.dmaFinalHandshake c) s = .next t ∧ ChannelOnly s t c ∧ fget t F.dmaStatusSetDone c = 1 ∧
          Activated s t c (shadowSet s c) (satN 32 (fget s F.dmaSetCnt c + 1))))

/-- Channel 14 carries a weight-store transfer bucket by bucket: an export puts a bucket out when the Cave has delivered it and the buffer
has room, an import takes one when its bytes have arrived, and the last bucket completes the command and the channel; a poisoned word
ends an export with MEM_POISON, and a transfer without progress for 60 s ends with BAD_STATE. -/
def Obligations.WeightStoreTransfersMoveBuckets : Prop :=
  ∀ (s : State) (x : Transfer) (l : List WordFault) (v : Nat), Canonical s → Orderly s → s.ws.transfer = some x → x.left ≤ 524288 →
    (dmaState s 14 ≠ dmaRunning → exec (.dmaElement 14 l v) s = .next s) ∧
    (x.isImport = false → bulkSize < s.ccp.bulkOut.length + 2304 → exec (.dmaElement 14 l v) s = .next s) ∧
    (x.isImport = true → s.ccp.bulkIn.length < 2304 → exec (.dmaElement 14 l v) s = .next s) ∧
    (x.isImport = false → (chanOf s 14).got.length < 2304 → exec (.dmaElement 14 l v) s = .next s) ∧
    (x.isImport = true → roomFor s 3 2304 = false → exec (.dmaElement 14 l v) s = .next s) ∧
    (∀ b, x.isImport = false → s.ccp.bulkOut.length + 2304 ≤ bulkSize → dmaState s 14 = dmaRunning → b = (chanOf s 14).got →
      2304 ≤ b.length → (∀ y ∈ b, y.2 = false) →
      ∃ t, exec (.dmaElement 14 l v) s = .next t ∧ t.ccp.bulkOut = s.ccp.bulkOut ++ b ∧
        t.caveMem = s.caveMem ∧ t.ccp.bulkIn = s.ccp.bulkIn ∧ t.md = s.md ∧ t.fh = s.fh ∧
        (1 < x.left → t.ws = { s.ws with
            transfer := some { x with bucket := x.bucket + 1, left := x.left - 1 }, transferNow := s.tm.now } ∧
          dmaState t 14 = dmaRunning ∧ fget t F.dmaRemain 14 = 2304 * (x.left - 1) ∧
          chanOf t 14 = { chanOf s 14 with req := some s.cave.nextReq, got := [] } ∧
          t.cave.reqs = s.cave.reqs ++ [{
            id := s.cave.nextReq, port := 3, write := false, addr := 2304 * (x.bucket + 1), len := 2304, data := [] }]) ∧
        (x.left ≤ 1 → t.ws = { s.ws with transfer := none } ∧ dmaState t 14 = dmaIdle ∧ fget t F.dmaRemain 14 = 0 ∧
          fget t F.dmaStatusDone 14 = 1 ∧ fget t F.dmaStatusSetDone 14 = 1 ∧
          fget t F.dmaSetCnt 14 = satN 32 (fget s F.dmaSetCnt 14 + 1) ∧ Completed t { hdr := x.hdr, opcode := 0x0072 } stOk 0
          [numTlv 1 (x.first : Nat), numTlv 2 (x.count : Nat), numTlv 3 (x.uptime : Nat)])) ∧
    (∀ b k y, x.isImport = false → s.ccp.bulkOut.length + 2304 ≤ bulkSize → dmaState s 14 = dmaRunning → b = (chanOf s 14).got →
      2304 ≤ b.length → b[k]? = some y → y.2 = true → (∀ j z, j < k → b[j]? = some z → z.2 = false) →
      ∃ t, exec (.dmaElement 14 l v) s = .next t ∧ t.ccp.bulkOut = s.ccp.bulkOut ∧ t.ws = { s.ws with transfer := none } ∧
        dmaState t 14 = dmaIdle ∧ chanOf t 14 = {} ∧ t.caveMem = s.caveMem ∧
        Completed t { hdr := x.hdr, opcode := 0x0072 } stMemPoison 0
          [numTlv 1 (((x.bucket - x.first) * 2304 + k / 32 * 32 : Nat) : Int)]) ∧
    (x.isImport = true → 2304 ≤ s.ccp.bulkIn.length → NoWritesQueued s → dmaState s 14 = dmaRunning → roomFor s 3 2304 = true →
      ∃ t n d, exec (.dmaElement 14 l v) s = .next t ∧ t.ccp.bulkIn = s.ccp.bulkIn.drop 2304 ∧ t.md = s.md ∧ t.fh = s.fh ∧
        (d, n) = importWays s x ((s.ccp.bulkIn.take 2304).map Prod.fst) 8 [] ∧ t.caveMem = s.caveMem ∧
        t.cave.reqs = splitWrite 3 1 s.cave.nextReq (2304 * x.bucket) (d.map fun b => (b, false)) ∧
        (1 < x.left → t.ws.transfer = some { x with bucket := x.bucket + 1, left := x.left - 1, bad := x.bad + n } ∧
          fget t F.dmaRemain 14 = 2304 * (x.left - 1)) ∧
        (x.left ≤ 1 → t.ws.transfer = none ∧ dmaState t 14 = dmaIdle ∧ Completed t { hdr := x.hdr, opcode := 0x0073 } stOk 0 [numTlv 1 (x.bad + n : Nat)])) ∧
    (s.tm.now < s.ws.transferNow + 60 * tickRate → exec .wsTransferTimeout s = .next s) ∧
    (s.ws.transferNow + 60 * tickRate ≤ s.tm.now →
      ∃ t, exec .wsTransferTimeout s = .next t ∧
        Completed t { hdr := x.hdr, opcode := if x.isImport then 0x0073 else 0x0072 } stBadState 0 [] ∧
        (dmaState s 14 = dmaRunning → dmaState t 14 = dmaIdle ∧ chanOf t 14 = {} ∧ RegsKept s t [F.dmaStatusState.bits 14]) ∧
        (dmaState s 14 ≠ dmaRunning → t.regs = s.regs ∧ t.dma = s.dma ∧ t.cave = s.cave) ∧
        (∀ k, k ≠ 14 → chanOf t k = chanOf s k) ∧
        EventsOnly { s with
          ws := { s.ws with transfer := none }, regs := t.regs, dma := t.dma, cave := { s.cave with reqs := t.cave.reqs },
          ccp := { s.ccp with
            longOps := s.ccp.longOps.erase { hdr := x.hdr, opcode := if x.isImport then 0x0073 else 0x0072 } } } t)

/-- A capture's blocks: what a source completes enters staging or leaves a gap, the oldest block of a ring is written to its place
with its header, a full ring overwrites or stops, and the capture's end takes the ring where its trigger says. -/
def Obligations.CaptureBlocksAreStagedAndWritten : Prop :=
  ∀ (s : State) (r : Nat) (x : Ring) (len : Nat), Canonical s → Orderly s → r < 16 → x = ringOf s r → len = fget s F.capLen r →
    (∀ tag off l, ringState s r ≠ ringRunning ∨ x.levelWait = true ∨ l = [] → exec (.captureBlockStaged r tag off l) s = .next s) ∧
    (∀ tag off l pl w, ringState s r = ringRunning → x.levelWait = false → l ≠ [] → l.length ≤ 16368 →
      (len = endless ∨ x.taken + l.length ≤ len) →
      w = x.start.getD (symbolStartFp s (ringHalf s r) tag + ((off * fp * 1000000 / max 1 (ringKsps s r) : Nat) : Int)) →
      pl = (if x.start = none then (tag, off) else samplePlace s (ringHalf s r) (ringKsps s r) w x.taken) →
      (s.cap.staging.length < 8 →
        ∃ t u, exec (.captureBlockStaged r tag off l) s = .next t ∧
          t = { s with cap := { s.cap with
            staging := s.cap.staging ++
              [{ ring := r, capSeq := fget s F.capStatusCaptureSeq r, first := x.firstNext,
                 last := decide (len ≠ endless ∧ x.taken + l.length = len), gap := x.gapNext, sampleIdx := x.taken, tag := pl.1,
                 sampleOff := pl.2, uptime := u, samples := capturedWords s r pl.1 pl.2 l }],
            rings := t.cap.rings, orxBusy := t.cap.orxBusy },
                       rf := { s.rf with adcOvr := t.rf.adcOvr } } ∧
          ringOf t r = { x with start := some w, taken := x.taken + l.length, firstNext := false, gapNext := false } ∧
          (∀ k, k ≠ r → ringOf t k = { ringOf s k with
            start := if k ∈ captureGroup s r then (ringOf s k).start.or (some w) else (ringOf s k).start }) ∧
          t.rf.adcOvr = (if fget s F.capCfgSource r = 4 ∧ planeStopped s = true then
            tmod 0 s.rf.adcOvr (fget s F.capCfgPath r) fun k => satN 32 (k + extremeWords l) else s.rf.adcOvr) ∧
          (∀ k, k < 4 → tget [] t.cap.orxBusy k = (tget [] s.cap.orxBusy k).filter fun q =>
            decide (q ≠ r ∨ len = endless ∨ x.taken + l.length ≠ len))) ∧
      (8 ≤ s.cap.staging.length →
        ∃ t, exec (.captureBlockStaged r tag off l) s = .next t ∧ t.cap.staging = s.cap.staging ∧
          ringOf t r = { x with start := some w, taken := x.taken + l.length, gapNext := true } ∧
          (∀ k, k ≠ r → ringOf t k = { ringOf s k with
            start := if k ∈ captureGroup s r then (ringOf s k).start.or (some w) else (ringOf s k).start }) ∧
          t.rf.adcOvr = (if fget s F.capCfgSource r = 4 ∧ planeStopped s = true then
            tmod 0 s.rf.adcOvr (fget s F.capCfgPath r) fun k => satN 32 (k + extremeWords l) else s.rf.adcOvr) ∧
          fget t F.capGapCnt r = satN 32 (fget s F.capGapCnt r + 1) ∧ RegsKept s t [F.capGapCnt.bits r] ∧
          EventsOnly { s with
            regs := t.regs, cap := { s.cap with rings := t.cap.rings, orxBusy := t.cap.orxBusy },
            rf := { s.rf with adcOvr := t.rf.adcOvr } } t)) ∧
    ((∀ y ∈ s.cap.staging, y.ring ≠ r) ∨ blockRoom s r = false → exec (.captureBlockWritten r) s = .next s) ∧
    (∀ a b c wr rd n, s.cap.staging = a ++ b :: c → b.ring = r → (∀ y ∈ a, y.ring ≠ r) → wr = fget s F.capWrCnt r →
      rd = fget s F.capRdCnt r → n = fget s F.capAreaNblk r → blockRoom s r = true →
      ((wr + 2 ^ 32 - rd) % 2 ^ 32 ≠ n ∨ fget s F.capCfgStopFull r = 0 →
        ∃ t at', exec (.captureBlockWritten r) s = .next t ∧ at' = blockAddr (fget s F.capAreaBaseBlk r + wr % max 1 n) ∧
          t.cap = { s.cap with staging := a ++ c } ∧ fget t F.capWrCnt r = (wr + 1) % 2 ^ 32 ∧
          (∀ k, k = ceilDiv (4 * b.samples.length) 4096 →
            t.cave.reqs = s.cave.reqs ++ splitWrite 1 1 s.cave.nextReq at' ((blockHeader s b wr false).map fun y => (y, false)) ++
              splitWrite 1 k (s.cave.nextReq + 1) (at' + 64) ((sampleBytes b.samples).map fun y => (y, false)) ++
              splitWrite 1 1 (s.cave.nextReq + 1 + k) at' ((blockHeader s b wr).map fun y => (y, false))) ∧ t.caveMem = s.caveMem ∧
          ((wr + 2 ^ 32 - rd) % 2 ^ 32 ≠ n → fget t F.capRdCnt r = rd ∧ fget t F.capOvrCnt r = fget s F.capOvrCnt r) ∧
          ((wr + 2 ^ 32 - rd) % 2 ^ 32 = n → fget t F.capRdCnt r = (rd + 1) % 2 ^ 32 ∧
            fget t F.capOvrCnt r = satN 32 (fget s F.capOvrCnt r + 1)) ∧
          ringState t r = ringState s r ∧ t.sramMem = s.sramMem ∧ t.md = s.md ∧ t.fh = s.fh ∧ t.fab = s.fab) ∧
      ((wr + 2 ^ 32 - rd) % 2 ^ 32 = n → fget s F.capCfgStopFull r = 1 →
        ∃ t, exec (.captureBlockWritten r) s = .next t ∧ ringState t r = ringIdle ∧ fget t F.capStatusStopReason r = stopFull ∧
          Raised t 0x39 [(r : Int), (stopFull : Int)] ∧ t.cap.staging = s.cap.staging.filter (fun y => decide (y.ring ≠ r)) ∧
          (∀ k, k < 4 → r ∉ tget [] t.cap.orxBusy k) ∧ fget t F.capWrCnt r = wr ∧ t.caveMem = s.caveMem ∧
          RegsKept s t [F.capStatusState.bits r, F.capStatusStopReason.bits r])) ∧
    (ringState s r ≠ ringRunning ∨ x.levelWait = true ∨ len = endless ∨ x.taken ≠ len → exec (.captureEnd r) s = .next s) ∧
    (∀ q, ringState s r = ringRunning → x.levelWait = false → len ≠ endless → x.taken = len →
      q = (if fget s F.capCfgLinkEn r = 1 then fget s F.capCfgLeader r else r) →
      ∃ t, exec (.captureEnd r) s = .next t ∧ fget t F.capStatusStopReason r = stopLength ∧
        (∀ k, k < 4 → r ∉ tget [] t.cap.orxBusy k) ∧
        (fget s F.capCfgTrig q = 0 ∨ (fget s F.capCfgTrig q = 1 ∧ fget s F.capTrig2Period q = 0) → ringState t r = ringIdle) ∧
        (fget s F.capCfgTrig q = 1 → fget s F.capTrig2Period q ≠ 0 → ringState t r = ringArmed) ∧
        (3 ≤ fget s F.capCfgTrig q → ringState t r = ringArmed) ∧ ((ringOf t r).levelWait = true ↔ fget s F.capCfgTrig q = 2) ∧
        (∀ k, k ≠ r → ringOf t k = ringOf s k) ∧ RegsKept s t [F.capStatusState.bits r, F.capStatusStopReason.bits r] ∧
        EventsOnly { s with regs := t.regs, cap := { s.cap with rings := t.cap.rings, orxBusy := t.cap.orxBusy } } t)

/-- Triggers: a ring whose own trigger fires starts with its followers and counts its capture; a trigger that finds one of them
running or its receiver busy is lost for all, and a TIME ring without a period then stops; a LEVEL ring is armed again below its
threshold. -/
def Obligations.CaptureTriggersStartOrAreLost : Prop :=
  ∀ (s : State) (r : Nat) (all : List Nat), Canonical s → Orderly s → r < 16 →
    all = r :: (followers s r).filter (fun q => decide (ringArmed ≤ ringState s q)) →
    (∀ i k p, (i, k) ∈ [(Instr.immediateTrigger r, 0), (.timeTrigger r, 1), (.levelTrigger r p, 2)] →
      (mayFire s r k = false → exec i s = .next s) ∧
      (mayFire s r k = true → (k = 0 → ringState s r = ringArmed) → (k = 2 → p ≤ fget s F.capTrigLevel r) →
        (all.any (ringBlocked s) = false →
          ∃ t, exec i s = .next t ∧
            (∀ q ∈ all, ringState t q = ringRunning ∧ fget t F.capStatusCaptureSeq q = (fget s F.capStatusCaptureSeq q + 1) % 65536 ∧
              ringOf t q = { start := if k = 1 then some (timeOccurrence s r).1 else none,
                             nextAt := if k = 1 ∧ q = r then (timeOccurrence s r).2 else (ringOf s q).nextAt } ∧
              ∀ o, ringOrx s q = some o → q ∈ tget [] t.cap.orxBusy o ∧ fget t F.orxSwState o / 16 % 4 = 1) ∧
            (∀ q, q ∉ all → ringState t q = ringState s q ∧ ringOf t q = ringOf s q) ∧
            t = { s with regs := t.regs, cap := { s.cap with rings := t.cap.rings, orxBusy := t.cap.orxBusy } }) ∧
        (all.any (ringBlocked s) = true → (k ≠ 1 ∨ fget s F.capTrig2Period r ≠ 0) →
          ∃ t, exec i s = .next t ∧ FieldSet { s with cap := { s.cap with rings := t.cap.rings } } t F.capLostCnt r
              (satN 32 (fget s F.capLostCnt r + 1)) ∧
            ringOf t r = { ringOf s r with nextAt := if k = 1 then (timeOccurrence s r).2 else (ringOf s r).nextAt } ∧
            ∀ q, q ≠ r → ringOf t q = ringOf s q) ∧
        (all.any (ringBlocked s) = true → k = 1 → fget s F.capTrig2Period r = 0 →
          ∃ t, exec i s = .next t ∧ fget t F.capLostCnt r = satN 32 (fget s F.capLostCnt r + 1) ∧
            (∀ q ∈ all, ringState s q = ringArmed → ringState t q = ringIdle ∧ fget t F.capStatusStopReason q = stopMissed ∧
              Raised t 0x39 [(q : Int), (stopMissed : Int)]) ∧
            (∀ q, q ∉ all ∨ ringState s q ≠ ringArmed → ringState t q = ringState s q) ∧ t.cap.staging = s.cap.staging))) ∧
    (ringState s r ≠ ringArmed → exec (.immediateTrigger r) s = .next s) ∧
    (∀ p, fget s F.capTrigLevel r < p → exec (.levelTrigger r p) s = .next s) ∧
    (∀ p, (ringOf s r).levelWait = false ∨ p < fget s F.capTrigLevel r + 3 → exec (.levelRearm r p) s = .next s) ∧
    (∀ p, (ringOf s r).levelWait = true → fget s F.capTrigLevel r + 3 ≤ p →
      ∃ t, exec (.levelRearm r p) s = .next t ∧ t = { s with regs := t.regs, cap := { s.cap with rings := t.cap.rings } } ∧
        (∀ q, q = r ∨ (q ∈ followers s r ∧ (ringOf s q).levelWait = true) →
          ringState t q = ringArmed ∧ ringOf t q = { ringOf s q with levelWait := false }) ∧
        (∀ q, q ≠ r → q ∉ followers s r ∨ (ringOf s q).levelWait = false → ringState t q = ringState s q ∧ ringOf t q = ringOf s q))

/-- Calibration and pre-distortion runs: the capture takes the values of its path and is checked in order; an estimate is accepted,
or rejected for its range, its step, its error or its gain; what is accepted waits for a stroke and is stored. -/
def Obligations.RunsCaptureEstimateAndEnd : Prop :=
  ∀ (s : State), Canonical s → Orderly s →
    (s.cal.run = none → (∀ m, exec (.calCaptureDone m) s = .next s) ∧ (∀ e, exec (.dpdRunEnd e) s = .next s) ∧
      (∀ l, exec (.calRunEnd l) s = .next s) ∧ exec .calTimeout s = .next s) ∧
    (∀ r c, s.cal.run = some r → c = r.cluster →
      (coxRuns s = false → exec .calTimeout s = .next s ∧ (∀ m, exec (.calCaptureDone m) s = .next s) ∧
        (∀ e, exec (.dpdRunEnd e) s = .next s) ∧ ∀ l, exec (.calRunEnd l) s = .next s) ∧
      (coxRuns s = true → ∃ t, exec .calTimeout s = .next t ∧ RunEnded s t c outDeferred rTimeout 0 ∧
        t = { s with regs := t.regs, cap := { s.cap with staging := t.cap.staging, orxBusy := t.cap.orxBusy },
                     cal := { s.cal with run := none, clusters := t.cal.clusters } }) ∧
      (r.captured = true ∨ r.requested = false → ∀ m, exec (.calCaptureDone m) s = .next s) ∧
      (r.captured = false → (∀ e, exec (.dpdRunEnd e) s = .next s) ∧ (∀ l, exec (.calRunEnd l) s = .next s)) ∧
      (c < 384 → ∀ e, exec (.dpdRunEnd e) s = .next s) ∧ (384 ≤ c → ∀ l, exec (.calRunEnd l) s = .next s) ∧
      (∀ m why w, r.captured = false → r.requested = true → coxRuns s = true → w = (m.window && !r.windowOff) →
        (w = false → why = rNoWindow) →
        (w = true → m.levelDb < r.pmax ∨ r.pmin < m.levelDb → why = rPower) →
        (w = true → r.pmax ≤ m.levelDb → m.levelDb ≤ r.pmin → r.occ ≠ 0 → m.occupancy < r.occ → why = rOccupancy) →
        (w = true → r.pmax ≤ m.levelDb → m.levelDb ≤ r.pmin → (r.occ = 0 ∨ r.occ ≤ m.occupancy) →
          m.clipped = true ∨ satMoved s r = true → why = rClip) →
        (w = true → r.pmax ≤ m.levelDb → m.levelDb ≤ r.pmin → (r.occ = 0 ∨ r.occ ≤ m.occupancy) →
          m.clipped = false → satMoved s r = false → why = 0) →
        ∃ t, exec (.calCaptureDone m) s = .next t ∧ ringState t 14 ≤ ringIdle ∧ ringState t 15 ≤ ringIdle ∧
          (why ≠ 0 → RunEnded s t c outDeferred why 0 ∧ t.cal = { s.cal with run := none, clusters := t.cal.clusters }) ∧
          (why = 0 → t.cal = { s.cal with run := some { r with captured := true, temp := clusterTemp s c } }) ∧
          t = { s with regs := t.regs, cap := { s.cap with staging := t.cap.staging, orxBusy := t.cap.orxBusy }, cal := t.cal }) ∧
      (∀ e p lim lut, r.captured = true → coxRuns s = true → 384 ≤ c → c < 448 → p = c % 64 → lim = -(10 * (r.nmseMax : Int)) →
        lut = newLut r.lut e.fit r.mu →
        (r.bypass = false → lim < e.nmseNow →
          ∃ t, exec (.dpdRunEnd e) s = .next t ∧ RunEnded s t c outRejected rNmse r.temp true ∧
            t.cal.cleared = s.cal.cleared ++ (if (slotOf s p r.slot).lut = r.lut then [(p, r.slot)] else []) ∧
              tget false t.cal.poor p = true ∧
            fget t F.dpdStatusPoorRun p = satN 2 (fget s F.dpdStatusPoorRun p + 1) ∧ t.cal.banked = s.cal.banked ∧
            (2 ≤ fget s F.dpdStatusPoorRun p → tget false t.cal.hold p = true)) ∧
        (r.bypass = true ∨ e.nmseNow ≤ lim → lim < e.nmseFit ∨ e.nmseNow + 10 < e.nmseFit →
          ∃ t, exec (.dpdRunEnd e) s = .next t ∧ RunEnded s t c outRejected rNmse r.temp ∧ t.cal.banked = s.cal.banked ∧
            t.cal.cleared = s.cal.cleared ∧ t.cal.bank = s.cal.bank) ∧
        (r.bypass = true ∨ e.nmseNow ≤ lim → e.nmseFit ≤ lim → e.nmseFit ≤ e.nmseNow + 10 →
          (gainBad lut = true →
            ∃ t, exec (.dpdRunEnd e) s = .next t ∧ RunEnded s t c outRejected rGain r.temp ∧ t.cal.banked = s.cal.banked ∧
              t.cal.cleared = s.cal.cleared ∧ t.cal.bank = s.cal.bank) ∧
          (gainBad lut = false →
            ∃ t f, exec (.dpdRunEnd e) s = .next t ∧ RunEnded s t c outAccepted 0 r.temp ∧
              t.cal.banked = s.cal.banked ++ [(p,
                { valid := true, prov := r.bypass, trainIdx := r.driveIdx, freqKhz := r.freqKhz,
                  nmse := e.nmseFit, temp := r.temp, lastUse := f, trained := s.tm.uptime, lut := lut })] ∧
              fget t F.dpdStatusPoorRun p = 0 ∧ c ∈ t.cal.stores ∧ c ∉ t.cal.requests ∧ t.cal.bank = s.cal.bank ∧
              t.cal.cleared = s.cal.cleared ∧ t.md = s.md ∧ t.rf = s.rf ∧ t.caveMem = s.caveMem))) ∧
      (∀ l x, r.captured = true → coxRuns s = true → c < 384 → x = cluster s c →
        (codesOut (c / 64) l = true →
          ∃ t, exec (.calRunEnd l) s = .next t ∧ RunEnded s t c outRejected rRange r.temp ∧ t.cal.newCodes = s.cal.newCodes) ∧
        (codesOut (c / 64) l = false → x.uncal = false → codesStep (c / 64) x.codes l = true →
          ∃ t, exec (.calRunEnd l) s = .next t ∧ RunEnded s t c outRejected rStep r.temp ∧ t.cal.newCodes = s.cal.newCodes) ∧
        (codesOut (c / 64) l = false → (x.uncal = true ∨ codesStep (c / 64) x.codes l = false) →
          ∃ t, exec (.calRunEnd l) s = .next t ∧ RunEnded s t c outAccepted 0 r.temp ∧
            t.cal.newCodes = s.cal.newCodes.filter (fun q => decide (q.1 ≠ c)) ++ [(c, l)] ∧ c ∈ t.cal.stores ∧
            c ∉ t.cal.requests ∧ t.md = s.md ∧ t.rf = s.rf ∧ t.caveMem = s.caveMem)))

/-- Stores of calibration write the copy that is not in force and take it into force; two mismatches leave the old one, set
STORE_FAIL and are reported; a calibration command that has waited 5 s completes with the outcomes so far. -/
def Obligations.StoresAlternateTheirCopies : Prop :=
  ∀ (s : State), Canonical s → Orderly s →
    (∀ n, s.cal.stores = [] ∨ s.md.mode = .dormant ∨ s.md.mode = .recovery ∨ coxRuns s = false →
      exec (.mramStore n) s = .next s) ∧
    (∀ n c rest b, s.cal.stores = c :: rest → s.md.mode ≠ .dormant → s.md.mode ≠ .recovery → coxRuns s = true →
      (384 ≤ c → ∀ k, k < 8 → (slotOf s (c % 64) k).valid = true → bufMarked s bufDpd [c % 64, k] = false) →
      b = (cluster s c).copyB →
      ∃ t m, exec (.mramStore n) s = .next t ∧ t.cal.stores = rest ∧
        m = tget {} t.mram.copies (2 * c + if b then 0 else 1) ∧ m.payload = clusterPayload s c ∧ m.cluster = c ∧
        m.seq = ((tget {} s.mram.copies (2 * c + if b then 1 else 0)).seq + 1) % 2 ^ 64 ∧
        (∀ k, k ≠ 2 * c + (if b then 0 else 1) → tget {} t.mram.copies k = tget {} s.mram.copies k) ∧
        (∀ k, k ≠ c → cluster t k = cluster s k) ∧
        (n < 2 → copyValid c (clusterPayload s c).length m = true ∧ (cluster t c).copyB = !b ∧
          t = { s with mram := { s.mram with copies := t.mram.copies },
                       cal := { s.cal with stores := rest, clusters := t.cal.clusters } }) ∧
        (2 ≤ n → copyValid c (clusterPayload s c).length m = false ∧ (cluster t c).copyB = b ∧
          fget t F.calStoreStatusStoreFail = 1 ∧ Raised t 0x44 [(c : Int)] ∧ RegsKept s t [F.calStoreStatusStoreFail.bits 0])) ∧
    (∀ h, (∀ q ∈ s.cal.cmds, q.hdr ≠ h) → exec (.calCommandTimeout h) s = .next s) ∧
    (∀ q, s.cal.cmds = [q] →
      ∃ t, exec (.calCommandTimeout q.hdr) s = .next t ∧ t.cal.cmds = [] ∧
        (∀ c, c ∈ t.cal.requests ↔ c ∈ s.cal.requests ∧ c ∉ q.clusters) ∧ t.cal.run = s.cal.run ∧
        t.cal.clusters = s.cal.clusters ∧ t.md = s.md ∧ t.rf = s.rf ∧
        Logged t 0x040 q.hdr.tag (beBytes 2 0x0056 ++ [0, 0] ++ beBytes 2 stOk ++ beBytes 2 0 ++
          (q.clusters.mapIdx fun i c => numsTlv (i + 1) [((cluster s c).outcome : Int), ((cluster s c).reason : Int)]).flatMap tlvBytes))
end

