-- ==== Sys2Proof/Laws/Events.lean ====
section
/-! SUPPORT. What raising an event and sending a completion can do: they change nothing but the event queues, tracks, numbers and the
log, and they leave their entry in the log (R123, R431, R451, R452). -/

namespace Sys2Proof.Machine

theorem EventsOnly.refl (s : State) : EventsOnly s s := rfl

theorem EventsOnly.trans {a b c : State} (h : EventsOnly a b) (k : EventsOnly b c) : EventsOnly a c := by
  unfold EventsOnly at *
  rw [k]; rw [h]

/-- Delivery on one path. -/
theorem deliver_eventsOnly (s : State) (p : Nat) (e : Event) : EventsOnly s (deliver s p e) := by
  unfold deliver
  split
  · generalize queueEvent _ _ = q
    rcases q with ⟨q, l⟩
    rfl
  · split
    · generalize queueEvent _ _ = q
      rcases q with ⟨q, l⟩
      rfl
    · dsimp only
      generalize List.drop _ _ = l
      rfl

/-- An event on one path. -/
theorem raiseOn_eventsOnly (p unit : Nat) (e : Event) (s : State) : EventsOnly s (raiseOn p unit e s) := by
  unfold raiseOn
  split
  · rfl
  · extract_lets t recent free t'
    by_cases hf : free = true
    · rw [if_pos hf]
      exact EventsOnly.trans (b := { s with ccp := { s.ccp with tracks := putTrack s.ccp.tracks t' } }) rfl (deliver_eventsOnly _ _ _)
    · rw [if_neg hf]
      rfl

/-- An event on every path, or held while Cox is halted. -/
theorem sendEvent_eventsOnly (s : State) (unit : Nat) (e : Event) : EventsOnly s (sendEvent s unit e) := by
  unfold sendEvent
  split
  · rfl
  · exact (raiseOn_eventsOnly 0 unit _ s).trans ((raiseOn_eventsOnly 1 unit _ _).trans (raiseOn_eventsOnly 2 unit _ _))

/-- Raising an event changes the event state and nothing else. -/
theorem raise_eventsOnly (s : State) (code unit : Nat) (vals : List Int) : EventsOnly s (raise s code unit vals) := by
  unfold raise
  split
  · rfl
  · exact sendEvent_eventsOnly s unit _

theorem raiseBand_eventsOnly (s : State) (code unit : Nat) (vals : List Int) : EventsOnly s (raiseBand s code unit vals) := by
  unfold raiseBand
  exact (raiseOn_eventsOnly 0 unit _ s).trans (raiseOn_eventsOnly 2 unit _ _)

/-- The state of which a completion changes the event state alone. -/
theorem completeAs_eventsOnly (s : State) (code : Nat) (op : LongOp) (st dt : Nat) (rs : List Tlv) :
    EventsOnly { s with ccp := { s.ccp with longOps := s.ccp.longOps.erase op } } (completeAs s code op st dt rs) := by
  unfold completeAs
  exact sendEvent_eventsOnly _ 0 _

theorem complete_eventsOnly (s : State) (op : LongOp) (st dt : Nat) (rs : List Tlv) :
    EventsOnly { s with ccp := { s.ccp with longOps := s.ccp.longOps.erase op } } (complete s op st dt rs) :=
  completeAs_eventsOnly s _ op st dt rs

/-- The newest of a list that keeps its last 1,024 stays. -/
theorem mem_keepLast {α : Type} (l : List α) (x : α) : x ∈ (l ++ [x]).drop ((l ++ [x]).length - 1024) := by
  have h : (l ++ [x]).length - 1024 ≤ l.length := by simp
  rw [List.drop_append_of_le_length h]
  simp

/-- An event without an interval leaves its entry in the log. -/
theorem raiseOn_logged {e : Event} (hl : eventLimit e.code = none) (unit : Nat) (s : State) :
    Logged (raiseOn 2 unit e s) e.code e.tag (eventParams e) := by
  have ht : pathTakes s 2 e.code = true := rfl
  unfold raiseOn
  rw [ht, hl]
  simp only [Bool.not_true, Bool.false_eq_true, if_false, if_true]
  unfold deliver
  rw [if_neg (by decide), if_neg (by decide)]
  generalize he : (LogEntry.mk _ _ _ _ _) = x
  unfold Logged
  dsimp only
  refine Or.inl ⟨x, ?_, by subst he; rfl, by subst he; rfl, by subst he; rfl⟩
  apply mem_keepLast

/-- An event without an interval leaves its entry in the log, or waits where Cox is halted. -/
theorem sendEvent_logged {e : Event} (hl : eventLimit e.code = none) (unit : Nat) (s : State) :
    Logged (sendEvent s unit e) e.code e.tag (eventParams e) := by
  unfold sendEvent
  split
  · rename_i h
    exact Or.inr ⟨h, (unit, e), by simp, rfl, rfl, rfl⟩
  · exact raiseOn_logged hl unit _

/-- An event that has no interval and that SERVICE does not silence is in the log once raised. -/
theorem raise_raised {code : Nat} (hl : eventLimit code = none) (s : State) (hq : quietInService code = false ∨ s.md.mode ≠ .service)
    (unit : Nat) (vals : List Int) : Raised (raise s code unit vals) code vals := by
  have h : (quietInService code && decide (s.md.mode = .service)) = false := by
    rcases hq with h | h <;> simp [h]
  unfold raise
  rw [if_neg (by rw [h]; decide)]
  exact sendEvent_logged (e := { code := code, uptime := s.tm.uptime, vals := vals }) hl unit _

/-- A completion is in the log once sent. -/
theorem complete_completed (s : State) (op : LongOp) (st dt : Nat) (rs : List Tlv) :
    Completed (complete s op st dt rs) op st dt rs := by
  unfold complete completeAs
  exact sendEvent_logged (e := { code := 0x001, tag := op.hdr.tag, uptime := s.tm.uptime, completion := some _ }) rfl 0 _

end Sys2Proof.Machine
end

