-- ==== Sys2Proof/Laws/Tables.lean ====
section
/-! SUPPORT. Tables: what a read gives after a write, and that every write keeps the canonical form; the same for memory bytes. -/

namespace Sys2Proof.Machine

variable {α : Type}

/-- A table whose keys lie above `lo` has keys above every smaller number. -/
theorem risingFrom_mono {lo lo' : Nat} {t : Tbl α} (h : risingFrom lo t = true) (hl : lo' ≤ lo) : risingFrom lo' t = true := by
  cases t with
  | nil => rfl
  | cons e t =>
    simp only [risingFrom, Bool.and_eq_true, decide_eq_true_eq] at *
    exact ⟨by omega, h.2⟩

/-- A key below every key of a table is unlisted. -/
theorem tget_below {lo k : Nat} {d : α} {t : Tbl α} (h : risingFrom lo t = true) (hk : k < lo) : tget d t k = d := by
  induction t generalizing lo with
  | nil => rfl
  | cons e t ih =>
    simp only [risingFrom, Bool.and_eq_true, decide_eq_true_eq] at h
    simp only [tget]
    rw [if_neg (by omega)]
    exact ih h.2 (by omega)

variable [DecidableEq α]

/-- A write leaves every other key. -/
theorem tget_tset_other {d d' : α} {t : Tbl α} {k j : Nat} {v : α} (h : j ≠ k) : tget d' (tset d t k v) j = tget d' t j := by
  induction t with
  | nil =>
    simp only [tset]
    split
    · rfl
    · simp only [tget]; rw [if_neg (by omega)]
  | cons e t ih =>
    simp only [tset]
    split
    · split
      · rfl
      · conv => lhs; simp only [tget]
        rw [if_neg (by omega)]
        rfl
    · split
      · split
        · simp only [tget]; rw [if_neg (by omega)]
        · simp only [tget]; rw [if_neg (by omega), if_neg (by omega)]
      · simp only [tget, ih]

/-- The key written reads the value written. -/
theorem tget_tset_same {d : α} {t : Tbl α} {k lo : Nat} {v : α} (h : risingFrom lo t = true) : tget d (tset d t k v) k = v := by
  induction t generalizing lo with
  | nil =>
    simp only [tset]
    split
    · next hv => rw [hv]; rfl
    · simp only [tget]; rw [if_pos trivial]
  | cons e t ih =>
    have h' := h
    simp only [risingFrom, Bool.and_eq_true, decide_eq_true_eq] at h
    simp only [tset]
    split
    · next hlt =>
      split
      · next hv =>
        simp only [tget]
        rw [if_neg (by omega), hv]
        exact tget_below h.2 (by omega)
      · simp only [tget]; rw [if_pos trivial]
    · split
      · next _ he =>
        split
        · next hv =>
          rw [hv]
          exact tget_below h.2 (by omega)
        · simp only [tget]; rw [if_pos trivial]
      · next _ hne =>
        simp only [tget]
        rw [if_neg (by omega)]
        exact ih h.2

/-- A write keeps the keys rising. -/
theorem risingFrom_tset {d : α} {t : Tbl α} {k lo : Nat} {v : α} (h : risingFrom lo t = true) (hk : lo ≤ k) :
    risingFrom lo (tset d t k v) = true := by
  induction t generalizing lo with
  | nil =>
    simp only [tset]
    split
    · rfl
    · simp [risingFrom, hk]
  | cons e t ih =>
    have h' := h
    simp only [risingFrom, Bool.and_eq_true, decide_eq_true_eq] at h
    simp only [tset]
    split
    · next hlt =>
      split
      · exact h'
      · simp only [risingFrom, Bool.and_eq_true, decide_eq_true_eq]
        exact ⟨hk, by omega, h.2⟩
    · split
      · next _ he =>
        split
        · exact risingFrom_mono h.2 (by omega)
        · simp only [risingFrom, Bool.and_eq_true, decide_eq_true_eq]
          exact ⟨hk, by rw [he]; exact h.2⟩
      · next hn hne =>
        simp only [risingFrom, Bool.and_eq_true, decide_eq_true_eq]
        exact ⟨h.1, ih h.2 (by omega)⟩

/-- A write keeps the canonical form. -/
theorem tableWf_tset {d : Nat → α} {t : Tbl α} {k : Nat} {v : α} (h : tableWf d t = true) : tableWf d (tset (d k) t k v) = true := by
  simp only [tableWf, Bool.and_eq_true, List.all_eq_true, decide_eq_true_eq] at *
  refine ⟨risingFrom_tset h.1 (Nat.zero_le _), ?_⟩
  have all := h.2
  clear h
  induction t with
  | nil =>
    intro x hx
    simp only [tset] at hx
    split at hx
    · cases hx
    · next hv =>
      rw [List.mem_singleton] at hx
      rw [hx]; exact hv
  | cons e t ih =>
    intro x hx
    simp only [tset] at hx
    split at hx
    · split at hx
      · exact all x hx
      · next hv =>
        rw [List.mem_cons] at hx
        rcases hx with hx | hx
        · rw [hx]; exact hv
        · exact all x hx
    · split at hx
      · split at hx
        · exact all x (List.mem_cons_of_mem _ hx)
        · next hv =>
          rw [List.mem_cons] at hx
          rcases hx with hx | hx
          · rw [hx]; exact hv
          · exact all x (List.mem_cons_of_mem _ hx)
      · rw [List.mem_cons] at hx
        rcases hx with hx | hx
        · exact all x (hx ▸ List.mem_cons_self ..)
        · exact ih (fun y hy => all y (List.mem_cons_of_mem _ hy)) x hx

/-- The keys of a canonical table rise. -/
theorem rising_of_wf {d : Nat → α} {t : Tbl α} (h : tableWf d t = true) : risingFrom 0 t = true := by
  simp only [tableWf, Bool.and_eq_true] at h; exact h.1

/-! Memory -/

/-- A byte written reads back. -/
theorem memGet_memPut_same {m : List Host.Cell} {a : Nat} {b : Byte} (h : memWf m = true) : memGet (memPut m a b) a = b :=
  tget_tset_same (rising_of_wf h)

/-- A write of one byte leaves every other. -/
theorem memGet_memPut_other {m : List Host.Cell} {a x : Nat} {b : Byte} (h : x ≠ a) : memGet (memPut m a b) x = memGet m x :=
  tget_tset_other h

/-- A write of one byte keeps the canonical form. -/
theorem memWf_memPut {m : List Host.Cell} {a : Nat} {b : Byte} (h : memWf m = true) : memWf (memPut m a b) = true :=
  tableWf_tset (d := fun _ => (0 : Byte)) h

/-- A write of bytes keeps the canonical form. -/
theorem memWf_memPutAll {m : List Host.Cell} {a : Nat} {l : List Byte} (h : memWf m = true) : memWf (memPutAll m a l) = true := by
  induction l generalizing m a with
  | nil => exact h
  | cons b l ih => exact ih (memWf_memPut h)

/-- A write of bytes leaves every address outside them. -/
theorem memGet_memPutAll_other {m : List Host.Cell} {a x : Nat} {l : List Byte} (h : x < a ∨ a + l.length ≤ x) :
    memGet (memPutAll m a l) x = memGet m x := by
  induction l generalizing m a with
  | nil => rfl
  | cons b l ih =>
    simp only [List.length_cons] at h
    simp only [memPutAll]
    rw [ih (by omega), memGet_memPut_other (by omega)]

/-- Bytes written read back. -/
theorem memGet_memPutAll {m : List Host.Cell} {a k : Nat} {l : List Byte} (h : memWf m = true) (hk : k < l.length) :
    memGet (memPutAll m a l) (a + k) = l[k] := by
  induction l generalizing m a k with
  | nil => cases hk
  | cons b l ih =>
    simp only [memPutAll]
    cases k with
    | zero =>
      rw [memGet_memPutAll_other (by omega), Nat.add_zero, memGet_memPut_same h]; rfl
    | succ k =>
      have := ih (m := memPut m a b) (a := a + 1) (k := k) (memWf_memPut h) (by simpa using hk)
      rw [show a + (k + 1) = a + 1 + k by omega, this]; rfl

/-- The memories and registers after reset are in canonical form. -/
theorem reset_canonical : Canonical State.reset := by
  refine ⟨rfl, rfl, rfl⟩

end Sys2Proof.Machine
end

