-- ==== Sys2Proof/Laws/Regs.lean ====
section
/-! SUPPORT. Registers: what a field reads after a write to it, to another field of its register, or to another register; what
`fset` changes in the state; and that it keeps the canonical form. -/

namespace Sys2Proof.Machine

/-- A word as the parts above, in and below a field. -/
theorem split_word (x lo width : Nat) :
    x = x / 2 ^ (lo + width) * 2 ^ (lo + width) + ((x >>> lo) % 2 ^ width) * 2 ^ lo + x % 2 ^ lo := by
  have h1 : x / 2 ^ lo = x / 2 ^ (lo + width) * 2 ^ width + (x >>> lo) % 2 ^ width := by
    rw [Nat.shiftRight_eq_div_pow, Nat.pow_add, ← Nat.div_div_eq_div_mul]
    exact (Nat.div_add_mod' _ _).symm
  have h2 : x = x / 2 ^ lo * 2 ^ lo + x % 2 ^ lo := (Nat.div_add_mod' _ _).symm
  conv => lhs; rw [h2, h1]
  rw [Nat.add_mul, Nat.mul_assoc, ← Nat.pow_add, Nat.add_comm width lo]

/-- The number that `putBits` stores. -/
theorem putBits_toNat {w : Word} {lo width v : Nat} (hw : lo + width ≤ 32) :
    (putBits w lo width v).toNat =
      w.toNat / 2 ^ (lo + width) * 2 ^ (lo + width) + (v % 2 ^ width) * 2 ^ lo + w.toNat % 2 ^ lo := by
  have hs := split_word w.toNat lo width
  have hlt : w.toNat < 2 ^ 32 := w.isLt
  have hv : v % 2 ^ width < 2 ^ width := Nat.mod_lt _ (Nat.two_pow_pos _)
  have hL : w.toNat % 2 ^ lo < 2 ^ lo := Nat.mod_lt _ (Nat.two_pow_pos _)
  have hbound : w.toNat / 2 ^ (lo + width) * 2 ^ (lo + width) + (v % 2 ^ width) * 2 ^ lo + w.toNat % 2 ^ lo < 2 ^ 32 := by
    have h1 : w.toNat / 2 ^ (lo + width) < 2 ^ (32 - (lo + width)) := by
      rw [Nat.div_lt_iff_lt_mul (Nat.two_pow_pos _), ← Nat.pow_add]
      rwa [Nat.sub_add_cancel hw]
    have h2 : w.toNat / 2 ^ (lo + width) * 2 ^ (lo + width) + 2 ^ (lo + width) ≤ 2 ^ 32 := by
      have := Nat.mul_le_mul_right (2 ^ (lo + width)) (Nat.succ_le_of_lt h1)
      rw [Nat.succ_mul, ← Nat.pow_add, Nat.sub_add_cancel hw] at this
      exact this
    have h3 : (v % 2 ^ width) * 2 ^ lo + w.toNat % 2 ^ lo < 2 ^ (lo + width) := by
      have := Nat.mul_le_mul_right (2 ^ lo) (Nat.succ_le_of_lt hv)
      rw [Nat.succ_mul, ← Nat.pow_add, Nat.add_comm width lo] at this
      omega
    omega
  unfold putBits
  rw [BitVec.toNat_ofNat]
  have e : w.toNat - (w.toNat >>> lo) % 2 ^ width * 2 ^ lo + v % 2 ^ width * 2 ^ lo =
      w.toNat / 2 ^ (lo + width) * 2 ^ (lo + width) + (v % 2 ^ width) * 2 ^ lo + w.toNat % 2 ^ lo := by
    omega
  rw [e]
  exact Nat.mod_eq_of_lt hbound

/-- The field written reads the value written. -/
theorem getBits_putBits {w : Word} {lo width v : Nat} (hw : lo + width ≤ 32) : getBits (putBits w lo width v) lo width = v % 2 ^ width := by
  unfold getBits
  rw [putBits_toNat hw, Nat.shiftRight_eq_div_pow]
  have hL : w.toNat % 2 ^ lo < 2 ^ lo := Nat.mod_lt _ (Nat.two_pow_pos _)
  have e : w.toNat / 2 ^ (lo + width) * 2 ^ (lo + width) + (v % 2 ^ width) * 2 ^ lo + w.toNat % 2 ^ lo =
      2 ^ lo * (w.toNat / 2 ^ (lo + width) * 2 ^ width + v % 2 ^ width) + w.toNat % 2 ^ lo := by
    rw [Nat.pow_add]
    simp only [Nat.mul_add, Nat.mul_comm, Nat.mul_assoc]
  rw [e, Nat.mul_add_div (Nat.two_pow_pos _), Nat.div_eq_of_lt hL, Nat.add_zero, Nat.mul_comm,
    Nat.mul_add_mod, Nat.mod_mod]

/-- A field of the same register above or below the one written is unchanged. -/
theorem getBits_putBits_other {w : Word} {lo width v lo' width' : Nat} (hw : lo + width ≤ 32)
    (h : lo' + width' ≤ lo ∨ lo + width ≤ lo') : getBits (putBits w lo width v) lo' width' = getBits w lo' width' := by
  have hs := split_word w.toNat lo width
  have hL : w.toNat % 2 ^ lo < 2 ^ lo := Nat.mod_lt _ (Nat.two_pow_pos _)
  unfold getBits
  rw [putBits_toNat hw]
  simp only [Nat.shiftRight_eq_div_pow]
  rcases h with h | h
  · have low : ∀ n : Nat, n / 2 ^ lo' % 2 ^ width' = n % 2 ^ lo % 2 ^ (lo' + width') / 2 ^ lo' := by
      intro n
      rw [Nat.mod_mod_of_dvd _ (Nat.pow_dvd_pow 2 h), Nat.pow_add, Nat.mod_mul_right_div_self]
    rw [low, low w.toNat]
    have e : w.toNat / 2 ^ (lo + width) * 2 ^ (lo + width) + (v % 2 ^ width) * 2 ^ lo + w.toNat % 2 ^ lo =
        2 ^ lo * (w.toNat / 2 ^ (lo + width) * 2 ^ width + v % 2 ^ width) + w.toNat % 2 ^ lo := by
      rw [Nat.pow_add]
      simp only [Nat.mul_add, Nat.mul_comm, Nat.mul_assoc]
    rw [e, Nat.mul_add_mod, Nat.mod_mod]
  · have hi : ∀ n : Nat, n / 2 ^ lo' = n / 2 ^ (lo + width) / 2 ^ (lo' - (lo + width)) := by
      intro n
      rw [Nat.div_div_eq_div_mul, ← Nat.pow_add, Nat.add_sub_cancel' h]
    rw [hi, hi w.toNat]
    have hv : v % 2 ^ width < 2 ^ width := Nat.mod_lt _ (Nat.two_pow_pos _)
    have h3 : (v % 2 ^ width) * 2 ^ lo + w.toNat % 2 ^ lo < 2 ^ (lo + width) := by
      have := Nat.mul_le_mul_right (2 ^ lo) (Nat.succ_le_of_lt hv)
      rw [Nat.succ_mul, ← Nat.pow_add, Nat.add_comm width lo] at this
      omega
    have e : (w.toNat / 2 ^ (lo + width) * 2 ^ (lo + width) + (v % 2 ^ width) * 2 ^ lo + w.toNat % 2 ^ lo) / 2 ^ (lo + width) =
        w.toNat / 2 ^ (lo + width) := by
      rw [Nat.add_assoc, Nat.mul_comm (w.toNat / 2 ^ (lo + width)), Nat.mul_add_div (Nat.two_pow_pos _), Nat.div_eq_of_lt h3,
        Nat.add_zero]
    rw [e]

/-! Register words -/

/-- A word written reads back. -/
theorem rget_rput_same {s : State} {a : Nat} {w : Word} (h : tableWf regReset s.regs = true) : rget (rput s a w) a = w :=
  tget_tset_same (rising_of_wf h)

/-- A word written leaves every other. -/
theorem rget_rput_other {s : State} {a b : Nat} {w : Word} (h : b ≠ a) : rget (rput s a w) b = rget s b :=
  tget_tset_other h

/-- `fset` changes register words alone. -/
theorem fset_only (s : State) (f : Fld) (i v : Nat) : fset s f i v = { s with regs := (fset s f i v).regs } := rfl

/-- A field written reads the value written. -/
theorem fget_fset {s : State} {f : Fld} {i v : Nat} (h : tableWf regReset s.regs = true) (hw : f.lo + f.width ≤ 32) :
    fget (fset s f i v) f i = v % 2 ^ f.width := by
  unfold fget fset
  rw [rget_rput_same h, getBits_putBits hw]

/-- Another field of the same register is unchanged. -/
theorem fget_fset_field {s : State} {f g : Fld} {i j v : Nat} (h : tableWf regReset s.regs = true) (hw : f.lo + f.width ≤ 32)
    (ha : g.addr j = f.addr i) (hd : g.lo + g.width ≤ f.lo ∨ f.lo + f.width ≤ g.lo) :
    fget (fset s f i v) g j = fget s g j := by
  unfold fget fset
  rw [ha, rget_rput_same h, getBits_putBits_other hw hd]

/-- A field of another register is unchanged. -/
theorem fget_fset_reg {s : State} {f g : Fld} {i j v : Nat} (ha : g.addr j ≠ f.addr i) : fget (fset s f i v) g j = fget s g j := by
  unfold fget fset
  rw [rget_rput_other ha]

/-- Another register is unchanged. -/
theorem rget_fset_other {s : State} {f : Fld} {i v a : Nat} (ha : a ≠ f.addr i) : rget (fset s f i v) a = rget s a := by
  unfold fset
  rw [rget_rput_other ha]

/-- A register write keeps the canonical form of the register words. -/
theorem rput_wf {s : State} {a : Nat} {w : Word} (h : tableWf regReset s.regs = true) : tableWf regReset (rput s a w).regs = true :=
  tableWf_tset h

theorem fset_wf {s : State} {f : Fld} {i v : Nat} (h : tableWf regReset s.regs = true) :
    tableWf regReset (fset s f i v).regs = true :=
  rput_wf h

/-- What a field reads depends on the register words alone. -/
theorem fget_congr {s t : State} {f : Fld} {i : Nat} (h : t.regs = s.regs) : fget t f i = fget s f i := by
  unfold fget rget; rw [h]

end Sys2Proof.Machine
end

