-- ==== Sys2Proof/Laws/Kept.lean ====
section
/-! SUPPORT. What register writes leave: the bits outside the fields written (R13, R17). -/

namespace Sys2Proof.Machine

theorem RegsKept.refl (s : State) (ex : List (Nat × Nat × Nat)) : RegsKept s s ex := fun _ _ _ => rfl

/-- States with the same register words. -/
theorem RegsKept.of_regs {s t : State} (ex : List (Nat × Nat × Nat)) (h : t.regs = s.regs) : RegsKept s t ex := by
  intro a b _; unfold rget; rw [h]

theorem RegsKept.trans {a b c : State} {ex : List (Nat × Nat × Nat)} (h : RegsKept a b ex) (k : RegsKept b c ex) : RegsKept a c ex :=
  fun x y hx => (k x y hx).trans (h x y hx)

/-- More exceptions, a weaker claim. -/
theorem RegsKept.mono {s t : State} {ex ex' : List (Nat × Nat × Nat)} (h : RegsKept s t ex) (hs : ∀ e ∈ ex, e ∈ ex') :
    RegsKept s t ex' :=
  fun a b hx => h a b fun e he => hx e (hs e he)

/-- A word written leaves every other register. -/
theorem regsKept_rput {s : State} {a : Nat} {w : Word}
    {ex : List (Nat × Nat × Nat)} (he : (a, 0, 32) ∈ ex) : RegsKept s (rput s a w) ex := by
  intro x b hx
  by_cases h : x = a
  · have hb : ¬ b < 32 := fun hb => hx _ he ⟨h, Nat.zero_le _, by omega⟩
    subst h
    have hz : ∀ v : Word, getBits v b 1 = 0 := by
      intro v
      unfold getBits
      have : v.toNat < 2 ^ b := Nat.lt_of_lt_of_le v.isLt (Nat.pow_le_pow_right (by decide) (by omega))
      rw [Nat.shiftRight_eq_div_pow, Nat.div_eq_of_lt this] <;> rfl
    rw [hz, hz]
  · rw [rget_rput_other h]

/-- A field written leaves every other bit. -/
theorem regsKept_fset {s : State} {f : Fld} {i v : Nat} {ex : List (Nat × Nat × Nat)} (h : tableWf regReset s.regs = true)
    (hw : f.lo + f.width ≤ 32) (he : f.bits i ∈ ex) : RegsKept s (fset s f i v) ex := by
  intro x b hx
  by_cases hxa : x = f.addr i
  · have hb : ¬(f.lo ≤ b ∧ b < f.lo + f.width) := fun hb => hx _ he ⟨hxa, hb⟩
    subst hxa
    unfold fset
    rw [rget_rput_same h]
    exact getBits_putBits_other hw (by omega)
  · rw [rget_fset_other hxa]

/-- What one field write does. -/
theorem fieldSet_fset {s : State} {f : Fld} {i v : Nat} (h : tableWf regReset s.regs = true) (hw : f.lo + f.width ≤ 32) :
    FieldSet s (fset s f i v) f i (v % 2 ^ f.width) :=
  ⟨rfl, fget_fset h hw, regsKept_fset h hw (by simp)⟩

/-- Bits that agree one by one agree as a number. -/
theorem getBits_of_bits {v w : Word} {lo n : Nat} (h : ∀ b, lo ≤ b → b < lo + n → getBits v b 1 = getBits w b 1) :
    getBits v lo n = getBits w lo n := by
  unfold getBits at *
  apply Nat.eq_of_testBit_eq
  intro k
  rw [Nat.testBit_mod_two_pow, Nat.testBit_mod_two_pow, Nat.testBit_shiftRight, Nat.testBit_shiftRight]
  by_cases hk : k < n
  · have e := h (lo + k) (by omega) (by omega)
    simp only [hk, decide_true, Bool.true_and, Nat.testBit, Nat.one_and_eq_mod_two] at *
    simp only [Nat.pow_one] at e
    rw [e]
  · simp [hk]

/-- A field none of whose bits is among the exceptions reads as before. -/
theorem RegsKept.fget {s t : State} {ex : List (Nat × Nat × Nat)} (h : RegsKept s t ex) {f : Fld} {i : Nat}
    (hd : ∀ e ∈ ex, f.addr i = e.1 → f.lo + f.width ≤ e.2.1 ∨ e.2.1 + e.2.2 ≤ f.lo) : fget t f i = fget s f i := by
  unfold Machine.fget
  apply getBits_of_bits
  intro b h1 h2
  apply h
  rintro e he ⟨ha, hb, hc⟩
  rcases hd e he ha with h | h <;> omega

/-- A register that none of the exceptions touches reads as before. -/
theorem RegsKept.rget {s t : State} {ex : List (Nat × Nat × Nat)} (h : RegsKept s t ex) {a : Nat} (hd : ∀ e ∈ ex, a ≠ e.1) :
    rget t a = rget s a := by
  have hb : getBits (Machine.rget t a) 0 32 = getBits (Machine.rget s a) 0 32 := by
    apply getBits_of_bits
    intro b _ _
    exact h a b fun e he hx => hd e he hx.1
  unfold getBits at hb
  rw [Nat.shiftRight_zero, Nat.shiftRight_zero, Nat.mod_eq_of_lt (Machine.rget t a).isLt, Nat.mod_eq_of_lt (Machine.rget s a).isLt] at hb
  exact BitVec.eq_of_toNat_eq hb

end Sys2Proof.Machine
end

