-- ==== Sys2Proof/Laws/Cave.lean ====
section
/-! SUPPORT. The Cave's queues: what entering them leaves, what judging panic can do, and that an access waits for nothing while no write
stands in a queue (R323, R327, R328, R331). -/

namespace Sys2Proof.Machine

/-! Entering a queue changes the queue -/

theorem queueWrite_eq (s : State) (port a : Nat) (l : List (Byte × Bool)) :
    queueWrite s port a l = { s with cave := { s.cave with
      nextReq := s.cave.nextReq + ceilDiv l.length 4096,
      reqs := s.cave.reqs ++ splitWrite port (ceilDiv l.length 4096) s.cave.nextReq a l } } := rfl

theorem queueRead_eq (s : State) (r : P0Read) :
    queueRead s r = { s with cave := { s.cave with nextReq := s.cave.nextReq + 1 },
                             ws := { s.ws with reads := s.ws.reads ++ [{ r with entered := s.cave.nextReq }] } } := rfl

@[simp] theorem queueWrite_caveMem (s : State) (p a : Nat) (l : List (Byte × Bool)) : (queueWrite s p a l).caveMem = s.caveMem := rfl
@[simp] theorem queueWrite_regs (s : State) (p a : Nat) (l : List (Byte × Bool)) : (queueWrite s p a l).regs = s.regs := rfl
@[simp] theorem queueWrite_fh (s : State) (p a : Nat) (l : List (Byte × Bool)) : (queueWrite s p a l).fh = s.fh := rfl
@[simp] theorem queueWrite_cap (s : State) (p a : Nat) (l : List (Byte × Bool)) : (queueWrite s p a l).cap = s.cap := rfl
@[simp] theorem queueRead_caveMem (s : State) (r : P0Read) : (queueRead s r).caveMem = s.caveMem := rfl
@[simp] theorem queueRead_fh (s : State) (r : P0Read) : (queueRead s r).fh = s.fh := rfl
@[simp] theorem queueRead_regs (s : State) (r : P0Read) : (queueRead s r).regs = s.regs := rfl

theorem nextRequest_only (s : State) (c : Nat) :
    nextRequest s c = { s with dma := (nextRequest s c).dma, cave := { s.cave with
      nextReq := (nextRequest s c).cave.nextReq, reqs := (nextRequest s c).cave.reqs } } := by
  unfold nextRequest
  simp only []
  split <;> rfl

/-! Marks of Cave words -/

/-- A mark set or cleared changes the marks of the word, and of its copy while its rank migrates. -/
theorem putMark_only (s : State) (wa : Nat) (m : Bool) :
    putMark s wa m = { s with cavePoison := tset false s.cavePoison wa m, cave := { s.cave with
      migPoison := (putMark s wa m).cave.migPoison, migBytes := (putMark s wa m).cave.migBytes } } := by
  unfold putMark
  simp only []
  split <;> rfl

theorem putMark_mark {s : State} {wa : Nat} {m : Bool} (h : tableWf (fun _ => false) s.cavePoison = true) :
    tget false (putMark s wa m).cavePoison wa = m := by
  rw [putMark_only]
  exact tget_tset_same (rising_of_wf h)

theorem putMark_other {s : State} {wa wb : Nat} {m : Bool} (h : wb ≠ wa) :
    tget false (putMark s wa m).cavePoison wb = tget false s.cavePoison wb := by
  rw [putMark_only]
  exact tget_tset_other h

/-! With no write queued, an access waits for nothing -/

theorem portReqs_idle {s : State} (h : NoWritesQueued s) (p : Nat) (w : Bool) : portReqs s p w = [] := by
  simp [portReqs, h.2.2]

theorem entriesBefore_idle {s : State} (h : NoWritesQueued s) (a len b : Nat) : entriesBefore s a len b = 0 := by
  simp [entriesBefore, entryWrites, h.1, h.2.1]

theorem portWritesBefore_idle {s : State} (h : NoWritesQueued s) (a len b : Nat) : portWritesBefore s a len b = [] := by
  simp [portWritesBefore, writesBefore, portReqs_idle h]

theorem awaitWrites_idle {s : State} (h : NoWritesQueued s) (a len b : Nat) (r : Bool) : awaitWrites s a len b r = s := by
  simp [awaitWrites, entriesBefore_idle h, portWritesBefore_idle h]

theorem drainHeld_idle {s : State} (h : NoWritesQueued s) (a len : Nat) : drainHeld s a len = false := by
  simp [drainHeld, entriesBefore_idle h, portWritesBefore_idle h]

theorem memLater_idle {s : State} (h : NoWritesQueued s) (a len : Nat) : memLater s a len = memSlice s.caveMem a len := by
  simp [memLater, h.2.2]

theorem markLater_idle {s : State} (h : NoWritesQueued s) (wa : Nat) : markLater s wa = tget false s.cavePoison wa := by
  simp [markLater, h.2.2]

/-! Panic -/

/-- Judging panic changes the panic flag, its count, its event bit and the event state. -/
theorem judgePanic_only (s : State) :
    EventsOnly { s with regs := (judgePanic s).regs, cave := { s.cave with panic := (judgePanic s).cave.panic } } (judgePanic s) := by
  unfold judgePanic
  split
  · split <;> rfl
  · split
    · have h : ∀ u v : State, EventsOnly u v → EventsOnly { u with regs := v.regs, cave := { u.cave with panic := v.cave.panic } } v :=
        fun u v h => by rw [h]; rfl
      exact h (fset (finc { s with cave := { s.cave with panic := true } } F.p0PanicCnt) F.caveEventPanic 0 1) _
        (raise_eventsOnly _ _ _ _)
    · rfl

end Sys2Proof.Machine
end

