-- ==== Sys2Proof/Laws/Ccp.lean ====
section
/-! SUPPORT. What Cox's execution of one command can do: a command that Cox takes is judged by its body in the state where its reply
slot is open (`opened`), and `answer` fills that slot, keeps the reply and sends what may leave (R438 to R440). -/

namespace Sys2Proof.Machine

/-- The state in which a command's checks are made: its slot is open and it is among the last 16 of its path. -/
def opened (s : State) (h : CmdHdr) (op : Nat) (i : Instr) : State :=
  pushDone (openSlot s h op) h.path { tag := h.tag, slot := s.ccp.nextSlot, instr := some (bare i), raw := [], reply := none }

/-- The opened state is the old one but for the reply slot and the command kept. -/
theorem opened_eq (s : State) (h : CmdHdr) (op : Nat) (i : Instr) :
    opened s h op i = { s with ccp := { s.ccp with
      nextSlot := s.ccp.nextSlot + 1, replyBand := (opened s h op i).ccp.replyBand,
      replyMspi := (opened s h op i).ccp.replyMspi, doneBand := (opened s h op i).ccp.doneBand,
      doneMspi := (opened s h op i).ccp.doneMspi } } := by
  unfold opened pushDone openSlot
  rcases h with ⟨_ | _, tag⟩ <;> rfl

/-- Opening a slot leaves the mode column's verdict. -/
theorem modeCheck_opened (s : State) (h : CmdHdr) (op : Nat) (i : Instr) (o : Nat) :
    modeCheck (opened s h op i) o = modeCheck s o := by
  rw [opened_eq]; rfl

/-- A command that repeats none of the last 16 is not found among them. -/
theorem Takes.fresh {s : State} {h : CmdHdr} {op : Nat} {i : Instr} (ht : Takes s h op i) :
    (doneOf s h.path).find? (fun d => decide (d.tag = h.tag ∧ d.instr = some (bare i))) = none := by
  simp only [List.find?_eq_none, decide_eq_true_eq, not_and]
  exact ht.2.2

/-- Cox's execution of a command that it takes. -/
theorem ccpRun_takes {s : State} {h : CmdHdr} {op : Nat} {i : Instr} {body : Nat → State → State × Ans} (ht : Takes s h op i) :
    ccpRun h op i body s = match body s.ccp.nextSlot (opened s h op i) with
      | (s2, .done st dt rs po) =>
        answer s2 s.ccp.nextSlot { opcode := op, tag := h.tag, status := st, detail := dt, results := rs, poison := po }
      | (s2, .wait) => s2
      | (_, .accept post) =>
        if 32 ≤ s.ccp.longOps.length then answer (opened s h op i) s.ccp.nextSlot (stReply h op stBusy 0)
        else
          post (answer { (opened s h op i) with ccp := { (opened s h op i).ccp with
            longOps := s.ccp.longOps ++ [{ hdr := h, opcode := op }] } } s.ccp.nextSlot (stReply h op stAccepted 0)) := by
  have hl : (opened s h op i).ccp.longOps = s.ccp.longOps := by rw [opened_eq]
  have hm : modeCheck (opened s h op i) op = none := by rw [modeCheck_opened]; exact ht.2.1
  unfold ccpRun
  simp only [ht.1, ht.fresh, Bool.not_true, Bool.false_eq_true, if_false]
  change (match modeCheck (opened s h op i) op with
      | some (st, dt) => _
      | none => _) = _
  rw [hm]
  simp only []
  change (match body s.ccp.nextSlot (opened s h op i) with
    | (s2, .done st dt rs po) => _
    | (s2, .wait) => s2
    | (_, .accept post) => _) = _
  rw [← hl]
  rfl

/-- A command that Cox does not run for changes nothing (R30). -/
theorem ccpRun_idle {s : State} {h : CmdHdr} {op : Nat} {i : Instr} {body : Nat → State → State × Ans} (hc : coxRuns s = false) :
    ccpRun h op i body s = s := by
  unfold ccpRun; simp [hc]

/-- An answer changes the replies, the last 16 commands and what waits to leave, and nothing else. -/
theorem answer_only (s : State) (id : Nat) (r : Reply) :
    answer s id r = { s with ccp := { s.ccp with
      replyBand := (answer s id r).ccp.replyBand, replyMspi := (answer s id r).ccp.replyMspi,
      outBand := (answer s id r).ccp.outBand, outMspi := (answer s id r).ccp.outMspi,
      doneBand := (answer s id r).ccp.doneBand, doneMspi := (answer s id r).ccp.doneMspi } } := rfl

/-- What the opened state keeps of the command. -/
theorem opened_done (s : State) (h : CmdHdr) (op : Nat) (i : Instr) :
    ∃ l, doneOf (opened s h op i) h.path =
      { tag := h.tag, slot := s.ccp.nextSlot, instr := some (bare i), raw := [], reply := none } :: l := by
  unfold opened pushDone openSlot doneOf
  rcases h with ⟨_ | _, tag⟩ <;> exact ⟨_, rfl⟩

/-- The reply slots of the opened state. -/
theorem opened_slots (s : State) (h : CmdHdr) (op : Nat) (i : Instr) :
    slotsOf (opened s h op i) h.path =
      slotsOf s h.path ++ [{ id := s.ccp.nextSlot, hdr := h, opcode := op, reply := none }] := by
  unfold opened pushDone openSlot slotsOf
  rcases h with ⟨_ | _, tag⟩ <;> rfl

/-- The newest kept command, filled with its reply. -/
theorem answer_kept {s : State} {p : CcpPath} {d : DoneCmd} {l : List DoneCmd} {r : Reply} (hd : doneOf s p = d :: l) :
    (doneOf (answer s d.slot r) p).head? = some { d with reply := some r } := by
  cases p
  · have hd' : s.ccp.doneBand = d :: l := hd
    change (fillDone s.ccp.doneBand d.slot r).head? = _
    rw [hd']; simp [fillDone]
  · have hd' : s.ccp.doneMspi = d :: l := hd
    change (fillDone s.ccp.doneMspi d.slot r).head? = _
    rw [hd']; simp [fillDone]

/-- The only waiting slot, once filled, leaves. -/
theorem answer_out {s : State} {p : CcpPath} {q : ReplySlot} {r : Reply} (hs : slotsOf s p = [q]) :
    CcpOut.reply r ∈ outOf (answer s q.id r) p := by
  cases p
  · have hs' : s.ccp.replyBand = [q] := hs
    simp [outOf, answer, flushReplies, hs', fillIn, readyReplies]
  · have hs' : s.ccp.replyMspi = [q] := hs
    simp [outOf, answer, flushReplies, hs', fillIn, readyReplies]

/-- A state whose lists of kept commands and of reply slots on a path are those of the opened state answers the command. -/
theorem answers_of {s s2 : State} {h : CmdHdr} {op : Nat} {i : Instr} {r : Reply}
    (hd : doneOf s2 h.path = doneOf (opened s h op i) h.path) (hs : slotsOf s2 h.path = slotsOf (opened s h op i) h.path) :
    Answers s (answer s2 s.ccp.nextSlot r) h i r := by
  obtain ⟨l, hl⟩ := opened_done s h op i
  constructor
  · have := answer_kept (r := r) (hd.trans hl)
    simp only [Kept, this, Option.map_some]
  · intro he
    have hs1 := hs.trans (opened_slots s h op i)
    rw [he, List.nil_append] at hs1
    exact answer_out hs1

/-- A command whose body ends at once completes: `s2` is what the body leaves. -/
theorem completes_done {s s2 eff : State} {h : CmdHdr} {op : Nat} {i : Instr} {body : Nat → State → State × Ans}
    {st dt : Nat} {rs : List Tlv} {po : Bool} (ht : Takes s h op i) (he : exec i s = .next (ccpRun h op i body s))
    (hb : body s.ccp.nextSlot (opened s h op i) = (s2, .done st dt rs po))
    (hd : doneOf s2 h.path = doneOf (opened s h op i) h.path) (hs : slotsOf s2 h.path = slotsOf (opened s h op i) h.path)
    (hr : RepliesOnly eff s2) :
    Completes s h i eff { opcode := op, tag := h.tag, status := st, detail := dt, results := rs, poison := po } := by
  refine ⟨_, he, ?_, ?_⟩
  · rw [ccpRun_takes ht, hb]
    exact answers_of hd hs
  · rw [ccpRun_takes ht, hb]
    unfold RepliesOnly at *
    simp only []
    rw [answer_only, hr]

/-- A command that only reports. -/
theorem completes_report {s : State} {h : CmdHdr} {op : Nat} {i : Instr} {body : Nat → State → State × Ans}
    {st dt : Nat} {rs : List Tlv} {po : Bool} (ht : Takes s h op i) (he : exec i s = .next (ccpRun h op i body s))
    (hb : body s.ccp.nextSlot (opened s h op i) = (opened s h op i, .done st dt rs po)) :
    Completes s h i s { opcode := op, tag := h.tag, status := st, detail := dt, results := rs, poison := po } :=
  completes_done ht he hb rfl rfl (by unfold RepliesOnly; rw [opened_eq])

/-- `s` with other reply slots and other kept commands: what a body sees in place of `s`. -/
def reSlot (s : State) (n : Nat) (rb rm : List ReplySlot) (db dm : List DoneCmd) : State :=
  { s with ccp := { s.ccp with nextSlot := n, replyBand := rb, replyMspi := rm, doneBand := db, doneMspi := dm } }

/-- A command whose body ends at once and does not look at reply slots or kept commands: `eff` is its effect. -/
theorem completes_eff {s eff : State} {h : CmdHdr} {op : Nat} {i : Instr} {body : Nat → State → State × Ans}
    {st dt : Nat} {rs : List Tlv} {po : Bool} (ht : Takes s h op i) (he : exec i s = .next (ccpRun h op i body s))
    (hb : ∀ n rb rm db dm, body s.ccp.nextSlot (reSlot s n rb rm db dm) = (reSlot eff n rb rm db dm, .done st dt rs po)) :
    Completes s h i eff { opcode := op, tag := h.tag, status := st, detail := dt, results := rs, poison := po } := by
  have e : opened s h op i = reSlot s (s.ccp.nextSlot + 1) (opened s h op i).ccp.replyBand (opened s h op i).ccp.replyMspi
      (opened s h op i).ccp.doneBand (opened s h op i).ccp.doneMspi := opened_eq s h op i
  refine completes_done ht he (by rw [e]; exact hb _ _ _ _ _) ?_ ?_ ?_
  · rcases h with ⟨_ | _, tag⟩ <;> rfl
  · rcases h with ⟨_ | _, tag⟩ <;> rfl
  · rfl

/-- A command whose change waits for a stroke. -/
theorem waits_stroke {s : State} {h : CmdHdr} {op grid : Nat} {i : Instr} {c : Change} {body : Nat → State → State × Ans}
    (ht : Takes s h op i) (he : exec i s = .next (ccpRun h op i body s))
    (hb : body s.ccp.nextSlot (opened s h op i) = defer (opened s h op i) h op s.ccp.nextSlot grid c) :
    WaitsForStroke s h op i grid c := by
  obtain ⟨l, hl⟩ := opened_done s h op i
  refine ⟨_, he, ?_, ?_⟩
  · rw [ccpRun_takes ht, hb]
    have : doneOf (defer (opened s h op i) h op s.ccp.nextSlot grid c).1 h.path = doneOf (opened s h op i) h.path := by
      rcases h with ⟨_ | _, tag⟩ <;> rfl
    simp only [Kept, defer] at *
    rw [this, hl]; rfl
  · rw [ccpRun_takes ht, hb]
    unfold RepliesOnly
    simp only [defer]
    rw [opened_eq]

/-- A command whose change waits for a stroke, by its body on any reply slots. -/
theorem waits_eff {s : State} {h : CmdHdr} {op grid : Nat} {i : Instr} {c : Change} {body : Nat → State → State × Ans}
    (ht : Takes s h op i) (he : exec i s = .next (ccpRun h op i body s))
    (hb : ∀ n rb rm db dm, body s.ccp.nextSlot (reSlot s n rb rm db dm) =
      defer (reSlot s n rb rm db dm) h op s.ccp.nextSlot grid c) :
    WaitsForStroke s h op i grid c := by
  have e : opened s h op i = reSlot s (s.ccp.nextSlot + 1) (opened s h op i).ccp.replyBand (opened s h op i).ccp.replyMspi
      (opened s h op i).ccp.doneBand (opened s h op i).ccp.doneMspi := opened_eq s h op i
  exact waits_stroke ht he (by rw [e]; exact hb _ _ _ _ _)

/-- A state that differs from `s` by replies alone. -/
def reReply (s : State) (n : Nat) (rb rm : List ReplySlot) (ob om : List CcpOut) (db dm : List DoneCmd) : State :=
  { s with ccp := { s.ccp with
    nextSlot := n, replyBand := rb, replyMspi := rm, outBand := ob, outMspi := om, doneBand := db, doneMspi := dm } }

/-- A long operation that is accepted and whose start touches no replies. -/
theorem accepts_eff {s : State} {h : CmdHdr} {op : Nat} {i : Instr} {body : Nat → State → State × Ans} {post eff : State → State}
    (ht : Takes s h op i) (hl : s.ccp.longOps.length < 32) (he : exec i s = .next (ccpRun h op i body s))
    (hb : ∀ n rb rm db dm, ∃ x, body s.ccp.nextSlot (reSlot s n rb rm db dm) = (x, .accept post))
    (hp : ∀ rb rm ob om db dm, post (reReply (withLong s h op) (s.ccp.nextSlot + 1) rb rm ob om db dm) =
      reReply (eff (withLong s h op)) (s.ccp.nextSlot + 1) rb rm ob om db dm) :
    Accepts s h op i eff := by
  have e : opened s h op i = reSlot s (s.ccp.nextSlot + 1) (opened s h op i).ccp.replyBand (opened s h op i).ccp.replyMspi
      (opened s h op i).ccp.doneBand (opened s h op i).ccp.doneMspi := opened_eq s h op i
  obtain ⟨x, hx⟩ := hb (s.ccp.nextSlot + 1) (opened s h op i).ccp.replyBand (opened s h op i).ccp.replyMspi
    (opened s h op i).ccp.doneBand (opened s h op i).ccp.doneMspi
  rw [← e] at hx
  have hA : Answers s (answer { (opened s h op i) with ccp := { (opened s h op i).ccp with
      longOps := s.ccp.longOps ++ [{ hdr := h, opcode := op }] } } s.ccp.nextSlot (stReply h op stAccepted 0)) h i
      (stReply h op stAccepted 0) := by
    refine answers_of (op := op) ?_ ?_ <;> rcases h with ⟨_ | _, tag⟩ <;> rfl
  obtain ⟨rb, rm, ob, om, db, dm, hq⟩ : ∃ rb rm ob om db dm,
      answer { (opened s h op i) with ccp := { (opened s h op i).ccp with
        longOps := s.ccp.longOps ++ [{ hdr := h, opcode := op }] } } s.ccp.nextSlot (stReply h op stAccepted 0) =
      reReply (withLong s h op) (s.ccp.nextSlot + 1) rb rm ob om db dm := by
    rw [answer_only, e]
    exact ⟨_, _, _, _, _, _, rfl⟩
  have hr : ccpRun h op i body s = post (answer { (opened s h op i) with ccp := { (opened s h op i).ccp with
      longOps := s.ccp.longOps ++ [{ hdr := h, opcode := op }] } } s.ccp.nextSlot (stReply h op stAccepted 0)) := by
    rw [ccpRun_takes ht, hx]
    simp only []
    rw [if_neg (by omega)]
  refine ⟨_, he, ?_, ?_⟩
  · rw [hr, hq, hp]
    rw [hq] at hA
    rcases h with ⟨_ | _, tag⟩ <;> exact hA
  · rw [hr, hq, hp]
    rfl

end Sys2Proof.Machine
end

