-- ==== Sys2Proof/Laws/Seats.lean ====
section
/-! SUPPORT. When a seat executes an instruction, and when it executes none (R131, R163, R168, R172). -/

namespace Sys2Proof.Machine

/-- A read that meets nothing delivers the word, and its code word's mark. -/
theorem pairRead_whole (word : Nat → Word) (mark : Nat → Bool) (w : Nat) {flt : WordFault} (h : flt.flips = []) (k : flt.waXor = 0) :
    pairRead word mark w flt = (if mark (w / 2) then .poisoned else .clean, word w) := by
  simp [pairRead, h, k]

/-- So a fetch that meets nothing is clean and brings the word at the seat's PC. -/
theorem fetchWord_whole (s : State) {q : SeatFetch} (h : q.fault.flips = []) (k : q.fault.waXor = 0) :
    fetchWord s q = (.clean, wordAtPc s q.n) := by
  simp [fetchWord, pairRead_whole _ _ _ h k, wordAtPc]

/-- What a load that meets nothing puts into its register. -/
theorem load_whole (t : Seat) (p : Nat) {flt : WordFault} (h : flt.flips = []) (k : flt.waXor = 0) :
    t.load p flt = {
      val := (tget {} t.mem (t.wordAt p)).val
      mark := (tget {} t.mem (2 * (t.wordAt p / 2))).mark || (tget {} t.mem (2 * (t.wordAt p / 2) + 1)).mark || nth false t.pMark p } := by
  unfold Seat.load Seat.dataRead
  rw [pairRead_whole _ _ _ h k]
  cases (tget {} t.mem (2 * (t.wordAt p / 2))).mark <;> cases (tget {} t.mem (2 * (t.wordAt p / 2) + 1)).mark <;> simp [Dec.marked]

/-- A seat that does not run, or whose word spells another instruction, executes nothing. -/
theorem seatStep_stays {q : SeatFetch} {i : Instr} {fx : State → State} {s : State} (h : seatRuns s q.n = false ∨ spelled s q i = false) :
    seatStep q i fx s = s := by
  rcases h with h | h <;> simp [seatStep, h]

/-- Else the instruction has its effect where its chunk has room, and none where it has not. -/
theorem seatStep_runs {q : SeatFetch} {i : Instr} {fx : State → State} {s : State} (r : seatRuns s q.n = true) (p : spelled s q i = true) :
    seatStep q i fx s = inChunk q.n s (fx (seatCorr s q.n (if (fetchWord s q).1 = .corrected then 1 else 0))) := by
  simp [seatStep, r, p]

/-- No chunk bounds work of class 1. -/
theorem inChunk_class1 {n : Nat} {s t : State} (h : (seatOf t n).kind ≠ 5 ∧ (seatOf t n).kind ≠ 7) : inChunk n s t = t := by
  simp [inChunk, h.1, h.2]

/-- Within 512 handshakes a chunk of class 2 or 3 work goes on. -/
theorem inChunk_room {n : Nat} {s t : State} (h : (seatOf t n).hcnt.toNat ≤ 512) : inChunk n s t = t := by
  have : ¬ 512 < (seatOf t n).hcnt.toNat := by omega
  simp [inChunk, this]

/-- Beyond them nothing happens. -/
theorem inChunk_full {n : Nat} {s t : State} (k : (seatOf t n).kind = 5 ∨ (seatOf t n).kind = 7) (h : 512 < (seatOf t n).hcnt.toNat) :
    inChunk n s t = s := by
  simp [inChunk, k, h]

end Sys2Proof.Machine
end

