-- ==== Sys2Proof/Laws/State.lean ====
section
/-! SUPPORT. One lemma per field of the state and per update by a named operation: what each leaves, so that no proof unfolds a
record update; and what a seat, a channel, a ring, a model slot and a cluster read after they are replaced. -/

namespace Sys2Proof.Machine

/-! A register word written leaves every part of the state but `regs` -/

@[simp] theorem rput_part (s : State) (a : Nat) (w : Word) : (rput s a w).part = s.part := rfl
@[simp] theorem rput_pw (s : State) (a : Nat) (w : Word) : (rput s a w).pw = s.pw := rfl
@[simp] theorem rput_md (s : State) (a : Nat) (w : Word) : (rput s a w).md = s.md := rfl
@[simp] theorem rput_ccp (s : State) (a : Nat) (w : Word) : (rput s a w).ccp = s.ccp := rfl
@[simp] theorem rput_fh (s : State) (a : Nat) (w : Word) : (rput s a w).fh = s.fh := rfl
@[simp] theorem rput_fab (s : State) (a : Nat) (w : Word) : (rput s a w).fab = s.fab := rfl
@[simp] theorem rput_ws (s : State) (a : Nat) (w : Word) : (rput s a w).ws = s.ws := rfl
@[simp] theorem rput_rf (s : State) (a : Nat) (w : Word) : (rput s a w).rf = s.rf := rfl
@[simp] theorem rput_cap (s : State) (a : Nat) (w : Word) : (rput s a w).cap = s.cap := rfl
@[simp] theorem rput_cal (s : State) (a : Nat) (w : Word) : (rput s a w).cal = s.cal := rfl
@[simp] theorem rput_cave (s : State) (a : Nat) (w : Word) : (rput s a w).cave = s.cave := rfl
@[simp] theorem rput_mi (s : State) (a : Nat) (w : Word) : (rput s a w).mi = s.mi := rfl
@[simp] theorem rput_dma (s : State) (a : Nat) (w : Word) : (rput s a w).dma = s.dma := rfl
@[simp] theorem rput_tm (s : State) (a : Nat) (w : Word) : (rput s a w).tm = s.tm := rfl
@[simp] theorem rput_th (s : State) (a : Nat) (w : Word) : (rput s a w).th = s.th := rfl
@[simp] theorem rput_mram (s : State) (a : Nat) (w : Word) : (rput s a w).mram = s.mram := rfl
@[simp] theorem rput_caveMem (s : State) (a : Nat) (w : Word) : (rput s a w).caveMem = s.caveMem := rfl
@[simp] theorem rput_sramMem (s : State) (a : Nat) (w : Word) : (rput s a w).sramMem = s.sramMem := rfl
@[simp] theorem rput_cavePoison (s : State) (a : Nat) (w : Word) : (rput s a w).cavePoison = s.cavePoison := rfl
@[simp] theorem rput_sramPoison (s : State) (a : Nat) (w : Word) : (rput s a w).sramPoison = s.sramPoison := rfl
@[simp] theorem rput_freeCnt (s : State) (a : Nat) (w : Word) : (rput s a w).freeCnt = s.freeCnt := rfl
@[simp] theorem rput_pending (s : State) (a : Nat) (w : Word) : (rput s a w).pending = s.pending := rfl

/-! A field written leaves every part of the state but `regs` -/

@[simp] theorem fset_part (s : State) (f : Fld) (i v : Nat) : (fset s f i v).part = s.part := rfl
@[simp] theorem fset_pw (s : State) (f : Fld) (i v : Nat) : (fset s f i v).pw = s.pw := rfl
@[simp] theorem fset_md (s : State) (f : Fld) (i v : Nat) : (fset s f i v).md = s.md := rfl
@[simp] theorem fset_ccp (s : State) (f : Fld) (i v : Nat) : (fset s f i v).ccp = s.ccp := rfl
@[simp] theorem fset_fh (s : State) (f : Fld) (i v : Nat) : (fset s f i v).fh = s.fh := rfl
@[simp] theorem fset_fab (s : State) (f : Fld) (i v : Nat) : (fset s f i v).fab = s.fab := rfl
@[simp] theorem fset_ws (s : State) (f : Fld) (i v : Nat) : (fset s f i v).ws = s.ws := rfl
@[simp] theorem fset_rf (s : State) (f : Fld) (i v : Nat) : (fset s f i v).rf = s.rf := rfl
@[simp] theorem fset_cap (s : State) (f : Fld) (i v : Nat) : (fset s f i v).cap = s.cap := rfl
@[simp] theorem fset_cal (s : State) (f : Fld) (i v : Nat) : (fset s f i v).cal = s.cal := rfl
@[simp] theorem fset_cave (s : State) (f : Fld) (i v : Nat) : (fset s f i v).cave = s.cave := rfl
@[simp] theorem fset_mi (s : State) (f : Fld) (i v : Nat) : (fset s f i v).mi = s.mi := rfl
@[simp] theorem fset_dma (s : State) (f : Fld) (i v : Nat) : (fset s f i v).dma = s.dma := rfl
@[simp] theorem fset_tm (s : State) (f : Fld) (i v : Nat) : (fset s f i v).tm = s.tm := rfl
@[simp] theorem fset_th (s : State) (f : Fld) (i v : Nat) : (fset s f i v).th = s.th := rfl
@[simp] theorem fset_mram (s : State) (f : Fld) (i v : Nat) : (fset s f i v).mram = s.mram := rfl
@[simp] theorem fset_caveMem (s : State) (f : Fld) (i v : Nat) : (fset s f i v).caveMem = s.caveMem := rfl
@[simp] theorem fset_sramMem (s : State) (f : Fld) (i v : Nat) : (fset s f i v).sramMem = s.sramMem := rfl
@[simp] theorem fset_cavePoison (s : State) (f : Fld) (i v : Nat) : (fset s f i v).cavePoison = s.cavePoison := rfl
@[simp] theorem fset_sramPoison (s : State) (f : Fld) (i v : Nat) : (fset s f i v).sramPoison = s.sramPoison := rfl
@[simp] theorem fset_freeCnt (s : State) (f : Fld) (i v : Nat) : (fset s f i v).freeCnt = s.freeCnt := rfl
@[simp] theorem fset_pending (s : State) (f : Fld) (i v : Nat) : (fset s f i v).pending = s.pending := rfl

/-! A signed field written leaves every part of the state but `regs` -/

@[simp] theorem fsetI_part (s : State) (f : Fld) (i : Nat) (v : Int) : (fsetI s f i v).part = s.part := rfl
@[simp] theorem fsetI_pw (s : State) (f : Fld) (i : Nat) (v : Int) : (fsetI s f i v).pw = s.pw := rfl
@[simp] theorem fsetI_md (s : State) (f : Fld) (i : Nat) (v : Int) : (fsetI s f i v).md = s.md := rfl
@[simp] theorem fsetI_ccp (s : State) (f : Fld) (i : Nat) (v : Int) : (fsetI s f i v).ccp = s.ccp := rfl
@[simp] theorem fsetI_fh (s : State) (f : Fld) (i : Nat) (v : Int) : (fsetI s f i v).fh = s.fh := rfl
@[simp] theorem fsetI_fab (s : State) (f : Fld) (i : Nat) (v : Int) : (fsetI s f i v).fab = s.fab := rfl
@[simp] theorem fsetI_ws (s : State) (f : Fld) (i : Nat) (v : Int) : (fsetI s f i v).ws = s.ws := rfl
@[simp] theorem fsetI_rf (s : State) (f : Fld) (i : Nat) (v : Int) : (fsetI s f i v).rf = s.rf := rfl
@[simp] theorem fsetI_cap (s : State) (f : Fld) (i : Nat) (v : Int) : (fsetI s f i v).cap = s.cap := rfl
@[simp] theorem fsetI_cal (s : State) (f : Fld) (i : Nat) (v : Int) : (fsetI s f i v).cal = s.cal := rfl
@[simp] theorem fsetI_cave (s : State) (f : Fld) (i : Nat) (v : Int) : (fsetI s f i v).cave = s.cave := rfl
@[simp] theorem fsetI_mi (s : State) (f : Fld) (i : Nat) (v : Int) : (fsetI s f i v).mi = s.mi := rfl
@[simp] theorem fsetI_dma (s : State) (f : Fld) (i : Nat) (v : Int) : (fsetI s f i v).dma = s.dma := rfl
@[simp] theorem fsetI_tm (s : State) (f : Fld) (i : Nat) (v : Int) : (fsetI s f i v).tm = s.tm := rfl
@[simp] theorem fsetI_th (s : State) (f : Fld) (i : Nat) (v : Int) : (fsetI s f i v).th = s.th := rfl
@[simp] theorem fsetI_mram (s : State) (f : Fld) (i : Nat) (v : Int) : (fsetI s f i v).mram = s.mram := rfl
@[simp] theorem fsetI_caveMem (s : State) (f : Fld) (i : Nat) (v : Int) : (fsetI s f i v).caveMem = s.caveMem := rfl
@[simp] theorem fsetI_sramMem (s : State) (f : Fld) (i : Nat) (v : Int) : (fsetI s f i v).sramMem = s.sramMem := rfl
@[simp] theorem fsetI_cavePoison (s : State) (f : Fld) (i : Nat) (v : Int) : (fsetI s f i v).cavePoison = s.cavePoison := rfl
@[simp] theorem fsetI_sramPoison (s : State) (f : Fld) (i : Nat) (v : Int) : (fsetI s f i v).sramPoison = s.sramPoison := rfl
@[simp] theorem fsetI_freeCnt (s : State) (f : Fld) (i : Nat) (v : Int) : (fsetI s f i v).freeCnt = s.freeCnt := rfl
@[simp] theorem fsetI_pending (s : State) (f : Fld) (i : Nat) (v : Int) : (fsetI s f i v).pending = s.pending := rfl

/-! A counter advanced leaves every part of the state but `regs` -/

@[simp] theorem finc_part (s : State) (f : Fld) (i n : Nat) : (finc s f i n).part = s.part := rfl
@[simp] theorem finc_pw (s : State) (f : Fld) (i n : Nat) : (finc s f i n).pw = s.pw := rfl
@[simp] theorem finc_md (s : State) (f : Fld) (i n : Nat) : (finc s f i n).md = s.md := rfl
@[simp] theorem finc_ccp (s : State) (f : Fld) (i n : Nat) : (finc s f i n).ccp = s.ccp := rfl
@[simp] theorem finc_fh (s : State) (f : Fld) (i n : Nat) : (finc s f i n).fh = s.fh := rfl
@[simp] theorem finc_fab (s : State) (f : Fld) (i n : Nat) : (finc s f i n).fab = s.fab := rfl
@[simp] theorem finc_ws (s : State) (f : Fld) (i n : Nat) : (finc s f i n).ws = s.ws := rfl
@[simp] theorem finc_rf (s : State) (f : Fld) (i n : Nat) : (finc s f i n).rf = s.rf := rfl
@[simp] theorem finc_cap (s : State) (f : Fld) (i n : Nat) : (finc s f i n).cap = s.cap := rfl
@[simp] theorem finc_cal (s : State) (f : Fld) (i n : Nat) : (finc s f i n).cal = s.cal := rfl
@[simp] theorem finc_cave (s : State) (f : Fld) (i n : Nat) : (finc s f i n).cave = s.cave := rfl
@[simp] theorem finc_mi (s : State) (f : Fld) (i n : Nat) : (finc s f i n).mi = s.mi := rfl
@[simp] theorem finc_dma (s : State) (f : Fld) (i n : Nat) : (finc s f i n).dma = s.dma := rfl
@[simp] theorem finc_tm (s : State) (f : Fld) (i n : Nat) : (finc s f i n).tm = s.tm := rfl
@[simp] theorem finc_th (s : State) (f : Fld) (i n : Nat) : (finc s f i n).th = s.th := rfl
@[simp] theorem finc_mram (s : State) (f : Fld) (i n : Nat) : (finc s f i n).mram = s.mram := rfl
@[simp] theorem finc_caveMem (s : State) (f : Fld) (i n : Nat) : (finc s f i n).caveMem = s.caveMem := rfl
@[simp] theorem finc_sramMem (s : State) (f : Fld) (i n : Nat) : (finc s f i n).sramMem = s.sramMem := rfl
@[simp] theorem finc_cavePoison (s : State) (f : Fld) (i n : Nat) : (finc s f i n).cavePoison = s.cavePoison := rfl
@[simp] theorem finc_sramPoison (s : State) (f : Fld) (i n : Nat) : (finc s f i n).sramPoison = s.sramPoison := rfl
@[simp] theorem finc_freeCnt (s : State) (f : Fld) (i n : Nat) : (finc s f i n).freeCnt = s.freeCnt := rfl
@[simp] theorem finc_pending (s : State) (f : Fld) (i n : Nat) : (finc s f i n).pending = s.pending := rfl

/-! A field put back to its Reset value leaves every part of the state but `regs` -/

@[simp] theorem fclear_part (s : State) (f : Fld) (i : Nat) : (fclear s f i).part = s.part := rfl
@[simp] theorem fclear_pw (s : State) (f : Fld) (i : Nat) : (fclear s f i).pw = s.pw := rfl
@[simp] theorem fclear_md (s : State) (f : Fld) (i : Nat) : (fclear s f i).md = s.md := rfl
@[simp] theorem fclear_ccp (s : State) (f : Fld) (i : Nat) : (fclear s f i).ccp = s.ccp := rfl
@[simp] theorem fclear_fh (s : State) (f : Fld) (i : Nat) : (fclear s f i).fh = s.fh := rfl
@[simp] theorem fclear_fab (s : State) (f : Fld) (i : Nat) : (fclear s f i).fab = s.fab := rfl
@[simp] theorem fclear_ws (s : State) (f : Fld) (i : Nat) : (fclear s f i).ws = s.ws := rfl
@[simp] theorem fclear_rf (s : State) (f : Fld) (i : Nat) : (fclear s f i).rf = s.rf := rfl
@[simp] theorem fclear_cap (s : State) (f : Fld) (i : Nat) : (fclear s f i).cap = s.cap := rfl
@[simp] theorem fclear_cal (s : State) (f : Fld) (i : Nat) : (fclear s f i).cal = s.cal := rfl
@[simp] theorem fclear_cave (s : State) (f : Fld) (i : Nat) : (fclear s f i).cave = s.cave := rfl
@[simp] theorem fclear_mi (s : State) (f : Fld) (i : Nat) : (fclear s f i).mi = s.mi := rfl
@[simp] theorem fclear_dma (s : State) (f : Fld) (i : Nat) : (fclear s f i).dma = s.dma := rfl
@[simp] theorem fclear_tm (s : State) (f : Fld) (i : Nat) : (fclear s f i).tm = s.tm := rfl
@[simp] theorem fclear_th (s : State) (f : Fld) (i : Nat) : (fclear s f i).th = s.th := rfl
@[simp] theorem fclear_mram (s : State) (f : Fld) (i : Nat) : (fclear s f i).mram = s.mram := rfl
@[simp] theorem fclear_caveMem (s : State) (f : Fld) (i : Nat) : (fclear s f i).caveMem = s.caveMem := rfl
@[simp] theorem fclear_sramMem (s : State) (f : Fld) (i : Nat) : (fclear s f i).sramMem = s.sramMem := rfl
@[simp] theorem fclear_cavePoison (s : State) (f : Fld) (i : Nat) : (fclear s f i).cavePoison = s.cavePoison := rfl
@[simp] theorem fclear_sramPoison (s : State) (f : Fld) (i : Nat) : (fclear s f i).sramPoison = s.sramPoison := rfl
@[simp] theorem fclear_freeCnt (s : State) (f : Fld) (i : Nat) : (fclear s f i).freeCnt = s.freeCnt := rfl
@[simp] theorem fclear_pending (s : State) (f : Fld) (i : Nat) : (fclear s f i).pending = s.pending := rfl

/-! A seat replaced leaves every part of the state but `fab` -/

@[simp] theorem putSeat_part (s : State) (n : Nat) (t : Seat) : (putSeat s n t).part = s.part := rfl
@[simp] theorem putSeat_regs (s : State) (n : Nat) (t : Seat) : (putSeat s n t).regs = s.regs := rfl
@[simp] theorem putSeat_pw (s : State) (n : Nat) (t : Seat) : (putSeat s n t).pw = s.pw := rfl
@[simp] theorem putSeat_md (s : State) (n : Nat) (t : Seat) : (putSeat s n t).md = s.md := rfl
@[simp] theorem putSeat_ccp (s : State) (n : Nat) (t : Seat) : (putSeat s n t).ccp = s.ccp := rfl
@[simp] theorem putSeat_fh (s : State) (n : Nat) (t : Seat) : (putSeat s n t).fh = s.fh := rfl
@[simp] theorem putSeat_ws (s : State) (n : Nat) (t : Seat) : (putSeat s n t).ws = s.ws := rfl
@[simp] theorem putSeat_rf (s : State) (n : Nat) (t : Seat) : (putSeat s n t).rf = s.rf := rfl
@[simp] theorem putSeat_cap (s : State) (n : Nat) (t : Seat) : (putSeat s n t).cap = s.cap := rfl
@[simp] theorem putSeat_cal (s : State) (n : Nat) (t : Seat) : (putSeat s n t).cal = s.cal := rfl
@[simp] theorem putSeat_cave (s : State) (n : Nat) (t : Seat) : (putSeat s n t).cave = s.cave := rfl
@[simp] theorem putSeat_mi (s : State) (n : Nat) (t : Seat) : (putSeat s n t).mi = s.mi := rfl
@[simp] theorem putSeat_dma (s : State) (n : Nat) (t : Seat) : (putSeat s n t).dma = s.dma := rfl
@[simp] theorem putSeat_tm (s : State) (n : Nat) (t : Seat) : (putSeat s n t).tm = s.tm := rfl
@[simp] theorem putSeat_th (s : State) (n : Nat) (t : Seat) : (putSeat s n t).th = s.th := rfl
@[simp] theorem putSeat_mram (s : State) (n : Nat) (t : Seat) : (putSeat s n t).mram = s.mram := rfl
@[simp] theorem putSeat_caveMem (s : State) (n : Nat) (t : Seat) : (putSeat s n t).caveMem = s.caveMem := rfl
@[simp] theorem putSeat_sramMem (s : State) (n : Nat) (t : Seat) : (putSeat s n t).sramMem = s.sramMem := rfl
@[simp] theorem putSeat_cavePoison (s : State) (n : Nat) (t : Seat) : (putSeat s n t).cavePoison = s.cavePoison := rfl
@[simp] theorem putSeat_sramPoison (s : State) (n : Nat) (t : Seat) : (putSeat s n t).sramPoison = s.sramPoison := rfl
@[simp] theorem putSeat_freeCnt (s : State) (n : Nat) (t : Seat) : (putSeat s n t).freeCnt = s.freeCnt := rfl
@[simp] theorem putSeat_pending (s : State) (n : Nat) (t : Seat) : (putSeat s n t).pending = s.pending := rfl

/-! A DMA channel replaced leaves every part of the state but `dma` -/

@[simp] theorem putChan_part (s : State) (c : Nat) (x : Chan) : (putChan s c x).part = s.part := rfl
@[simp] theorem putChan_regs (s : State) (c : Nat) (x : Chan) : (putChan s c x).regs = s.regs := rfl
@[simp] theorem putChan_pw (s : State) (c : Nat) (x : Chan) : (putChan s c x).pw = s.pw := rfl
@[simp] theorem putChan_md (s : State) (c : Nat) (x : Chan) : (putChan s c x).md = s.md := rfl
@[simp] theorem putChan_ccp (s : State) (c : Nat) (x : Chan) : (putChan s c x).ccp = s.ccp := rfl
@[simp] theorem putChan_fh (s : State) (c : Nat) (x : Chan) : (putChan s c x).fh = s.fh := rfl
@[simp] theorem putChan_fab (s : State) (c : Nat) (x : Chan) : (putChan s c x).fab = s.fab := rfl
@[simp] theorem putChan_ws (s : State) (c : Nat) (x : Chan) : (putChan s c x).ws = s.ws := rfl
@[simp] theorem putChan_rf (s : State) (c : Nat) (x : Chan) : (putChan s c x).rf = s.rf := rfl
@[simp] theorem putChan_cap (s : State) (c : Nat) (x : Chan) : (putChan s c x).cap = s.cap := rfl
@[simp] theorem putChan_cal (s : State) (c : Nat) (x : Chan) : (putChan s c x).cal = s.cal := rfl
@[simp] theorem putChan_cave (s : State) (c : Nat) (x : Chan) : (putChan s c x).cave = s.cave := rfl
@[simp] theorem putChan_mi (s : State) (c : Nat) (x : Chan) : (putChan s c x).mi = s.mi := rfl
@[simp] theorem putChan_tm (s : State) (c : Nat) (x : Chan) : (putChan s c x).tm = s.tm := rfl
@[simp] theorem putChan_th (s : State) (c : Nat) (x : Chan) : (putChan s c x).th = s.th := rfl
@[simp] theorem putChan_mram (s : State) (c : Nat) (x : Chan) : (putChan s c x).mram = s.mram := rfl
@[simp] theorem putChan_caveMem (s : State) (c : Nat) (x : Chan) : (putChan s c x).caveMem = s.caveMem := rfl
@[simp] theorem putChan_sramMem (s : State) (c : Nat) (x : Chan) : (putChan s c x).sramMem = s.sramMem := rfl
@[simp] theorem putChan_cavePoison (s : State) (c : Nat) (x : Chan) : (putChan s c x).cavePoison = s.cavePoison := rfl
@[simp] theorem putChan_sramPoison (s : State) (c : Nat) (x : Chan) : (putChan s c x).sramPoison = s.sramPoison := rfl
@[simp] theorem putChan_freeCnt (s : State) (c : Nat) (x : Chan) : (putChan s c x).freeCnt = s.freeCnt := rfl
@[simp] theorem putChan_pending (s : State) (c : Nat) (x : Chan) : (putChan s c x).pending = s.pending := rfl

/-! A capture ring replaced leaves every part of the state but `cap` -/

@[simp] theorem putRing_part (s : State) (r : Nat) (x : Ring) : (putRing s r x).part = s.part := rfl
@[simp] theorem putRing_regs (s : State) (r : Nat) (x : Ring) : (putRing s r x).regs = s.regs := rfl
@[simp] theorem putRing_pw (s : State) (r : Nat) (x : Ring) : (putRing s r x).pw = s.pw := rfl
@[simp] theorem putRing_md (s : State) (r : Nat) (x : Ring) : (putRing s r x).md = s.md := rfl
@[simp] theorem putRing_ccp (s : State) (r : Nat) (x : Ring) : (putRing s r x).ccp = s.ccp := rfl
@[simp] theorem putRing_fh (s : State) (r : Nat) (x : Ring) : (putRing s r x).fh = s.fh := rfl
@[simp] theorem putRing_fab (s : State) (r : Nat) (x : Ring) : (putRing s r x).fab = s.fab := rfl
@[simp] theorem putRing_ws (s : State) (r : Nat) (x : Ring) : (putRing s r x).ws = s.ws := rfl
@[simp] theorem putRing_rf (s : State) (r : Nat) (x : Ring) : (putRing s r x).rf = s.rf := rfl
@[simp] theorem putRing_cal (s : State) (r : Nat) (x : Ring) : (putRing s r x).cal = s.cal := rfl
@[simp] theorem putRing_cave (s : State) (r : Nat) (x : Ring) : (putRing s r x).cave = s.cave := rfl
@[simp] theorem putRing_mi (s : State) (r : Nat) (x : Ring) : (putRing s r x).mi = s.mi := rfl
@[simp] theorem putRing_dma (s : State) (r : Nat) (x : Ring) : (putRing s r x).dma = s.dma := rfl
@[simp] theorem putRing_tm (s : State) (r : Nat) (x : Ring) : (putRing s r x).tm = s.tm := rfl
@[simp] theorem putRing_th (s : State) (r : Nat) (x : Ring) : (putRing s r x).th = s.th := rfl
@[simp] theorem putRing_mram (s : State) (r : Nat) (x : Ring) : (putRing s r x).mram = s.mram := rfl
@[simp] theorem putRing_caveMem (s : State) (r : Nat) (x : Ring) : (putRing s r x).caveMem = s.caveMem := rfl
@[simp] theorem putRing_sramMem (s : State) (r : Nat) (x : Ring) : (putRing s r x).sramMem = s.sramMem := rfl
@[simp] theorem putRing_cavePoison (s : State) (r : Nat) (x : Ring) : (putRing s r x).cavePoison = s.cavePoison := rfl
@[simp] theorem putRing_sramPoison (s : State) (r : Nat) (x : Ring) : (putRing s r x).sramPoison = s.sramPoison := rfl
@[simp] theorem putRing_freeCnt (s : State) (r : Nat) (x : Ring) : (putRing s r x).freeCnt = s.freeCnt := rfl
@[simp] theorem putRing_pending (s : State) (r : Nat) (x : Ring) : (putRing s r x).pending = s.pending := rfl

/-! A DPD cluster replaced leaves every part of the state but `cal` -/

@[simp] theorem putCluster_part (s : State) (c : Nat) (x : Cluster) : (putCluster s c x).part = s.part := rfl
@[simp] theorem putCluster_regs (s : State) (c : Nat) (x : Cluster) : (putCluster s c x).regs = s.regs := rfl
@[simp] theorem putCluster_pw (s : State) (c : Nat) (x : Cluster) : (putCluster s c x).pw = s.pw := rfl
@[simp] theorem putCluster_md (s : State) (c : Nat) (x : Cluster) : (putCluster s c x).md = s.md := rfl
@[simp] theorem putCluster_ccp (s : State) (c : Nat) (x : Cluster) : (putCluster s c x).ccp = s.ccp := rfl
@[simp] theorem putCluster_fh (s : State) (c : Nat) (x : Cluster) : (putCluster s c x).fh = s.fh := rfl
@[simp] theorem putCluster_fab (s : State) (c : Nat) (x : Cluster) : (putCluster s c x).fab = s.fab := rfl
@[simp] theorem putCluster_ws (s : State) (c : Nat) (x : Cluster) : (putCluster s c x).ws = s.ws := rfl
@[simp] theorem putCluster_rf (s : State) (c : Nat) (x : Cluster) : (putCluster s c x).rf = s.rf := rfl
@[simp] theorem putCluster_cap (s : State) (c : Nat) (x : Cluster) : (putCluster s c x).cap = s.cap := rfl
@[simp] theorem putCluster_cave (s : State) (c : Nat) (x : Cluster) : (putCluster s c x).cave = s.cave := rfl
@[simp] theorem putCluster_mi (s : State) (c : Nat) (x : Cluster) : (putCluster s c x).mi = s.mi := rfl
@[simp] theorem putCluster_dma (s : State) (c : Nat) (x : Cluster) : (putCluster s c x).dma = s.dma := rfl
@[simp] theorem putCluster_tm (s : State) (c : Nat) (x : Cluster) : (putCluster s c x).tm = s.tm := rfl
@[simp] theorem putCluster_th (s : State) (c : Nat) (x : Cluster) : (putCluster s c x).th = s.th := rfl
@[simp] theorem putCluster_mram (s : State) (c : Nat) (x : Cluster) : (putCluster s c x).mram = s.mram := rfl
@[simp] theorem putCluster_caveMem (s : State) (c : Nat) (x : Cluster) : (putCluster s c x).caveMem = s.caveMem := rfl
@[simp] theorem putCluster_sramMem (s : State) (c : Nat) (x : Cluster) : (putCluster s c x).sramMem = s.sramMem := rfl
@[simp] theorem putCluster_cavePoison (s : State) (c : Nat) (x : Cluster) : (putCluster s c x).cavePoison = s.cavePoison := rfl
@[simp] theorem putCluster_sramPoison (s : State) (c : Nat) (x : Cluster) : (putCluster s c x).sramPoison = s.sramPoison := rfl
@[simp] theorem putCluster_freeCnt (s : State) (c : Nat) (x : Cluster) : (putCluster s c x).freeCnt = s.freeCnt := rfl
@[simp] theorem putCluster_pending (s : State) (c : Nat) (x : Cluster) : (putCluster s c x).pending = s.pending := rfl

/-! A slot of a path's DPD model bank replaced leaves every part of the state but `cal` -/

@[simp] theorem putSlot_part (s : State) (p k : Nat) (r : DpdRecord) : (putSlot s p k r).part = s.part := rfl
@[simp] theorem putSlot_regs (s : State) (p k : Nat) (r : DpdRecord) : (putSlot s p k r).regs = s.regs := rfl
@[simp] theorem putSlot_pw (s : State) (p k : Nat) (r : DpdRecord) : (putSlot s p k r).pw = s.pw := rfl
@[simp] theorem putSlot_md (s : State) (p k : Nat) (r : DpdRecord) : (putSlot s p k r).md = s.md := rfl
@[simp] theorem putSlot_ccp (s : State) (p k : Nat) (r : DpdRecord) : (putSlot s p k r).ccp = s.ccp := rfl
@[simp] theorem putSlot_fh (s : State) (p k : Nat) (r : DpdRecord) : (putSlot s p k r).fh = s.fh := rfl
@[simp] theorem putSlot_fab (s : State) (p k : Nat) (r : DpdRecord) : (putSlot s p k r).fab = s.fab := rfl
@[simp] theorem putSlot_ws (s : State) (p k : Nat) (r : DpdRecord) : (putSlot s p k r).ws = s.ws := rfl
@[simp] theorem putSlot_rf (s : State) (p k : Nat) (r : DpdRecord) : (putSlot s p k r).rf = s.rf := rfl
@[simp] theorem putSlot_cap (s : State) (p k : Nat) (r : DpdRecord) : (putSlot s p k r).cap = s.cap := rfl
@[simp] theorem putSlot_cave (s : State) (p k : Nat) (r : DpdRecord) : (putSlot s p k r).cave = s.cave := rfl
@[simp] theorem putSlot_mi (s : State) (p k : Nat) (r : DpdRecord) : (putSlot s p k r).mi = s.mi := rfl
@[simp] theorem putSlot_dma (s : State) (p k : Nat) (r : DpdRecord) : (putSlot s p k r).dma = s.dma := rfl
@[simp] theorem putSlot_tm (s : State) (p k : Nat) (r : DpdRecord) : (putSlot s p k r).tm = s.tm := rfl
@[simp] theorem putSlot_th (s : State) (p k : Nat) (r : DpdRecord) : (putSlot s p k r).th = s.th := rfl
@[simp] theorem putSlot_mram (s : State) (p k : Nat) (r : DpdRecord) : (putSlot s p k r).mram = s.mram := rfl
@[simp] theorem putSlot_caveMem (s : State) (p k : Nat) (r : DpdRecord) : (putSlot s p k r).caveMem = s.caveMem := rfl
@[simp] theorem putSlot_sramMem (s : State) (p k : Nat) (r : DpdRecord) : (putSlot s p k r).sramMem = s.sramMem := rfl
@[simp] theorem putSlot_cavePoison (s : State) (p k : Nat) (r : DpdRecord) : (putSlot s p k r).cavePoison = s.cavePoison := rfl
@[simp] theorem putSlot_sramPoison (s : State) (p k : Nat) (r : DpdRecord) : (putSlot s p k r).sramPoison = s.sramPoison := rfl
@[simp] theorem putSlot_freeCnt (s : State) (p k : Nat) (r : DpdRecord) : (putSlot s p k r).freeCnt = s.freeCnt := rfl
@[simp] theorem putSlot_pending (s : State) (p k : Nat) (r : DpdRecord) : (putSlot s p k r).pending = s.pending := rfl

/-! A unit's state replaced leaves every part of the state but `fab` -/

@[simp] theorem setUnit_part (s : State) (u st : Nat) : (setUnit s u st).part = s.part := rfl
@[simp] theorem setUnit_regs (s : State) (u st : Nat) : (setUnit s u st).regs = s.regs := rfl
@[simp] theorem setUnit_pw (s : State) (u st : Nat) : (setUnit s u st).pw = s.pw := rfl
@[simp] theorem setUnit_md (s : State) (u st : Nat) : (setUnit s u st).md = s.md := rfl
@[simp] theorem setUnit_ccp (s : State) (u st : Nat) : (setUnit s u st).ccp = s.ccp := rfl
@[simp] theorem setUnit_fh (s : State) (u st : Nat) : (setUnit s u st).fh = s.fh := rfl
@[simp] theorem setUnit_ws (s : State) (u st : Nat) : (setUnit s u st).ws = s.ws := rfl
@[simp] theorem setUnit_rf (s : State) (u st : Nat) : (setUnit s u st).rf = s.rf := rfl
@[simp] theorem setUnit_cap (s : State) (u st : Nat) : (setUnit s u st).cap = s.cap := rfl
@[simp] theorem setUnit_cal (s : State) (u st : Nat) : (setUnit s u st).cal = s.cal := rfl
@[simp] theorem setUnit_cave (s : State) (u st : Nat) : (setUnit s u st).cave = s.cave := rfl
@[simp] theorem setUnit_mi (s : State) (u st : Nat) : (setUnit s u st).mi = s.mi := rfl
@[simp] theorem setUnit_dma (s : State) (u st : Nat) : (setUnit s u st).dma = s.dma := rfl
@[simp] theorem setUnit_tm (s : State) (u st : Nat) : (setUnit s u st).tm = s.tm := rfl
@[simp] theorem setUnit_th (s : State) (u st : Nat) : (setUnit s u st).th = s.th := rfl
@[simp] theorem setUnit_mram (s : State) (u st : Nat) : (setUnit s u st).mram = s.mram := rfl
@[simp] theorem setUnit_caveMem (s : State) (u st : Nat) : (setUnit s u st).caveMem = s.caveMem := rfl
@[simp] theorem setUnit_sramMem (s : State) (u st : Nat) : (setUnit s u st).sramMem = s.sramMem := rfl
@[simp] theorem setUnit_cavePoison (s : State) (u st : Nat) : (setUnit s u st).cavePoison = s.cavePoison := rfl
@[simp] theorem setUnit_sramPoison (s : State) (u st : Nat) : (setUnit s u st).sramPoison = s.sramPoison := rfl
@[simp] theorem setUnit_freeCnt (s : State) (u st : Nat) : (setUnit s u st).freeCnt = s.freeCnt := rfl
@[simp] theorem setUnit_pending (s : State) (u st : Nat) : (setUnit s u st).pending = s.pending := rfl

/-! A unit muted or unmuted leaves every part of the state but `fab` -/

@[simp] theorem setMute_part (s : State) (u : Nat) (m : Bool) : (setMute s u m).part = s.part := rfl
@[simp] theorem setMute_regs (s : State) (u : Nat) (m : Bool) : (setMute s u m).regs = s.regs := rfl
@[simp] theorem setMute_pw (s : State) (u : Nat) (m : Bool) : (setMute s u m).pw = s.pw := rfl
@[simp] theorem setMute_md (s : State) (u : Nat) (m : Bool) : (setMute s u m).md = s.md := rfl
@[simp] theorem setMute_ccp (s : State) (u : Nat) (m : Bool) : (setMute s u m).ccp = s.ccp := rfl
@[simp] theorem setMute_fh (s : State) (u : Nat) (m : Bool) : (setMute s u m).fh = s.fh := rfl
@[simp] theorem setMute_ws (s : State) (u : Nat) (m : Bool) : (setMute s u m).ws = s.ws := rfl
@[simp] theorem setMute_rf (s : State) (u : Nat) (m : Bool) : (setMute s u m).rf = s.rf := rfl
@[simp] theorem setMute_cap (s : State) (u : Nat) (m : Bool) : (setMute s u m).cap = s.cap := rfl
@[simp] theorem setMute_cal (s : State) (u : Nat) (m : Bool) : (setMute s u m).cal = s.cal := rfl
@[simp] theorem setMute_cave (s : State) (u : Nat) (m : Bool) : (setMute s u m).cave = s.cave := rfl
@[simp] theorem setMute_mi (s : State) (u : Nat) (m : Bool) : (setMute s u m).mi = s.mi := rfl
@[simp] theorem setMute_dma (s : State) (u : Nat) (m : Bool) : (setMute s u m).dma = s.dma := rfl
@[simp] theorem setMute_tm (s : State) (u : Nat) (m : Bool) : (setMute s u m).tm = s.tm := rfl
@[simp] theorem setMute_th (s : State) (u : Nat) (m : Bool) : (setMute s u m).th = s.th := rfl
@[simp] theorem setMute_mram (s : State) (u : Nat) (m : Bool) : (setMute s u m).mram = s.mram := rfl
@[simp] theorem setMute_caveMem (s : State) (u : Nat) (m : Bool) : (setMute s u m).caveMem = s.caveMem := rfl
@[simp] theorem setMute_sramMem (s : State) (u : Nat) (m : Bool) : (setMute s u m).sramMem = s.sramMem := rfl
@[simp] theorem setMute_cavePoison (s : State) (u : Nat) (m : Bool) : (setMute s u m).cavePoison = s.cavePoison := rfl
@[simp] theorem setMute_sramPoison (s : State) (u : Nat) (m : Bool) : (setMute s u m).sramPoison = s.sramPoison := rfl
@[simp] theorem setMute_freeCnt (s : State) (u : Nat) (m : Bool) : (setMute s u m).freeCnt = s.freeCnt := rfl
@[simp] theorem setMute_pending (s : State) (u : Nat) (m : Bool) : (setMute s u m).pending = s.pending := rfl

/-! TX paths sent to zero leaves every part of the state but `cal` -/

@[simp] theorem quietTx_part (s : State) (l : List Nat) : (quietTx s l).part = s.part := rfl
@[simp] theorem quietTx_regs (s : State) (l : List Nat) : (quietTx s l).regs = s.regs := rfl
@[simp] theorem quietTx_pw (s : State) (l : List Nat) : (quietTx s l).pw = s.pw := rfl
@[simp] theorem quietTx_md (s : State) (l : List Nat) : (quietTx s l).md = s.md := rfl
@[simp] theorem quietTx_ccp (s : State) (l : List Nat) : (quietTx s l).ccp = s.ccp := rfl
@[simp] theorem quietTx_fh (s : State) (l : List Nat) : (quietTx s l).fh = s.fh := rfl
@[simp] theorem quietTx_fab (s : State) (l : List Nat) : (quietTx s l).fab = s.fab := rfl
@[simp] theorem quietTx_ws (s : State) (l : List Nat) : (quietTx s l).ws = s.ws := rfl
@[simp] theorem quietTx_rf (s : State) (l : List Nat) : (quietTx s l).rf = s.rf := rfl
@[simp] theorem quietTx_cap (s : State) (l : List Nat) : (quietTx s l).cap = s.cap := rfl
@[simp] theorem quietTx_cave (s : State) (l : List Nat) : (quietTx s l).cave = s.cave := rfl
@[simp] theorem quietTx_mi (s : State) (l : List Nat) : (quietTx s l).mi = s.mi := rfl
@[simp] theorem quietTx_dma (s : State) (l : List Nat) : (quietTx s l).dma = s.dma := rfl
@[simp] theorem quietTx_tm (s : State) (l : List Nat) : (quietTx s l).tm = s.tm := rfl
@[simp] theorem quietTx_th (s : State) (l : List Nat) : (quietTx s l).th = s.th := rfl
@[simp] theorem quietTx_mram (s : State) (l : List Nat) : (quietTx s l).mram = s.mram := rfl
@[simp] theorem quietTx_caveMem (s : State) (l : List Nat) : (quietTx s l).caveMem = s.caveMem := rfl
@[simp] theorem quietTx_sramMem (s : State) (l : List Nat) : (quietTx s l).sramMem = s.sramMem := rfl
@[simp] theorem quietTx_cavePoison (s : State) (l : List Nat) : (quietTx s l).cavePoison = s.cavePoison := rfl
@[simp] theorem quietTx_sramPoison (s : State) (l : List Nat) : (quietTx s l).sramPoison = s.sramPoison := rfl
@[simp] theorem quietTx_freeCnt (s : State) (l : List Nat) : (quietTx s l).freeCnt = s.freeCnt := rfl
@[simp] theorem quietTx_pending (s : State) (l : List Nat) : (quietTx s l).pending = s.pending := rfl

/-! A read entered in a port's queue leaves every part of the state but `cave` -/

@[simp] theorem queuePortRead_part (s : State) (port a len : Nat) : (queuePortRead s port a len).part = s.part := rfl
@[simp] theorem queuePortRead_regs (s : State) (port a len : Nat) : (queuePortRead s port a len).regs = s.regs := rfl
@[simp] theorem queuePortRead_pw (s : State) (port a len : Nat) : (queuePortRead s port a len).pw = s.pw := rfl
@[simp] theorem queuePortRead_md (s : State) (port a len : Nat) : (queuePortRead s port a len).md = s.md := rfl
@[simp] theorem queuePortRead_ccp (s : State) (port a len : Nat) : (queuePortRead s port a len).ccp = s.ccp := rfl
@[simp] theorem queuePortRead_fh (s : State) (port a len : Nat) : (queuePortRead s port a len).fh = s.fh := rfl
@[simp] theorem queuePortRead_fab (s : State) (port a len : Nat) : (queuePortRead s port a len).fab = s.fab := rfl
@[simp] theorem queuePortRead_ws (s : State) (port a len : Nat) : (queuePortRead s port a len).ws = s.ws := rfl
@[simp] theorem queuePortRead_rf (s : State) (port a len : Nat) : (queuePortRead s port a len).rf = s.rf := rfl
@[simp] theorem queuePortRead_cap (s : State) (port a len : Nat) : (queuePortRead s port a len).cap = s.cap := rfl
@[simp] theorem queuePortRead_cal (s : State) (port a len : Nat) : (queuePortRead s port a len).cal = s.cal := rfl
@[simp] theorem queuePortRead_mi (s : State) (port a len : Nat) : (queuePortRead s port a len).mi = s.mi := rfl
@[simp] theorem queuePortRead_dma (s : State) (port a len : Nat) : (queuePortRead s port a len).dma = s.dma := rfl
@[simp] theorem queuePortRead_tm (s : State) (port a len : Nat) : (queuePortRead s port a len).tm = s.tm := rfl
@[simp] theorem queuePortRead_th (s : State) (port a len : Nat) : (queuePortRead s port a len).th = s.th := rfl
@[simp] theorem queuePortRead_mram (s : State) (port a len : Nat) : (queuePortRead s port a len).mram = s.mram := rfl
@[simp] theorem queuePortRead_caveMem (s : State) (port a len : Nat) : (queuePortRead s port a len).caveMem = s.caveMem := rfl
@[simp] theorem queuePortRead_sramMem (s : State) (port a len : Nat) : (queuePortRead s port a len).sramMem = s.sramMem := rfl
@[simp] theorem queuePortRead_cavePoison (s : State) (port a len : Nat) : (queuePortRead s port a len).cavePoison = s.cavePoison := rfl
@[simp] theorem queuePortRead_sramPoison (s : State) (port a len : Nat) : (queuePortRead s port a len).sramPoison = s.sramPoison := rfl
@[simp] theorem queuePortRead_freeCnt (s : State) (port a len : Nat) : (queuePortRead s port a len).freeCnt = s.freeCnt := rfl
@[simp] theorem queuePortRead_pending (s : State) (port a len : Nat) : (queuePortRead s port a len).pending = s.pending := rfl

/-! Bytes metered leaves every part of the state but `cave` -/

@[simp] theorem moveBytes_part (s : State) (port n : Nat) : (moveBytes s port n).part = s.part := rfl
@[simp] theorem moveBytes_regs (s : State) (port n : Nat) : (moveBytes s port n).regs = s.regs := rfl
@[simp] theorem moveBytes_pw (s : State) (port n : Nat) : (moveBytes s port n).pw = s.pw := rfl
@[simp] theorem moveBytes_md (s : State) (port n : Nat) : (moveBytes s port n).md = s.md := rfl
@[simp] theorem moveBytes_ccp (s : State) (port n : Nat) : (moveBytes s port n).ccp = s.ccp := rfl
@[simp] theorem moveBytes_fh (s : State) (port n : Nat) : (moveBytes s port n).fh = s.fh := rfl
@[simp] theorem moveBytes_fab (s : State) (port n : Nat) : (moveBytes s port n).fab = s.fab := rfl
@[simp] theorem moveBytes_ws (s : State) (port n : Nat) : (moveBytes s port n).ws = s.ws := rfl
@[simp] theorem moveBytes_rf (s : State) (port n : Nat) : (moveBytes s port n).rf = s.rf := rfl
@[simp] theorem moveBytes_cap (s : State) (port n : Nat) : (moveBytes s port n).cap = s.cap := rfl
@[simp] theorem moveBytes_cal (s : State) (port n : Nat) : (moveBytes s port n).cal = s.cal := rfl
@[simp] theorem moveBytes_mi (s : State) (port n : Nat) : (moveBytes s port n).mi = s.mi := rfl
@[simp] theorem moveBytes_dma (s : State) (port n : Nat) : (moveBytes s port n).dma = s.dma := rfl
@[simp] theorem moveBytes_tm (s : State) (port n : Nat) : (moveBytes s port n).tm = s.tm := rfl
@[simp] theorem moveBytes_th (s : State) (port n : Nat) : (moveBytes s port n).th = s.th := rfl
@[simp] theorem moveBytes_mram (s : State) (port n : Nat) : (moveBytes s port n).mram = s.mram := rfl
@[simp] theorem moveBytes_caveMem (s : State) (port n : Nat) : (moveBytes s port n).caveMem = s.caveMem := rfl
@[simp] theorem moveBytes_sramMem (s : State) (port n : Nat) : (moveBytes s port n).sramMem = s.sramMem := rfl
@[simp] theorem moveBytes_cavePoison (s : State) (port n : Nat) : (moveBytes s port n).cavePoison = s.cavePoison := rfl
@[simp] theorem moveBytes_sramPoison (s : State) (port n : Nat) : (moveBytes s port n).sramPoison = s.sramPoison := rfl
@[simp] theorem moveBytes_freeCnt (s : State) (port n : Nat) : (moveBytes s port n).freeCnt = s.freeCnt := rfl
@[simp] theorem moveBytes_pending (s : State) (port n : Nat) : (moveBytes s port n).pending = s.pending := rfl

/-! Write-backs of the scrubber superseded leaves every part of the state but `mi` -/

@[simp] theorem dropBacks_part (s : State) (wa : Nat) : (dropBacks s wa).part = s.part := rfl
@[simp] theorem dropBacks_regs (s : State) (wa : Nat) : (dropBacks s wa).regs = s.regs := rfl
@[simp] theorem dropBacks_pw (s : State) (wa : Nat) : (dropBacks s wa).pw = s.pw := rfl
@[simp] theorem dropBacks_md (s : State) (wa : Nat) : (dropBacks s wa).md = s.md := rfl
@[simp] theorem dropBacks_ccp (s : State) (wa : Nat) : (dropBacks s wa).ccp = s.ccp := rfl
@[simp] theorem dropBacks_fh (s : State) (wa : Nat) : (dropBacks s wa).fh = s.fh := rfl
@[simp] theorem dropBacks_fab (s : State) (wa : Nat) : (dropBacks s wa).fab = s.fab := rfl
@[simp] theorem dropBacks_ws (s : State) (wa : Nat) : (dropBacks s wa).ws = s.ws := rfl
@[simp] theorem dropBacks_rf (s : State) (wa : Nat) : (dropBacks s wa).rf = s.rf := rfl
@[simp] theorem dropBacks_cap (s : State) (wa : Nat) : (dropBacks s wa).cap = s.cap := rfl
@[simp] theorem dropBacks_cal (s : State) (wa : Nat) : (dropBacks s wa).cal = s.cal := rfl
@[simp] theorem dropBacks_cave (s : State) (wa : Nat) : (dropBacks s wa).cave = s.cave := rfl
@[simp] theorem dropBacks_dma (s : State) (wa : Nat) : (dropBacks s wa).dma = s.dma := rfl
@[simp] theorem dropBacks_tm (s : State) (wa : Nat) : (dropBacks s wa).tm = s.tm := rfl
@[simp] theorem dropBacks_th (s : State) (wa : Nat) : (dropBacks s wa).th = s.th := rfl
@[simp] theorem dropBacks_mram (s : State) (wa : Nat) : (dropBacks s wa).mram = s.mram := rfl
@[simp] theorem dropBacks_caveMem (s : State) (wa : Nat) : (dropBacks s wa).caveMem = s.caveMem := rfl
@[simp] theorem dropBacks_sramMem (s : State) (wa : Nat) : (dropBacks s wa).sramMem = s.sramMem := rfl
@[simp] theorem dropBacks_cavePoison (s : State) (wa : Nat) : (dropBacks s wa).cavePoison = s.cavePoison := rfl
@[simp] theorem dropBacks_sramPoison (s : State) (wa : Nat) : (dropBacks s wa).sramPoison = s.sramPoison := rfl
@[simp] theorem dropBacks_freeCnt (s : State) (wa : Nat) : (dropBacks s wa).freeCnt = s.freeCnt := rfl
@[simp] theorem dropBacks_pending (s : State) (wa : Nat) : (dropBacks s wa).pending = s.pending := rfl

/-! A port counter advanced leaves every part of the state but `fh` -/

@[simp] theorem fhCount_part (s : State) (port k n : Nat) : (fhCount s port k n).part = s.part := rfl
@[simp] theorem fhCount_regs (s : State) (port k n : Nat) : (fhCount s port k n).regs = s.regs := rfl
@[simp] theorem fhCount_pw (s : State) (port k n : Nat) : (fhCount s port k n).pw = s.pw := rfl
@[simp] theorem fhCount_md (s : State) (port k n : Nat) : (fhCount s port k n).md = s.md := rfl
@[simp] theorem fhCount_ccp (s : State) (port k n : Nat) : (fhCount s port k n).ccp = s.ccp := rfl
@[simp] theorem fhCount_fab (s : State) (port k n : Nat) : (fhCount s port k n).fab = s.fab := rfl
@[simp] theorem fhCount_ws (s : State) (port k n : Nat) : (fhCount s port k n).ws = s.ws := rfl
@[simp] theorem fhCount_rf (s : State) (port k n : Nat) : (fhCount s port k n).rf = s.rf := rfl
@[simp] theorem fhCount_cap (s : State) (port k n : Nat) : (fhCount s port k n).cap = s.cap := rfl
@[simp] theorem fhCount_cal (s : State) (port k n : Nat) : (fhCount s port k n).cal = s.cal := rfl
@[simp] theorem fhCount_cave (s : State) (port k n : Nat) : (fhCount s port k n).cave = s.cave := rfl
@[simp] theorem fhCount_mi (s : State) (port k n : Nat) : (fhCount s port k n).mi = s.mi := rfl
@[simp] theorem fhCount_dma (s : State) (port k n : Nat) : (fhCount s port k n).dma = s.dma := rfl
@[simp] theorem fhCount_tm (s : State) (port k n : Nat) : (fhCount s port k n).tm = s.tm := rfl
@[simp] theorem fhCount_th (s : State) (port k n : Nat) : (fhCount s port k n).th = s.th := rfl
@[simp] theorem fhCount_mram (s : State) (port k n : Nat) : (fhCount s port k n).mram = s.mram := rfl
@[simp] theorem fhCount_caveMem (s : State) (port k n : Nat) : (fhCount s port k n).caveMem = s.caveMem := rfl
@[simp] theorem fhCount_sramMem (s : State) (port k n : Nat) : (fhCount s port k n).sramMem = s.sramMem := rfl
@[simp] theorem fhCount_cavePoison (s : State) (port k n : Nat) : (fhCount s port k n).cavePoison = s.cavePoison := rfl
@[simp] theorem fhCount_sramPoison (s : State) (port k n : Nat) : (fhCount s port k n).sramPoison = s.sramPoison := rfl
@[simp] theorem fhCount_freeCnt (s : State) (port k n : Nat) : (fhCount s port k n).freeCnt = s.freeCnt := rfl
@[simp] theorem fhCount_pending (s : State) (port k n : Nat) : (fhCount s port k n).pending = s.pending := rfl

/-! What is replaced reads as it was written -/

theorem putSeat_same {s : State} {n : Nat} {t : Seat} (h : tableWf (fun _ => {}) s.fab.seats = true) : seatOf (putSeat s n t) n = t :=
  tget_tset_same (rising_of_wf h)

theorem putSeat_other {s : State} {n m : Nat} {t : Seat} (h : m ≠ n) : seatOf (putSeat s n t) m = seatOf s m := tget_tset_other h

theorem putChan_same {s : State} {c : Nat} {x : Chan} (h : tableWf (fun _ => {}) s.dma = true) : chanOf (putChan s c x) c = x :=
  tget_tset_same (rising_of_wf h)

theorem putChan_other {s : State} {c d : Nat} {x : Chan} (h : d ≠ c) : chanOf (putChan s c x) d = chanOf s d := tget_tset_other h

theorem putRing_same {s : State} {r : Nat} {x : Ring} (h : tableWf (fun _ => {}) s.cap.rings = true) : ringOf (putRing s r x) r = x :=
  tget_tset_same (rising_of_wf h)

theorem putRing_other {s : State} {r q : Nat} {x : Ring} (h : q ≠ r) : ringOf (putRing s r x) q = ringOf s q := tget_tset_other h

theorem putSlot_same {s : State} {p k : Nat} {r : DpdRecord} (h : tableWf (fun _ => {}) s.cal.bank = true) :
    slotOf (putSlot s p k r) p k = r :=
  tget_tset_same (rising_of_wf h)

theorem putCluster_same {s : State} {c : Nat} {x : Cluster} (h : tableWf (fun _ => {}) s.cal.clusters = true) :
    cluster (putCluster s c x) c = x :=
  tget_tset_same (rising_of_wf h)

theorem putCluster_other {s : State} {c d : Nat} {x : Cluster} (h : d ≠ c) : cluster (putCluster s c x) d = cluster s d :=
  tget_tset_other h

/-! What else the updates of parts leave -/

@[simp] theorem setUnit_muted (s : State) (u st v : Nat) : muted (setUnit s u st) v = muted s v := rfl
@[simp] theorem setMute_unitState (s : State) (u v : Nat) (m : Bool) : unitState (setMute s u m) v = unitState s v := rfl
@[simp] theorem quietTx_clusters (s : State) (l : List Nat) : (quietTx s l).cal.clusters = s.cal.clusters := rfl
@[simp] theorem quietTx_run (s : State) (l : List Nat) : (quietTx s l).cal.run = s.cal.run := rfl
@[simp] theorem queuePortRead_writes (s : State) (p a n : Nat) : (queuePortRead s p a n).cave.writes = s.cave.writes := rfl
@[simp] theorem queuePortRead_waiting (s : State) (p a n : Nat) : (queuePortRead s p a n).cave.waiting = s.cave.waiting := rfl
@[simp] theorem moveBytes_reqs (s : State) (p n : Nat) : (moveBytes s p n).cave.reqs = s.cave.reqs := rfl
@[simp] theorem moveBytes_writes (s : State) (p n : Nat) : (moveBytes s p n).cave.writes = s.cave.writes := rfl
@[simp] theorem dropBacks_tracker (s : State) (wa : Nat) : (dropBacks s wa).mi.tracker = s.mi.tracker := rfl
@[simp] theorem dropBacks_passUe (s : State) (wa : Nat) : (dropBacks s wa).mi.passUe = s.mi.passUe := rfl

theorem setMute_same {s : State} {u : Nat} {m : Bool} (h : tableWf (fun _ => false) s.fab.mutes = true) : muted (setMute s u m) u = m :=
  tget_tset_same (rising_of_wf h)

theorem setMute_other {s : State} {u v : Nat} {m : Bool} (h : v ≠ u) : muted (setMute s u m) v = muted s v := tget_tset_other h

end Sys2Proof.Machine
end

