-- ==== Sys2Proof/Machine/Pins.lean ====
section
/-! DEFINITION. Levels of the output balls in each interval (R435, R455, R473, R482, R492). -/

namespace Sys2Proof.Machine

/-- What an output ball shows. `clocking`: the bits of a transaction. -/
inductive PinLevel where
  | notDriven
  | weakLow
  | weakHigh
  | low
  | high
  | released
  | clocking
  | idle
deriving DecidableEq, Repr

def levelOf (b : Bool) : PinLevel := if b then .high else .low

/-- Milliseconds since VIN passed the start threshold are fewer than `ms`, in a start-up (R456). -/
def startingFor (s : State) (ms : Nat) : Bool := decide (s.pw.power = .starting ∧ s.tm.now < s.pw.startTick + ms * (tickRate / 1000))

/-- VIO18, which feeds the CMOS outputs, is on: at the latest 12 ms after VIN, which the model takes (R455, R456; log entry 173). -/
def cmosDriven (s : State) : Bool := railOn s 2 && !startingFor s 12

/-- A CMOS output: not driven without VIO18, at its weak level until the always-on domain runs, at the latest 15 ms after VIN (R456; log
entry 173). -/
def cmosPin (s : State) (weak level : PinLevel) : PinLevel :=
  if !cmosDriven s then .notDriven else if startingFor s 15 then weak else level

/-- TDDSTBn. -/
def strobePin (s : State) (n : Nat) : PinLevel := cmosPin s .weakLow (levelOf (strobeLevel s n))

/-- A transaction of the PA-control bus is under way: in DORMANT the safe sequence has ended (R251, R492). -/
def paActive (s : State) : Bool := paBusy s && !decide (s.pw.power = .dormant)

/-- PACSn: low during a transaction that selects it. -/
def chipSelectPin (s : State) (n : Nat) : PinLevel :=
  cmosPin s .weakHigh (levelOf (!(paActive s && (match s.rf.paNow with | some x => decide (x.cs = n) | none => false))))

/-- PA_SCK: its idle level is low in mode 0 and high in mode 3 (R249, R494). -/
def sckPin (s : State) : PinLevel := cmosPin s .weakLow (if paActive s then .clocking else levelOf s.rf.paMode3)

/-- PA_SDO; its level between transactions is not given: low (log entry 173). -/
def sdoPin (s : State) : PinLevel := cmosPin s .weakLow (if paActive s then .clocking else .low)

/-- ORXk_SW[b]. -/
def switchPin (s : State) (k b : Nat) : PinLevel :=
  cmosPin s .weakLow (levelOf ((rget s (F.orxSwState.addr k)).getLsbD (F.orxSwState.lo + b)))

/-- PPS_OUT. -/
def ppsPin (s : State) : PinLevel := cmosPin s .weakLow (levelOf s.tm.ppsOut)

/-- NIRQ, open-drain and active low. -/
def nirqPin (s : State) : PinLevel := cmosPin s .released (if nirq s then .low else .released)

/-- MSPI_MISO between transactions (R433). -/
def misoPin (s : State) : PinLevel := cmosPin s .released .released

/-- LTX of a lane: driven from the first configuration on while its rails are on and the configuration uses it, else at electrical idle, as
in RECOVERY; off in DORMANT. -/
def lanePin (s : State) (lane : Nat) : PinLevel :=
  if !cmosDriven s || startingFor s 15 || decide (s.pw.power = .dormant) then .notDriven
  else if railOn s 10 && decide (s.md.mode ≠ .recovery) && decide (s.ccp.ready ∨
    s.pw.power = .on) && (portLanes s.fh.portConfig 0 ++ portLanes s.fh.portConfig 1).contains lane then .clocking
  else .idle

end Sys2Proof.Machine
end

