-- ==== Sys2Proof/WellFormed.lean ====
section
/-! DEFINITION. Well-formed commands: operands that name a unit, a field or a width name one that exists. A command that is not
well formed is no command of this block; its meaning is total and changes nothing beyond what its rule states. -/

namespace Sys2Proof

def CmdHdr.wf (h : CmdHdr) : Bool := decide (h.tag < 65536)

/-- A time tag within the widths of R86. -/
def TimeTag.wf (t : TimeTag) : Bool := decide (t.frame < 1024 ∧ t.subframe < 10 ∧ t.slot < 8 ∧ t.symbol < 14)

/-- A number that a field of `bits` bits holds. -/
def fits (bits n : Nat) : Bool := decide (n < 2 ^ bits)

/-- Numbers of units. -/
def seatOk (n : Nat) : Bool := decide (n < 2048)
def crewOk (n : Nat) : Bool := decide (n < 32)
def pathOk (n : Nat) : Bool := decide (n < 64)
def groupOk (n : Nat) : Bool := decide (n < 4)
def halfOk (n : Nat) : Bool := decide (n < 2)
def laneOk (n : Nat) : Bool := decide (n < 4)
def portOk (n : Nat) : Bool := decide (n < 2)
def ringOk (n : Nat) : Bool := decide (n < 16)
def rankOk (n : Nat) : Bool := decide (n < 3)

/-- A memory fault flips bits at positions of a code word (R344). -/
def WordFault.wf (f : WordFault) : Bool := f.flips.all fun p => decide (p.1 < 40)

/-- The same of the 80-bit form, of which a seat's memories are (R344). -/
def WordFault.wfSeat (f : WordFault) : Bool := f.flips.all fun p => decide (p.1 < 10)

/-- A seat and the read of its program word. -/
def SeatFetch.wf (q : SeatFetch) : Bool := seatOk q.n && q.fault.wfSeat

def faultsOk (l : List WordFault) : Bool := l.all WordFault.wf

/-- A received frame: a port and a lane of the device, addresses of 48 bits. -/
def RxFrame.wf (f : RxFrame) : Bool :=
  portOk f.port && laneOk f.lane && fits 16 f.etherType && fits 48 f.dstMac && fits 48 f.srcMac && decide (f.vlanTags ≤ 2)

def PtpMsg.wf (m : PtpMsg) : Bool := portOk m.port && laneOk m.lane && fits 8 m.domain

/-- A side action names registers of the seat (R171). -/
def Side.wf : Side → Bool
  | .none => true
  | .ldi d | .ldr d | .out d => fits 3 d
  | .ld d p m | .st d p m => fits 3 d && fits 2 p && fits 2 m
  | .sti p m => fits 2 p && fits 2 m

/-- Fields of format M (R168, R170). -/
def MForm.wf (f : MForm) : Bool :=
  fits 1 f.acc && fits 3 f.xr && fits 3 f.yr && f.side.wf && f.fault.wfSeat

/-- Fields of format R. -/
def RForm.wf (f : RForm) : Bool := fits 3 f.dd && fits 3 f.da && fits 3 f.db && f.side.wf && f.fault.wfSeat

/-- A housekeeping sample has a code and a value for each channel in use, and a speed for each crew (R127, R460). -/
def HkSample.wf (q : HkSample) : Bool :=
  decide (88 ≤ q.codes.length ∧ 88 ≤ q.values.length ∧ q.vin.length = 16 ∧ q.iin.length = 16 ∧ q.speedNow.length = 32 ∧ q.speedMax.length = 32)

/-- A register address is aligned and 32 bits wide (R13). -/
def addrOk (a : Nat) : Bool := fits 32 a && decide (a % 4 = 0)

/-- The operands of a command name what exists. Parameters of CCP commands stand as the packet gives them: their owners judge
them (R438); only their widths are checked here. -/
def Instr.wf : Instr → Bool
  | .vinStart | .powerOnReset | .memoryFillDone | .firmwareSelect | .startupComplete | .modePrepDone | .uptimeTick | .hostSilent
  | .hubSilent | .memberSilent | .ageingWalk | .meterWindow | .migrationDone | .timeNsRead | .calTimeout | .pllRelock
  | .paTimedTransaction | .syncTimeout | .ppsInEdge | .ppsLost | .ppsOutPulse | .wakePin | .wakeSecMatch | .wakeComplete
  | .dormantEntry | .watchdogExpiry | .coxResume | .thermalRestart | .readStatus | .wsTransferTimeout | .fwCommitDone
  | .paTransactionDone | .selectedMasterLost => true
  | .brownOut v | .overvoltage v => fits 16 v
  | .railFault k v => decide (k < 14) && fits 16 v
  | .dramTrainingDone l => l.all rankOk
  | .referenceValid _ | .agePromote _ | .estimateDone _ | .estAbandon _ | .mramStore _ | .delayReqSend _ | .chainSyncSend _
  | .readPacket _ | .pllUnlock _ | .calCaptureDone _ | .dpdRunEnd _ | .calRunEnd _ => true
  | .housekeepingRound hk => hk.wf
  | .crewLoad c l => crewOk c && l.all fun k => decide (k < 64)
  | .stroke h => halfOk h
  | .symbolStart _ h t l => halfOk h && t.wf && l.all fun p => pathOk p.1
  | .symbolCut _ h t => halfOk h && t.wf
  | .symbolBoundary h t | .uplinkSend h t | .accumulationDeadline h t => halfOk h && t.wf
  | .itemDispatch c | .reductionDelivery c | .handshakeTimeout c => crewOk c
  | .queueWaitEnd n => seatOk n
  | .seatEnd n => n.wf
  | .seatNop n f | .seatMpy n f | .seatMac n f | .seatMsu n f => n.wf && f.wf
  | .seatAdd n f | .seatSub n f | .seatAnd n f | .seatOr n f | .seatXor n f | .seatMax n f | .seatMin n f | .seatAsr n f
  | .seatShl n f | .seatExpr n f => n.wf && f.wf
  | .seatNrw n d _ _ k => n.wf && fits 3 d && fits 5 k
  | .seatNorm n a d => n.wf && decide (a < 2) && fits 3 d
  | .seatAclr n a => n.wf && decide (a < 3)
  | .seatExp n d a p m _ c e => n.wf && fits 3 d && fits 3 a && fits 2 p && fits 2 m && fits 6 c && e.all WordFault.wfSeat
  | .seatMovi n d p _ => n.wf && fits 3 d && decide (p < 3)
  | .seatMovs n d r => n.wf && fits 3 d && fits 3 r
  | .seatLdp n _ i _ => n.wf && fits 2 i
  | .seatMvp n _ i d => n.wf && fits 2 i && fits 3 d
  | .seatLoop n _ d e c => n.wf && fits 3 d && fits 8 e && fits 8 c
  | .seatJmp n t => n.wf && fits 8 t
  | .seatBz n d t | .seatBnz n d t => n.wf && fits 3 d && fits 8 t
  | .uDataDownlink f | .cSection f | .partialSum f | .ccpPacket f | .weightUpdate f | .chainStatusRecord f | .frameDiscard f
  | .ccpReplyUpstream f => f.wf
  | .macControlFrame p => portOk p
  | .linkDown l | .linkUp l => laneOk l
  | .lookupDone l => faultsOk l
  | .refreshDue r | .targetedRefreshUrgent r | .refreshWindowEnd r => rankOk r
  | .caveItemIssue r l => rankOk r && faultsOk l
  | .scrubRead f | .sramScrub f => f.wf
  | .dmaElement c l _ => ringOk c && faultsOk l
  | .dmaFinalHandshake c | .dmaGo c | .dmaArm c | .dmaDisarm c | .dmaStop c | .dmaAbort c => ringOk c
  | .dmaSetFieldWrite c f _ => ringOk c && decide (f < 8)
  | .capRdCntWrite r _ | .captureBlockWritten r | .captureEnd r | .immediateTrigger r | .timeTrigger r | .levelTrigger r _
  | .levelRearm r _ => ringOk r
  | .captureBlockStaged r t _ _ => ringOk r && t.wf
  | .trainEnWrite p _ | .txPathFault p _ | .rxPathFault p _ => pathOk p
  | .rcRead a | .w1cWrite a _ | .registerWrite a _ => addrOk a
  | .lockDetected g | .settleTimeout g | .synthCalEnd g _ | .lossOfLock g => groupOk g
  | .idleGapStart g i => groupOk g && decide (i < 4)
  | .crewFault c _ => crewOk c
  | .syncMessage m | .announce m | .delayResp m | .delayReq m => m.wf
  | .comparatorTrip n => decide (n < 24)
  | .writePacket n l c => fits 16 n && fits 32 c && decide (l.length ≤ n)
  | .calCommandTimeout h | .ident h | .coxStatus h | .startupRead h | .kernelRemove h | .kernelStatus h | .acceptStep h
  | .thermalStatus h | .memInfo h | .logClear h | .fwCommit h | .fwActivate h | .fwStatus h => h.wf
  | .eventMask h p m => h.wf && fits 32 p && fits 128 m
  | .startupWrite h q _ => h.wf && fits 32 q.portConfig && fits 32 q.pinLimit && fits 32 q.slackFloor && q.loKhz.all (fits 32)
  | .modeSet h q => h.wf && fits 32 q.items.target
  | .modeStatus h c | .fabricStatus h c | .rfStatus h c | .wsStatus h c => h.wf && fits 32 (c.getD 0)
  | .carrierSet h _ | .fhWindows h _ | .wsConfig h _ | .thermalConfig h _ => h.wf
  | .unitStateSet h k u f st _ => h.wf && fits 32 k && fits 64 u && fits 32 (f.getD 0) && fits 32 st
  | .sectorBeamSet h d f b l => h.wf && fits 32 d && fits 32 f && fits 32 b && decide (l.length = 64)
  | .kernelInstall h k => h.wf && decide (k.words.length ≤ 2048)
  | .fhPortConfig h c _ _ => h.wf && fits 32 c
  | .fhPortParam h q => h.wf && fits 32 q.port
  | .fhEq h l f c => h.wf && fits 32 l && decide ((f.getD []).length ≤ 5) && fits 32 (c.getD 0)
  | .fhStats h p c => h.wf && fits 32 p && fits 32 (c.getD 0)
  | .loTune h g f => h.wf && fits 64 g && fits 32 f
  | .loOff h g | .synthCal h g => h.wf && fits 64 g
  | .idleGap h q => h.wf && fits 64 q.groups
  | .tddPattern h g s p l => h.wf && fits 64 g && fits 32 s && fits 32 p && l.all (fits 32)
  | .rxAttSet h p a => h.wf && fits 64 p && fits 32 a
  | .powerTableSet h g _ b => h.wf && fits 32 g && fits 32 (b.getD 0)
  | .powerStepSet h p _ _ => h.wf && fits 64 p
  | .rfCoefRead h g => h.wf && fits 32 g
  | .paBus h q => h.wf && fits 32 q.op
  | .orxSwitch h k _ _ _ => h.wf && fits 32 k
  | .loopbackSet h g c | .dpdBypassCmd h g c | .dpdTrainEn h g c => h.wf && fits 64 g && fits 32 c
  | .dpdSlotRead h p k _ | .dpdSlotClear h p k => h.wf && fits 32 p && fits 32 k
  | .dpdSlotWrite h p k r => h.wf && fits 32 p && fits 32 k && decide (r.lut.length ≤ 256)
  | .dpdStatusCmd h p => h.wf && fits 32 p
  | .calRun h l => h.wf && decide (1 ≤ l.length ∧ l.length ≤ 64)
  | .calStatus h c k => h.wf && fits 32 c && fits 32 (k.getD 0)
  | .capConfig h r _ _ _ _ _ => h.wf && fits 32 r
  | .capArm h r | .capTrigger h r | .capStop h r | .capRelease h r => h.wf && fits 32 r
  | .capRead h r b o n l => h.wf && fits 32 r && fits 32 b && fits 32 o && fits 32 n && faultsOk l
  | .wsExport h f c | .hkRead h f c | .logRead h f c _ => h.wf && fits 32 f && fits 32 c
  | .wsImport h f c u => h.wf && fits 32 f && fits 32 c && fits 64 u
  | .timeConfig h t f => h.wf && fits 64 (t.getD 0) && fits 32 (f.getD 0)
  | .timeSet h s n => h.wf && fits 64 s && fits 32 n
  | .memConfig h o => h.wf && fits 32 o
  | .memSpare h o r => h.wf && fits 32 o && fits 32 (r.getD 0)
  | .memLog h c _ => h.wf && fits 32 (c.getD 0)
  | .bulkPut h l => h.wf && decide (l.length ≤ 8188)
  | .bulkGet h n => h.wf && fits 32 n
  | .regRead h a n => h.wf && fits 32 a && fits 32 n
  | .regWrite h l => h.wf && decide (1 ≤ l.length ∧ l.length ≤ 64) && l.all fun p => fits 32 p.1
  | .fwBegin h n c b s => h.wf && fits 32 n && fits 32 c && fits 32 b && fits 32 (s.getD 0)
  | .fwWrite h o l => h.wf && fits 32 o && decide (l.length ≤ 8180)

end Sys2Proof
end

