-- ==== Sys2Proof/Tests/Slice0.lean ====
section
/-! SUPPORT. Tests of single commands, refusals of ill-formed commands, and for each statement states and operands that meet its
hypotheses. -/

open Sys2Proof Sys2Proof.Machine

set_option maxRecDepth 8192

namespace Sys2Proof.Tests

/-- A running device in a mode, nothing waiting and nothing stored. -/
def on (m : Mode) : State :=
  { State.reset with
    pw := { power := .on, trained := true, filled := true, refValid := true, refPll := true, cpll := true },
    md := { mode := m }, ccp := { ready := true } }

def h0 : CmdHdr := { path := .mspi, tag := 1 }

/-- The instruction that seat `n` fetched without an error. -/
def seat (n : Nat) : SeatFetch := { n := n }

/-- The state that a command answers. -/
def after (i : Instr) (s : State) : State :=
  match exec i s with
  | .next t => t
  | _ => State.reset

/-- `on` with register fields set. -/
def withF (s : State) (l : List (Fld × Nat × Nat)) : State := l.foldl (fun s e => fset s e.1 e.2.1 e.2.2) s

/-- A running device with no command executed takes every command that its mode allows. -/
theorem takes_all {s : State} {h : CmdHdr} {l : List (Nat × Instr)} (hr : coxRuns s = true)
    (hd : s.ccp.doneBand = [] ∧ s.ccp.doneMspi = []) (hm : ∀ p ∈ l, modeCheck s p.1 = none) : ∀ p ∈ l, Takes s h p.1 p.2 := by
  intro p hp
  refine ⟨hr, hm p hp, ?_⟩
  intro d hm
  cases h with | mk q t => cases q <;> simp [doneOf, hd.1, hd.2] at hm

theorem takes_one {s : State} {h : CmdHdr} {op : Nat} {i : Instr} (hr : coxRuns s = true) (hd : doneOf s h.path = [])
    (hm : modeCheck s op = none) : Takes s h op i :=
  ⟨hr, hm, fun d h' => by simp [hd] at h'⟩


theorem witness_EveryStepKeepsTheCanonicalForms :
    Canonical { on .standby with pending := [.timeNsRead] } ∧ ∃ t, step { on .standby with pending := [.timeNsRead] } = .next t :=
  ⟨by unfold Canonical; decide, _, rfl⟩

theorem witness_EveryStepKeepsTheOrder :
    Orderly { on .standby with pending := [.timeNsRead] } ∧ ∃ t, step { on .standby with pending := [.timeNsRead] } = .next t :=
  ⟨by unfold Orderly; decide, _, rfl⟩

/-- A kept command with its reply, and one without. -/
def kept (r : Option Reply) : State :=
  { on .standby with ccp := { ready := true, doneMspi := [{ tag := 1, slot := 0, instr := some (.ident h0), raw := [], reply := r }] } }

theorem witness_CommandsAreDroppedRepeatedOrRefused :
    ccpOf (.ident h0) = some (h0, 0x0001) ∧ coxRuns State.reset = false ∧
    (doneOf (kept none) h0.path = [] ++ { tag := 1, slot := 0, instr := some (.ident h0), raw := [], reply := none } :: [] ∧
      coxRuns (kept none) = true ∧ some (Instr.ident h0) = some (bare (.ident h0))) ∧
    modeCheck (on .dense) 0x0030 = some (stWrongMode, 0) ∧ modeCheck (on .recovery) 0x0001 = some (stWrongMode, 0) ∧
    startInterval { on .boot with pw := {} } = true ∧ modeCheck (on .boot) 0x0010 = some (stRefused, 1) ∧
    modeCheck (on .boot) 0x0002 = none ∧ modeCheck (on .boot) 0x0003 = some (stWrongMode, 0) ∧
    calRunCheck (on .dense) [64] = none ∧
    (lackingHalf (blockSplit (on .standby) { target := 9 }) { target := 9 } = none ∧
      judgeMode (on .standby) { items := { target := 0 } } = .inl 1) := by decide

theorem witness_RegistersAreAlignedWords :
    (∀ p ∈ [(0x00C0, Instr.regRead h0 0xA00001 1), (0x00C0, .regRead h0 0xA00003 64),
      (0x00C1, .regWrite h0 ([(0xA00400, 1)] ++ (3, 0) :: []))], Takes (on .standby) h0 p.1 p.2) ∧
    (regAt 0xA00024).isSome = true ∧ pairStatus (on .standby) (0xA00400, 1) = none :=
  ⟨takes_all rfl ⟨rfl, rfl⟩ (by decide), by decide⟩

/-- The part with even paths only. -/
def ae32 (m : Mode) : State := { on m with part := .vk6432 }

theorem witness_AbsentPathsAreRefused :
    (∀ p ∈ [(0x0055, Instr.dpdStatusCmd h0 1), (0x0020, .unitStateSet h0 0 2 none 0 0), (0x0047, .powerStepSet h0 2 none none),
      (0x0050, .dpdBypassCmd h0 2 0), (0x0051, .dpdTrainEn h0 2 0), (0x0052, .dpdSlotRead h0 1 0 none),
      (0x0053, .dpdSlotWrite h0 1 0 {}), (0x0054, .dpdSlotClear h0 1 0), (0x0060, .capConfig h0 13 0x106 0 0 0 0),
      (0x004B, .orxSwitch h0 0 (some 1) none none)], Takes (ae32 .standby) h0 p.1 p.2) ∧
    namesAbsent (ae32 .standby) 2 = true ∧ absentTx (ae32 .standby) 1 = true ∧ absentTx (ae32 .standby) 63 = true ∧
    getBits 0x106 8 6 = 1 ∧ 6 ≤ getBits 0x106 0 3 :=
  ⟨takes_all rfl ⟨rfl, rfl⟩ (by decide), by decide⟩

def seen (k : Nat) (st : TrackState) : RepeatEntry := { addr := 32 * k, rank := 0, state := st }

theorem witness_TheTrackerReplacesItsOldestEntry :
    ((List.range 32).map fun k => seen k (if k = 3 then .seen else .rewritten)).length = 32 ∧
    (∀ y ∈ (List.range 32).map fun k => seen k (if k = 3 then .rewritten else .hard), y.state ≠ .seen) ∧
    (∀ y ∈ (List.range 32).map fun k => seen k .hard, y.state ≠ .seen ∧ y.state ≠ .rewritten ∧ ¬(y.addr = 32 * 32 ∧ y.rank = 0)) := by
  decide

/-- A store whose bucket of tag 5 holds that tag LIVE in way 0. -/
def stored5 : State := { on .dense with caveMem := memPutAll [] (wayAddr (bucketOf 5) 0) [0, 0, 0, 5, 64] }

def upd (w : Bool) : WsUpdate :=
  { tag := 5, write := w, coef := List.replicate 64 { re := 32767, im := -32768 }, quality := -32768, wait := 0 }

theorem witness_WeightUpdatesSetAndInvalidateEntries :
    wayOf (on .dense) (bucketOf 5) 5 = none ∧ wayOf stored5 (bucketOf 5) 5 = some 0 ∧ (upd true).coef.length = 64 ∧
    headerPoisoned (on .dense) (bucketOf 5) 0 = false ∧ (entryNow (on .dense) (bucketOf 5) 0).state = 0 := by decide

/-- A device in STANDBY with a start-up record and an open session on slot B. -/
def stocked : State :=
  { on .standby with mram := { State.reset.mram with
      startup := some (defaultStartup 2), session := some 1, running := 0, slotA := factorySlot,
      slotB := { factorySlot with seq := 2 } } }

theorem witness_ReportsAnswerTheirItems :
    (∀ p ∈ [(0x0001, Instr.ident h0), (0x0002, .coxStatus h0), (0x0005, .startupRead h0), (0x0025, .kernelStatus h0),
      (0x0049, .rfCoefRead h0 3), (0x0055, .dpdStatusCmd h0 63), (0x0090, .thermalStatus h0), (0x0092, .hkRead h0 0 96),
      (0x0092, .hkRead h0 95 1), (0x00A0, .memInfo h0), (0x00E4, .fwStatus h0)], Takes stocked h0 p.1 p.2) ∧
    stocked.mram.startup = some ((defaultStartup 2).1, (defaultStartup 2).2) ∧ absentTx stocked 63 = false :=
  ⟨takes_all rfl ⟨rfl, rfl⟩ (by decide), by decide⟩

theorem witness_StatusReportsClearTheirCounters :
    (∀ p ∈ [(0x0011, Instr.modeStatus h0 (some 1)), (0x0011, .modeStatus h0 none), (0x0021, .fabricStatus h0 (some 1)),
      (0x0034, .fhStats h0 0 (some 1)), (0x0034, .fhStats h0 1 none), (0x0048, .rfStatus h0 (some 0)), (0x0071, .wsStatus h0 (some 7)),
      (0x00A3, .memLog h0 (some 1) none), (0x0057, .calStatus h0 0 (some 1)), (0x0057, .calStatus h0 447 none),
      (0x00D1, .logClear h0)], Takes stocked h0 p.1 p.2) ∧
    clusterPresent stocked 0 = true ∧ clusterPresent stocked 447 = true :=
  ⟨takes_all rfl ⟨rfl, rfl⟩ (by decide), by decide⟩

/-- An image of the one instruction END. -/
def image0 : KernelImage := { words := [0x00010200, 1, 0x2144DF1C, 0, 0] }

def carrier : CarrierReq :=
  { ncoHz := some ⟨-30720000, none⟩, nPrb := some ⟨273, none⟩, shiftDl := some ⟨-1, none⟩, shiftUl := some ⟨12, none⟩,
    fftAdv := some ⟨288, none⟩, phaseComp := some 1 }

theorem witness_SettingsTakeEffectAtTheReply :
    (∀ p ∈ [(0x0003, Instr.eventMask h0 0 0), (0x0003, .eventMask h0 1 (2 ^ 128 - 1)), (0x0004, .startupWrite h0 (defaultStartup 2).1 1),
      (0x0023, .kernelInstall h0 image0), (0x0024, .kernelRemove h0), (0x0031, .fhPortParam h0 { port := 0 }),
      (0x0031, .fhPortParam h0 { port := 1, etherType := some 0x88B5 }), (0x0032, .fhEq h0 3 (some [0, 0, 63, 0, 0]) (some 15)),
      (0x0091, .thermalConfig h0 { riseLimit := some 5 }), (0x00A1, .memConfig h0 2), (0x0012, .carrierSet h0 carrier),
      (0x0080, .timeConfig h0 none (some 10000)), (0x0080, .timeConfig h0 (some 10239999999) none)], Takes stocked h0 p.1 p.2) ∧
    (startupOk (defaultStartup 2).1 = true ∧ portParamOk stocked.fh.paramA { port := 0 } = true ∧
      portParamOk stocked.fh.paramB { port := 1, etherType := some 0x88B5 } = true ∧ ffeOk [0, 0, 63, 0, 0] = true ∧
        imageFault image0 = none ∧
      thermalOk { riseLimit := some 5 } = true ∧ isSplit stocked = false ∧ stocked.md.mode = .standby) :=
  ⟨takes_all rfl ⟨rfl, rfl⟩ (by decide), by decide⟩

def serving : State := { stocked with md := { mode := .service } }

def strokeItems : List (Nat × Instr) :=
    [(0x0020, Instr.unitStateSet h0 0 (2 ^ 64 - 1) (some 1) 1 0), (0x0020, .unitStateSet h0 5 (2 ^ 32 - 1) (some 0) 0 5),
      (0x0022, .sectorBeamSet h0 1 1 63 (List.replicate 64 { re := 0, im := 0 })), (0x0033, .fhWindows h0 { csOpen := some 1000 }),
      (0x0041, .loOff h0 15), (0x0045, .rxAttSet h0 (2 ^ 64 - 1) 30), (0x0046, .powerTableSet h0 3 [0x008000] (some 80)),
      (0x0047, .powerStepSet h0 1 (some 159) (some (-16))), (0x004C, .loopbackSet h0 15 3),
      (0x0050, .dpdBypassCmd h0 1 1), (0x0053, .dpdSlotWrite h0 63 7 { valid := true, freqKhz := 3500000 }),
        (0x0054, .dpdSlotClear h0 63 7),
      (0x0070, .wsConfig h0 { blendK := some 7, estMinQ := some (-300), ageMin := some 65535, regZf := some 1023 })]

theorem witness_DataPlaneSettingsWaitForAStroke :
    (∀ p ∈ strokeItems,
      Takes serving h0 p.1 p.2) ∧
    (kindOf 0 = some .txPath ∧ kindOf 5 = some .crew ∧ kindCount .txPath = 64 ∧ kindCount .crew = 32) ∧
    namesAbsent serving (2 ^ 64 - 1) = false ∧ windowsOk serving { csOpen := some 1000 } = true ∧ absentTx serving 63 = false ∧
    (∀ w ∈ [(0x008000 : Word)], getBits w 22 10 = 0 ∧ getBits w 0 16 ≤ 0x8000) ∧
    recordOk serving 63 { valid := true, freqKhz := 3500000 } = true :=
  ⟨takes_all rfl ⟨rfl, rfl⟩ (by decide), ⟨rfl, rfl, rfl, rfl⟩, by decide, by decide, by decide, by simp [getBits], by decide⟩

def dormantReq : ModeReq := { items := { target := 1 } }

/-- A field of the configuration of time. -/
def timed (src st : Nat) (m : Mode) : State :=
  withF { stocked with md := { mode := m } } [(F.timeCfgSyncSrc, 0, src), (F.timeStatusState, 0, st)]

theorem witness_LongOperationsAreAcceptedAndStart :
    (∀ p ∈ [(0x0010, Instr.modeSet h0 dormantReq), (0x0072, .wsExport h0 0 524288), (0x0073, .wsImport h0 524287 1 0),
      (0x00E2, .fwCommit h0)], Takes stocked h0 p.1 p.2) ∧
    (∀ p ∈ [(0x0040, Instr.loTune h0 15 380000), (0x0042, .synthCal h0 0), (0x0044, .tddPattern h0 1 30 20 (List.replicate 20 0))],
      Takes serving h0 p.1 p.2) ∧
    Takes (timed srcFree tsFree .dense) h0 0x0056 (.calRun h0 [64]) ∧
    Takes (timed srcFree tsFree .dense) h0 0x0081 (.timeSet h0 0 999999999) ∧
    Takes (timed srcPps tsAcquiring .standby) h0 0x0081 (.timeSet h0 (2 ^ 48 - 1) 0) ∧
    Takes (timed srcPtp tsStepPending .listen) h0 0x0082 (.acceptStep h0) ∧
    (stocked.ccp.longOps.length < 32 ∧ (timed srcFree tsFree .dense).ccp.longOps.length < 32) ∧
    (lackingHalf (blockSplit stocked dormantReq.items) dormantReq.items = none ∧
      (dormantReq.fallbacks.any fun b => (lackingHalf (blockSplit stocked b) b).isSome) = false) ∧
    judgeMode stocked dormantReq = .inr (.dormant, {}) ∧
    (tuneSetOk serving 15 = true ∧ twoFrames (muOf 30) % 20 = 0) ∧ calRunCheck (timed srcFree tsFree .dense) [64] = none ∧
    (stocked.ws.transfer = none ∧ hostBulkSet stocked = false ∧ stocked.cave.writes = [] ∧ stocked.cave.waiting = []) ∧
    syncSrc (timed srcFree tsFree .dense) = srcFree ∧ syncSrc (timed srcPps tsAcquiring .standby) = srcPps ∧
    timeState (timed srcPtp tsStepPending .listen) = tsStepPending ∧
    (∀ s ∈ [timed srcFree tsFree .dense, timed srcPps tsAcquiring .standby, timed srcPtp tsStepPending .listen],
      s.md.prep = none ∧ stepping s = false ∧ s.tm.setAtPps = none) ∧
    stocked.mram.session = some 1 ∧ stocked.mram.commitCmd = none :=
  ⟨takes_all rfl ⟨rfl, rfl⟩ (by decide), takes_all rfl ⟨rfl, rfl⟩ (by decide), takes_one rfl rfl rfl, takes_one rfl rfl rfl,
    takes_one rfl rfl rfl,
    takes_one rfl rfl rfl, by decide, ⟨rfl, rfl⟩, rfl, by decide, rfl, by decide, by decide, by decide, by decide, by decide, rfl, rfl⟩

/-- The device whose Cox checks the image in slot B. -/
def checking : State := { stocked with mram := { stocked.mram with commitCmd := some h0 } }

/-- A device in RECOVERY with two valid images. -/
def recovering : State := { stocked with md := { mode := .recovery }, mram := { stocked.mram with running := 2 } }

theorem witness_FirmwareSessionsWriteCheckAndActivate :
    (∀ p ∈ [(0x00E0, Instr.fwBegin h0 4 0 0 none), (0x00E0, .fwBegin h0 1048512 0 0 (some 1)), (0x00E1, .fwWrite h0 0 [1, 2, 3, 4]),
      (0x00E3, .fwActivate h0)], Takes stocked h0 p.1 p.2) ∧
    Takes recovering h0 0x00E3 (.fwActivate h0) ∧
    (stocked.mram.commitCmd = none ∧ stocked.mram.session = some 1 ∧
      0 + 4 ≤ (slotImage stocked 1).len + 3 - ((slotImage stocked 1).len + 3) % 4) ∧
    (checking.mram.commitCmd = some h0 ∧ checking.mram.session = some 1) ∧
    (stocked.md.mode = .standby ∧ stocked.mram.running = 0 ∧ slotValid (slotImage stocked 1) = true ∧
      (slotImage stocked 0).seq < (slotImage stocked 1).seq) ∧
    recovering.md.mode = .recovery ∧ bestSlot recovering [0, 1] = some 1 :=
  ⟨takes_all rfl ⟨rfl, rfl⟩ (by decide), takes_one rfl rfl rfl, by decide, ⟨rfl, rfl⟩, by decide, rfl, by decide⟩

/-- A device with one new entry in its log. -/
def logged : State :=
  { on .standby with ccp := { ready := true, logNew := [{ code := 2, heldBack := 0, uptime := 0, tag := 0, params := [] }] } }

/-- That device with some bytes waiting in its inbound buffer. -/
def bulkFull (n : Nat) : State := { logged with ccp := { logged.ccp with bulkIn := List.replicate n (0, false) } }

theorem witness_BulkDataAndRecordsAreRead :
    (∀ p ∈ [(0x00B0, Instr.bulkPut h0 [1, 2, 3, 4]), (0x00B1, .bulkGet h0 4),
      (0x00B1, .bulkGet h0 8176), (0x0052, .dpdSlotRead h0 63 7 none), (0x0052, .dpdSlotRead h0 0 0 (some 1055)),
      (0x00D0, .logRead h0 0 120 none), (0x00D0, .logRead h0 0 1 (some 63))], Takes logged h0 p.1 p.2) ∧
    (∀ f ∈ [(4, 65532), (8188, 65532), (4, 65533), (8188, 65536)], Takes (bulkFull f.2) h0 0x00B0 (.bulkPut h0 (List.replicate f.1 0))) ∧
    (65532 + 4 ≤ 65536 ∧ 65536 < 65532 + 8188 ∧ ∀ n, (bulkFull n).ccp.bulkIn.length = n) ∧
    Canonical logged ∧ absentTx logged 63 = false ∧ 0 < (logAll logged).length :=
  ⟨takes_all rfl ⟨rfl, rfl⟩ (by decide), fun _ _ => takes_one rfl rfl rfl, ⟨by decide, by decide, fun _ => List.length_replicate⟩,
    by unfold Canonical; decide, by decide, by decide⟩

/-- Ring 0 with its follower ring 1, both in a state, with the triggers HOST. -/
def ringed (st : Nat) : State :=
  withF (on .standby)
    [(F.capAreaBaseBlk, 0, 0), (F.capAreaNblk, 0, 2), (F.capLen, 0, 1), (F.capCfgTrig, 0, 3), (F.capStatusState, 0, st),
     (F.capAreaBaseBlk, 1, 2), (F.capAreaNblk, 1, 2), (F.capLen, 1, 1), (F.capCfgTrig, 1, 3), (F.capStatusState, 1, st),
     (F.capCfgLinkEn, 1, 1)]

theorem witness_CaptureCommandsMoveRingsAndReadBlocks :
    (∀ p ∈ [(0x0060, Instr.capConfig h0 13 0x3F06 0x9FFE0002 1 0x3C000000 0), (0x0061, .capArm h0 0), (0x0063, .capStop h0 0),
      (0x0064, .capRelease h0 0), (0x0065, .capRead h0 0 1 65532 4 [])], Takes (ringed ringIdle) h0 p.1 p.2) ∧
    (∀ p ∈ [(0x0062, Instr.capTrigger h0 0), (0x0063, .capStop h0 0)], Takes (ringed ringArmed) h0 p.1 p.2) ∧
    Takes (ringed ringRunning) h0 0x0063 (.capStop h0 1) ∧
    Canonical (ringed ringIdle) ∧ Canonical (ringed ringArmed) ∧ Canonical (ringed ringRunning) ∧
    (6 ≤ getBits (0x3F06 : Word) 0 3 ∧ absentTx (ringed ringIdle) (getBits (0x3F06 : Word) 8 6) = false) ∧
    configOk (ringed ringIdle) 13 (getBits (0x9FFE0002 : Word) 16 16) (getBits (0x9FFE0002 : Word) 0 16) (1 : Word).toNat
      (getBits (0x3F06 : Word) 16 3) = true ∧
    (getBits (0x3C000000 : Word) 24 8 ≤ 60 ∧ ringActive (ringed ringIdle) 13 = false ∧
      hostDmaMeets (ringed ringIdle) (getBits (0x9FFE0002 : Word) 16 16) (getBits (0x9FFE0002 : Word) 0 16) = false) ∧
    (fget (ringed ringIdle) F.capCfgLinkEn 0 = 0 ∧ ringState (ringed ringIdle) 0 = ringIdle ∧ [1] = followers (ringed ringIdle) 0 ∧
      fget (ringed ringIdle) F.dmaStatusState 15 ≠ 1 ∧ fget (ringed ringIdle) F.capTrig2Period 0 ≤ 1024) ∧
    (∀ q ∈ [1], ringState (ringed ringIdle) q = ringIdle ∧ followers (ringed ringIdle) q = []) ∧
    (∀ q ∈ [0, 1], regsOk (ringed ringIdle) q = true) ∧
    captureRate ([0, 1].foldl (fun u q => setRing u q ringArmed) (ringed ringIdle)) ≤ p1Ceiling ∧
    (mayFire (ringed ringArmed) 0 3 = true ∧ (followers (ringed ringArmed) 0).filter (fun q => ringActive (ringed ringArmed) q) = [1] ∧
      ringBlocked (ringed ringArmed) 0 = false ∧ ringBlocked (ringed ringArmed) 1 = false) ∧
    ringState (ringed ringRunning) 1 = ringRunning ∧ 0 < fget (ringed ringRunning) F.capAreaNblk 1 ∧
    1 < fget (ringed ringIdle) F.capAreaNblk 0 :=
  ⟨takes_all rfl ⟨rfl, rfl⟩ (by decide), takes_all rfl ⟨rfl, rfl⟩ (by decide), takes_one rfl rfl rfl, by unfold Canonical; decide,
    by unfold Canonical; decide, by unfold Canonical; decide, by decide, by decide, by decide, by decide, by decide, by decide,
    by decide, by decide, by decide, by decide, by decide⟩

theorem witness_RegisterWritesFollowTheirRules :
    Canonical (ringed ringArmed) ∧ Canonical (ringed ringIdle) ∧
    (regAt 0x800010).isSome = true ∧
    (regAt 0x600000).map (fun r => (decide (r.1.base ≠ F.capRdCnt.base),
      decide (0x600000 ≤ r.1.base ∧ r.1.base ≤ F.capTrig2Period.base), r.2)) =
      some (true, true, 0) ∧
    ¬(13 < 0 ∨ ringIdle < ringState (ringed ringIdle) 0) ∧ (13 < 0 ∨ ringIdle < ringState (ringed ringArmed) 0) ∧
    ((1 : Word).toNat % 32 = 1 ∧ (2 : Word).toNat % 32 = 2 ∧ (4 : Word).toNat % 32 = 4 ∧ (8 : Word).toNat % 32 = 8 ∧
      (0xFFFFFFF0 : Word).toNat % 32 = 16) :=
  ⟨by unfold Canonical; decide, by unfold Canonical; decide, by decide, by decide, by decide, by decide, by decide⟩

/-- A device with RC and W1C fields set, and DMA channel 15 running with its shadow set armed. -/
def marked : State :=
  withF (on .standby) [(F.fabEventFault, 0, 1), (F.ptpDropCnt, 0, 9), (F.dmaStatusState, 15, 1), (F.dmaStatusShadowValid, 15, 1),
    (F.capWrCnt, 13, 5), (F.capRdCnt, 13, 2)]

theorem witness_RegisterSideEffects :
    Canonical marked ∧ (regAt (F.fabEventFault.addr 0)).isSome = true ∧ (regAt (F.ptpDropCnt.addr 0)).isSome = true ∧
    (absentTx marked 63 = false ∧ absentTx (ae32 .standby) 63 = true) ∧
    (fget marked F.dmaStatusState 15 = 1 ∧ fget marked F.dmaStatusShadowValid 15 = 1) ∧
    (¬ fget marked F.dmaStatusState 0 = 1 ∧ ¬ fget marked F.dmaStatusShadowValid 0 = 1) ∧
    (regAt (0xA00000 + 0x40 * 0 + 4 * 3)).isSome = true ∧ (regAt (0xA00000 + 0x40 * 0 + 4 * 7)).isSome = true :=
  ⟨by unfold Canonical; decide, by decide, by decide, by decide, by decide, by decide, by decide, by decide⟩

theorem witness_RegisterCommandsCheckTheirWholeRange :
    (∀ p ∈ [(0x00C0, Instr.regRead h0 0x800000 1), (0x00C0, .regRead h0 0xA00000 64), (0x00C0, .regRead h0 1 64),
      (0x00C0, .regRead h0 0x0 1),
      (0x00C1, .regWrite h0 [(0xA00008, 1)]), (0x00C1, .regWrite h0 [(F.timeCfgSyncSrc.base + 0x0C, 1)]),
      (0x00C1, .regWrite h0 [(0xA00008, 1), (3, 1)])], Takes marked h0 p.1 p.2) ∧ Canonical marked ∧
    firstBad 0xA00000 8 0 = none ∧ (regAt 0xA00024).isSome = true ∧ regAt 0x0 = none ∧ pairStatus marked (0xA00008, 1) = none ∧
    (pairStatus marked (F.ppsCfgWidthMs.base, 1) = none ∧ (regAt F.ppsCfgWidthMs.base).isSome = true) ∧
    pairStatus marked (3, 1) = some stBadAlign :=
  ⟨takes_all rfl ⟨rfl, rfl⟩ (by decide), by unfold Canonical; decide, by decide, by decide, by decide, by decide, by decide, by decide⟩

def tag0 : TimeTag := { frame := 1023, subframe := 9, slot := 1, symbol := 13 }

/-- A device with a stored safe sequence, all lanes up and a rank that is due for replacement. -/
def fitted : State :=
  { on .standby with
      mram := { State.reset.mram with safe := [{ cs := 7, bytes := [1] }] }, fh := { linkUp := [true, true, true, true] },
      mi := { spareDue := some 1 } }

theorem witness_RadioSettingsAndPortsTakeEffect :
    (∀ p ∈ [(0x0043, Instr.idleGap h0 { op := 0, groups := 15, start := some { tag0 with symbol := 0 }, slots := some 11 }),
      (0x0043, .idleGap h0 { op := 1, groups := 15, id := some 3 }), (0x0043, .idleGap h0 { op := 2, groups := 0 }),
      (0x004A, .paBus h0 { op := 0, cs := some 7, bytes := some [1, 2, 3, 4, 5, 6, 7, 8], miso := [1] }),
      (0x004A, .paBus h0 { op := 1, cs := some 0, bytes := some [1], tag := some tag0, offsetNs := some (-10000) }),
      (0x004A, .paBus h0 { op := 2, sequence := some [{ cs := 7, bytes := [1] }] }), (0x004A, .paBus h0 { op := 3 }),
      (0x004B, .orxSwitch h0 3 (some 255) (some 3) (some 10000)), (0x004B, .orxSwitch h0 0 (some 0) none none),
      (0x004B, .orxSwitch h0 0 none none (some 0)), (0x0051, .dpdTrainEn h0 3 1), (0x0030, .fhPortConfig h0 6 none none),
      (0x00A2, .memSpare h0 0 none), (0x00A2, .memSpare h0 0 (some 0)), (0x00A2, .memSpare h0 1 none)], Takes fitted h0 p.1 p.2) ∧
    Takes stocked h0 0x004A (.paBus h0 { op := 3 }) ∧ stocked.mram.safe = [] ∧ fitted.mram.safe ≠ [] ∧
    (tagValid (gridMu fitted (gridOfGroups fitted 15)) { tag0 with symbol := 0 } = true ∧
      gapSlots (gridMu fitted (gridOfGroups fitted 15)) ≤ 11 ∧ freeGapId fitted 15 = some 0) ∧
    tagValid (gridMu fitted 0) tag0 = true ∧ Canonical fitted ∧
    (absentTx fitted 0 = false ∧ tget [] fitted.cap.orxBusy 0 = [] ∧ tget [] fitted.cap.orxBusy 3 = [] ∧
      namesAbsent fitted 3 = false) ∧
    (portConfigOk 6 none none = true ∧ fitted.fh.retrain = none ∧ fitted.fh.linkUp.length = 4 ∧ laneUp fitted 3 = true) ∧
    (none.or fitted.mi.spareDue = some 1 ∧ fget fitted F.caveStatusMigrating 0 = 0 ∧ fget fitted F.caveStatusSpareUsed 0 = 0 ∧
      fget fitted F.caveStatusPhysL0 0 = 0 ∧ fget fitted F.caveStatusPhysL1 0 = 1) ∧ fitted.md.mode = .standby :=
  ⟨takes_all rfl ⟨rfl, rfl⟩ (by decide), takes_one rfl rfl rfl, rfl, by decide, by decide, by decide, by unfold Canonical; decide,
    by decide, by decide, by decide, rfl⟩

theorem witness_PowerEventsKeepWhatTheAlwaysOnDomainHolds :
    State.reset.pw.power = .off ∧ (on .dense).pw.power ≠ .off ∧ railsOn (on .dense) = true := by decide

/-- The cold start after training, fill and firmware, with the reference clock. -/
def coldAt (trained filled ready ref : Bool) : State :=
  { stocked with
      md := {}, ccp := { ready := ready },
      pw := { power := .starting, trained := trained, filled := filled, refValid := ref, refPll := ref, cpll := ref } }

theorem witness_ColdStartReachesStandbyOrRecovery :
    (∀ s ∈ [coldAt false false false false, coldAt true false false false, coldAt true true false true, coldAt true true true false,
      coldAt true true true true], booting s = true ∧ memWf s.caveMem = true ∧ memWf s.sramMem = true ∧ s.regs = []) ∧
    ((coldAt false false false false).pw.trained = false ∧ retiredRank (coldAt false false false false) = 3) ∧
    (coldAt true false false false).pw.filled = false ∧
    (bestSlot (coldAt true true false true) ([0, 1].filter fun k => !(coldAt true true false true).mram.failed.contains k) = some 1 ∧
      bestSlot { coldAt true true false true with mram := {} } [0, 1] = none) ∧
    (railsOn (coldAt true true true false) = true ∧ rateListed 30720 = true ∧ rateListed 245784 = true ∧
      (coldAt true true true false).pw.refPll = false) ∧
    (coxRuns (coldAt true true true true) = true ∧ groupsMoving (coldAt true true true true) = false ∧
      (coldAt true true true true).pw.tripPending = false ∧ (coldAt true true true true).pw.brownout = none) := by
  refine ⟨?_, by decide, rfl, by decide, by decide, by decide⟩
  simp [coldAt, stocked, booting, on, State.reset, memWf, tableWf]; decide

/-- DORMANT, its entry and its end, with a command that waits. -/
def dorm (p : Power) : State :=
  withF { on .dormant with pw := { power := p, dormantCmd := some h0 } } [(F.wakeSec, 0, 7)]

theorem witness_DormantEntryAndWake :
    Canonical (dorm .dormant) ∧
    (let s := { on .standby with pw := { power := .on, entering := some h0 } }
     s.md.mode = .standby ∧ s.pw.entering = some h0 ∧ coxRuns s = true ∧ s.pw.wakeHeld = none ∧ s.pw.power ≠ .dormant) ∧
    ((dorm .dormant).pw.power = .dormant ∧ (dorm .dormant).pw.wakeHeld = none ∧ wakeWaits (dorm .dormant) = false) ∧
    (let s := { dorm .dormant with tm := { counter := 7 * 65536 * 1000000000 } }
     fget s F.wakeSec ≠ 0 ∧ s.tm.counter / 65536 / 1000000000 % 2 ^ 32 = fget s F.wakeSec) ∧
    (fget (on .standby) F.wakeSec = 0) ∧
    ((dorm .waking).pw.power = .waking ∧ groupsMoving (dorm .waking) = false ∧ (dorm .waking).md.mode = .dormant ∧
      (dorm .waking).pw.dormantCmd = some h0 ∧ (dorm .waking).pw.tripPending = false ∧ (dorm .waking).pw.abandoned = none ∧
      (dorm .waking).mram.trial = none ∧ (dorm .waking).mram.trialBad = none) :=
  ⟨by unfold Canonical; decide, by decide, by decide, by decide, by decide, by decide⟩

theorem witness_WatchdogAndThermalShutdown :
    Canonical (on .dense) ∧
    ((on .dense).pw.power = .on ∧ (on .dense).ccp.ready = true ∧ (on .dense).md.mode ≠ .boot ∧ (on .dense).mram.trial = none) ∧
    (let s := { on .standby with ccp := { ready := true, restarting := true, watchdog := true } }
     s.ccp.restarting = true ∧ s.md.mode = .standby ∧ s.md.prep = none ∧ s.mram.trialBad = none ∧ s.cal.run = none) ∧
    ((on .dense).th.broken.testBit 0 = false ∧ (on .dense).th.broken.testBit 23 = false ∧ (on .dense).pw.entering = none) ∧
    (let s := { on .shutdown with pw := { power := .shutdown, coolRounds := 100 } }
     s.pw.power = .shutdown ∧ 100 ≤ s.pw.coolRounds ∧ s.th.broken.testBit 23 = false) ∧ (on .dense).pw.coolRounds < 100 :=
  ⟨by unfold Canonical; decide, by decide, by decide, by decide, by decide, by decide⟩

/-! Time -/

/-- A device in LISTEN with a source of time, in a state of time, that follows master 5. -/
def slaved (src st : Nat) : State :=
  { withF (on .listen) [(F.timeCfgSyncSrc, 0, src), (F.timeStatusState, 0, st)] with
      tm := { selected := some 5, masters := [{ source := 5, dataset := 9 }], now := 200000000, lastMeas := some 0, t3 := some 3 } }

def msg (source domain rxStamp : Nat) : PtpMsg :=
  { port := 0, lane := 0, domain := domain, source := source, twoStep := false, rxStamp := rxStamp, stamp := 0, correction := 0,
    logInterval := -4, dataset := 7 }

theorem witness_PtpSlaveFollowsTheSelectedMaster :
    Canonical (slaved srcPtp tsLocked) ∧ syncSrc (slaved srcPtp tsLocked) = srcPtp ∧
    (ptpStray (slaved srcPtp tsLocked) (msg 4 24 0) = false ∧ ptpStray (slaved srcPtp tsLocked) (msg 4 25 0) = true) ∧
    (slaveOn (slaved srcPtp tsLocked) 0 = true ∧ (recentSyncs (slaved srcPtp tsLocked)).length < 128 ∧
      fromMaster (slaved srcPtp tsLocked) (msg 5 24 0) = true) ∧
    ((slaved srcPtp tsLocked).tm.delayDelta = none ∧ (slaved srcPtp tsLocked).tm.t3 = some 3 ∧
      (slaved srcPtp tsLocked).tm.selected = some 5) ∧
    (let s := { slaved srcPtp tsLocked with tm := { (slaved srcPtp tsLocked).tm with delayDelta := some 0, recent := List.replicate 8 0 } }
     servoRuns s = true ∧ s.tm.delayDelta = some 0 ∧ outlier s.tm.recent (0 - (0 + 0) / 2 - asym s) = false ∧
      outlier s.tm.recent (20000000 - (20000000 + 0) / 2 - asym s) = true) :=
  ⟨by unfold Canonical; decide, by decide, by decide, by decide, by decide, by decide⟩

theorem witness_PtpStampsPpsTimeoutAndUptime :
    (ptpRuns (slaved srcPtp tsLocked) = true ∧ coxRuns (slaved srcPtp tsLocked) = true ∧
      (slaved srcPtp tsLocked).tm.selected.isSome = true ∧ syncSrc (slaved srcChainUp tsLocked) = srcChainUp) ∧
    (let s := fset (slaved srcPtp tsLocked) F.timeCfgChainServe 0 1
     fget s F.timeCfgChainServe = 1 ∧ ptpStray s { msg 5 24 0 with port := masterPort s } = false ∧ ptpRuns s = true) ∧
    Canonical (slaved srcPps tsLocked) ∧ timeState (slaved srcPtp tsLocked) = tsLocked ∧
    (0 + fget (slaved srcPtp tsLocked) F.timeCfgSyncTimeout * (tickRate / 10) ≤ (slaved srcPtp tsLocked).tm.now ∧
      (on .listen).tm.now < 0 + fget (on .listen) F.timeCfgSyncTimeout * (tickRate / 10)) ∧
    ((slaved srcPtp tsLocked).pw.power = .on ∧ (slaved srcPtp tsLocked).md.mode ≠ .dormant ∧ syncSrc (slaved srcPtp tsLocked) ≠ srcPps) ∧
    (let s := { timed srcPps tsAcquiring .standby with
         tm := { now := 200000000, ppsLast := some 0, setAtPps := some (1, { hdr := h0, opcode := 0x0081 }) } }
     s.pw.power = .on ∧ s.md.mode = .standby ∧ syncSrc s = srcPps ∧ 0 + tickRate / 10 * 9 ≤ s.tm.now ∧
      fget s F.auxTimeCfgPpsInDelay = 0 ∧ 0 + tickRate / 10 * 11 ≤ s.tm.now ∧ inEpisode s 0x63 0 = false) ∧
    inEpisode { on .listen with ccp := { episodes := [(0x63, 0)] } } 0x63 0 = true ∧
    (ppsPulses (fset (slaved srcPtp tsLocked) F.ppsCfgOutEn 0 1) = true ∧ ppsPulses (on .dormant) = false) ∧
    ¬((on .listen).pw.power = .off ∧ (on .listen).pw.powerOn = true) :=
  ⟨by decide, by decide, by unfold Canonical; decide, by decide, by decide, by decide, by decide, by decide, by decide, by decide⟩

/-- A device in DENSE whose LO groups are in a state. -/
def tuned (st : Nat) : State := withF (on .dense) ((List.range 4).map fun g => (F.rsmStatusState, g, st))

theorem witness_HardwareFaultsMuteTheirUnitsAtOnce :
    Canonical (tuned rsmLocked) ∧ (absentTx (on .dense) 63 = false ∧ absentTx (ae32 .dense) 63 = true) ∧
    (muted (on .dense) (uCrew 31) = false ∧ (on .dense).cal.run = none ∧ unitWorks (on .dense) (uCrew 31) = true) ∧
    handshakePending { on .dense with fab := { seats := tset {} [] 2047 { running := true } } } 31 = true ∧
    (rsmLocked ≤ rsm (tuned rsmLocked) 3 ∧ rsm (tuned rsmSettle) 0 = rsmSettle ∧ (tuned rsmSettle).rf.ops = []) :=
  ⟨by unfold Canonical; decide, by decide, by decide, by decide, by decide⟩

def op40 : LongOp := { hdr := h0, opcode := 0x0040 }

/-- The gap of group 3 that starts now, and the calibration that waits for it. -/
def gapped (period pend : Nat) : State :=
  let gap : IdleGap := { id := 2, start := { frame := 0, subframe := 0, slot := 0, symbol := 0 }, anchor := 0, slots := 11,
                         period := period }
  withF { tuned rsmLocked with rf := { gaps := [(3, [gap])] }, tm := { counter := tGps * 65536 } } [(F.rsmStatusCalPend, 3, pend)]

theorem witness_SynthesizersPllsAndPaTransactions :
    Canonical (tuned rsmSettle) ∧ (rsm (tuned rsmSettle) 3 = rsmSettle ∧ rsm (tuned rsmCal) 3 = rsmCal ∧ (tuned rsmCal).rf.ops = []) ∧
    (let s := { tuned rsmSettle with rf := { ops := [(op40, 2 ^ 3, 0, 0)] } }
     rsm s 3 = rsmSettle ∧ op40.opcode = 0x0040 ∧ s.rf.ops = [(op40, 2 ^ 3, 0, 0)]) ∧
    tget false { (tuned rsmCal).rf with calFromOff := [(3, true)] }.calFromOff 3 = true ∧
    (tget [] (gapped 1 1).rf.gaps 3).length = 1 ∧
    (∀ q ∈ tget [] (gapped 1 1).rf.gaps 3, q.period ≠ 0 ∧
      gapStarts q (slotStart (gapped 1 1) (halfOfGroup (gapped 1 1) 3) (strokeSlot (gapped 1 1) (halfOfGroup (gapped 1 1) 3))) = true ∧
      gapSlots (gridMu (gapped 1 1) (halfOfGroup (gapped 1 1) 3)) ≤ q.slots) ∧
    (rsm (gapped 1 1) 3 ≠ rsmOff ∧ rsm (gapped 1 1) 3 ≠ rsmCal ∧ fget (gapped 1 1) F.rsmStatusCalPend 3 = 1) ∧
    (∀ q ∈ tget [] (gapped 0 0).rf.gaps 3, q.period = 0 ∧
      gapStarts q (slotStart (gapped 0 0) (halfOfGroup (gapped 0 0) 3) (strokeSlot (gapped 0 0) (halfOfGroup (gapped 0 0) 3))) = true) ∧
    fget (gapped 0 0) F.rsmStatusCalPend 3 = 0 ∧ ((on .dense).pw.cpll = true ∧ (on .dense).pw.refPll = true) ∧
    (let q : PaTimed := { xfer := { cs := 0, bytes := [1] }, tag := { tag0 with frame := 0, subframe := 0, slot := 0, symbol := 0 },
                          offsetNs := 0, late := true }
     let s := { on .dense with rf := { timed := [q] }, tm := { counter := tGps * 65536 } }
     s.rf.paNow = none ∧ paNext s = some q ∧ paInstant s q ≤ uFp s + 50 * 65536 ∧ q.late = true) :=
  ⟨by unfold Canonical; decide, by decide, by decide, by decide, by decide, by decide, by decide, by decide, by decide, by decide,
    by decide⟩

/-! Packets -/

/-- A device with all lanes up in port configuration 1, at the start of slot 0. -/
def linked (m : Mode) : State :=
  { on m with fh := { portConfig := 1, linkUp := [true, true, true, true] }, tm := { counter := tGps * 65536, now := 200000000 } }

def tagAt (subframe slot symbol : Nat) : TimeTag := { frame := 0, subframe := subframe, slot := slot, symbol := symbol }

/-- A frame on a port with one section in its payload. -/
def frame (port typ module seq cnt : Nat) (tag : TimeTag) (poison : Bool) (p : List Byte) : RxFrame :=
  { port := port, lane := 2 * port, fecOk := true, fcsOk := true, vlanTags := 0, etherType := 0x88B5, dstMac := 0, srcMac := 9,
    clientLen := 64, udp := none,
    eff := effHdrBytes
      { version := 1, typ := typ, half := 0, module := module, seq := seq, tag := tag, poison := poison, late := false,
        partialBit := false, compressed := false, sectionCnt := cnt, payloadLen := p.length, mantW := 0 } ++ p }

/-- A C-section: identifier 7, direction and mode, beam 3, user, PRBs 0 to `prbs` − 1, symbols 0 to 13, and pilot bytes. -/
def sec (flags : Byte) (user prbs : Nat) (pilot : List Byte) : List Byte :=
  [0, 7, flags, 3] ++ beBytes 4 user ++ [0, 0] ++ beBytes 2 prbs ++ [0, 14, 0, 0] ++ pilot ++ List.replicate (8 - pilot.length) 0

def cFrame (flags : Byte) (user prbs : Nat) (pilot : List Byte) : RxFrame :=
  frame 0 3 0 0 1 (tagAt 0 1 0) false (sec flags user prbs pilot)

theorem witness_DiscardedFramesAreCounted :
    Canonical (linked .dense) ∧ frameArrives (on .dense) (cFrame 0 5 1 []) = false ∧
    (let f := { cFrame 0 5 1 [] with dstMac := 1 }
     frameArrives (linked .dense) f = true ∧ f.etherType ≠ 0x88F7 ∧ frameFault (linked .dense) f = some cNotEff ∧ cNotEff ≠ cRxOvf) ∧
    (let f := frame 0 4 0 0 1 (tagAt 0 1 0) false [1]
     frameArrives (linked .dense) f = true ∧ frameFault (linked .dense) f = none ∧
      typeAccepted (linked .dense) 0 (effHdr f.eff).typ (isChainRecord (f.eff.drop 16)) = false) ∧
    (let f := { frame 0 4 0 0 1 (tagAt 0 1 0) false [1] with etherType := 0x88F7 }
     frameArrives (linked .dense) f = true ∧ f.fecOk = true ∧ f.fcsOk = true ∧ ptpUnsupported (linked .dense) f = true) ∧
    portUp (linked .dense) 0 = true ∧ portUp (linked .dense) 1 = true ∧ portUp (on .dense) 1 = false :=
  ⟨by unfold Canonical; decide, by decide, by decide, by decide, by decide, by decide⟩

/-- `linked` with a stream of type 3 that expects a number, with a history and a run of stale packets. -/
def streamed (expected : Nat) (l : List (Option Bool)) (run : Nat) : State :=
  { linked .dense with fh := { (linked .dense).fh with
      streams := [{ port := 0, type := 3, half := 0, module := 0, expected := expected, history := l, staleRun := run }] } }

theorem witness_SequenceNumbersAdmitAPacketOnce :
    (let f := cFrame 0 5 1 []
     frameArrives (linked .dense) f = true ∧ frameFault (linked .dense) f = none ∧ headerOk (linked .dense) 0 f.eff = true ∧
      ¬((effHdr f.eff).poison = true ∧ (effHdr f.eff).typ ≠ 4) ∧ (effHdr f.eff).seq = 0 ∧
      (linked .dense).fh.streams.find? (streamIs 0 3 0 0) = none) ∧
    (∀ s ∈ [streamed 0 [] 0, streamed 1 [some true] 0, streamed 64 (List.replicate 64 (some true)) 0, streamed 65 [some true] 6,
      streamed 32768 [some true] 7], frameArrives s (cFrame 0 5 1 []) = true ∧ frameFault s (cFrame 0 5 1 []) = none ∧
        headerOk s 0 (cFrame 0 5 1 []).eff = true ∧ (s.fh.streams.find? (streamIs 0 3 0 0)).isSome = true) ∧
    ((0 + 65536 - 1) % 65536 = 65536 - 1 ∧ (0 + 65536 - 64) % 65536 = 65536 - 64 ∧ (0 + 65536 - 65) % 65536 = 65536 - 65 ∧
      (0 + 65536 - 32768) % 65536 = 65536 - 32768) ∧
    (receive (streamed 1 [some true] 0) (cFrame 0 5 1 [])).2 = false := by decide

/-- The state after reception of a frame. -/
def got (s : State) (f : RxFrame) : State := (receive s f).1

theorem witness_CSectionsAreAcceptedOrCounted :
    (∀ f ∈ [cFrame 0x00 5 1 [], cFrame 0x40 5 1 [], cFrame 0x00 5 0 [], cFrame 0xD0 5 1 [0x01, 0, 0, 1], cFrame 0x80 5 1 [],
        cFrame 0xD0 5 1 [0x00, 0, 0, 1], frame 0 3 0 0 1 (tagAt 0 0 0) false (sec 0 5 1 []),
        frame 0 3 0 0 1 (tagAt 5 0 0) false (sec 0 5 1 [])],
      (effHdr f.eff).typ = 3 ∧ (receive (linked .dense) f).2 = true ∧ (effHdr f.eff).sectionCnt = 1 ∧ (effHdr f.eff).payloadLen = 24) ∧
    (receive (linked .standby) (cFrame 0x00 5 1 [])).2 = true ∧
    check8 (got (linked .standby) (cFrame 0x00 5 1 [])) (effHdr (cFrame 0x00 5 1 []).eff) = some (some cIdleDrop) ∧
    check8 { linked .dense with md := { mode := .dense, stepStop := some 1, prep := some { target := .standby, full := {}, cmd := none } } }
      (effHdr (cFrame 0x00 5 1 []).eff) = some none ∧
    (let f := frame 0 3 0 0 1 (tagAt 0 0 0) false (sec 0 5 1 [])
     check8 (got (linked .dense) f) (effHdr f.eff) = none ∧ window (got (linked .dense) f) (effHdr f.eff) = some cLate) ∧
    (let f := frame 0 3 0 0 1 (tagAt 5 0 0) false (sec 0 5 1 [])
     window (got (linked .dense) f) (effHdr f.eff) = some cEarly) ∧
    (let f := cFrame 0x00 5 0 []
     let u := got (linked .dense) f
     let x := sectionOf (effHdr f.eff) (slice (payload f) 0 24)
     check8 u (effHdr f.eff) = none ∧ window u (effHdr f.eff) = none ∧ judgeSection u x = some cZeroPrb) ∧
    (let f := cFrame 0x40 5 1 []
     let u := got (linked .dense) f
     let x := sectionOf (effHdr f.eff) (slice (payload f) 0 24)
     judgeSection u x = none ∧ x.sector = true ∧ x.dir = .dl) ∧
    (let f := cFrame 0x80 5 1 []
     let u := got (linked .dense) f
     let x := sectionOf (effHdr f.eff) (slice (payload f) 0 24)
     judgeSection u x = none ∧ x.sector = false ∧ lookedUp u x.user x.half x.slot = false ∧ x.pilot = none) ∧
    (let f := cFrame 0xD0 5 1 [0x01, 0, 0, 1]
     let u := got (linked .dense) f
     let x := sectionOf (effHdr f.eff) (slice (payload f) 0 24)
     judgeSection u x = none ∧ x.sector = true ∧ x.user ≠ sectorTag ∧ x.dir = .ul ∧
      (x.pilot.map fun p => p.bad x.symStart x.symCnt) = some false) ∧
    (let f := cFrame 0xD0 5 1 [0x00, 0, 0, 1]
     let u := got (linked .dense) f
     let x := sectionOf (effHdr f.eff) (slice (payload f) 0 24)
     judgeSection u x = none ∧ x.sector = true ∧ x.dir = .ul ∧ (x.pilot.map fun p => p.bad x.symStart x.symCnt) = some true) :=
  ⟨by decide, by decide, by decide, by decide, by decide, by decide, by decide, by decide, by decide, by decide, by decide⟩

/-- One PRB of section 7, uncompressed. -/
def udata (prbs : Nat) : List Byte := [0, 7, 3, 0, 0, 0] ++ beBytes 2 prbs ++ List.replicate (48 * prbs) 1

def udFrame (prbs : Nat) : RxFrame := frame 0 1 0 0 1 (tagAt 0 0 7) false (udata prbs)

def dlSection : Section :=
  { dir := .dl, half := 0, slot := tagAt 0 0 0, id := 7, wmode := 2, beam := 3, user := 5, prbStart := 0, prbCnt := 1, symStart := 7,
    symCnt := 1, group := 0, pilot := none, order := 0 }

/-- `linked` with an accepted downlink section. -/
def covered : State := { linked .dense with fh := { (linked .dense).fh with sections := [dlSection], nextOrder := 1 } }

/-- A packet that waits in place `k` of the extension region. -/
def spilled (k : Nat) : PktWait := { half := 0, tag := tagAt 0 0 7, typ := 1, bytes := 64, ext := some (0x50000000 + 9216 * k) }

/-- What fills the buffer of a type's packets, and the extension region. -/
def filling (typ : Nat) : List PktWait := { spilled 0 with typ := typ, bytes := 1048576, ext := none } :: (List.range 29127).map spilled

theorem filling_place {u : State} {typ : Nat} (h : u.fh.waits = filling typ) : extPlace u = none := by
  rw [extPlace, List.find?_eq_none, h]
  intro k hk
  have : (filling typ).any (fun w => decide (w.ext = some (0x50000000 + 9216 * k))) = true :=
    List.any_eq_true.2 ⟨spilled k, List.mem_cons_of_mem _ (List.mem_map.2 ⟨k, hk, rfl⟩), by simp [spilled]⟩
  simp [this]

theorem spilled_apart (p : Nat → Bool) (l : List Nat) (n : Nat) :
    (l.map spilled).foldl (fun n w => if p w.typ = true ∧ w.ext.isNone = true then n + w.bytes else n) n = n := by
  induction l generalizing n with
  | nil => rfl
  | cons k l ih => simpa [spilled] using ih n

theorem filled_waits {u : State} (typ : Nat) (l : List Nat) (ht : typ = 1 ∨ typ = 4)
    (h : u.fh.waits = { spilled 0 with typ := typ, bytes := 1048576, ext := none } :: l.map spilled) : 1048576 ≤ waiting u typ := by
  have g := spilled_apart (fun t => if typ = 4 then decide (t = 4) else decide (t ≠ 4)) l 1048576
  have : (u.fh.waits.foldl (fun n w => if (if typ = 4 then decide (w.typ = 4) else decide (w.typ ≠ 4)) = true ∧ w.ext.isNone = true then
      n + w.bytes else n) 0) = 1048576 := by
    rw [h, List.foldl_cons]
    refine Eq.trans ?_ g
    obtain rfl | rfl := ht <;> simp
  unfold waiting
  simp only [this]
  omega

theorem filling_waits {u : State} {typ : Nat} (h : u.fh.waits = filling typ) (ht : typ = 1 ∨ typ = 4) : 1048576 ≤ waiting u typ :=
  filled_waits typ (List.range 29127) ht h

/-- `linked` with packets that wait. -/
def linkedWith (w : List PktWait) : State := { linked .dense with fh := { (linked .dense).fh with waits := w } }

theorem linkedWith_got (w : List PktWait) :
    (receive (linkedWith w) (udFrame 1)).2 = true ∧ (got (linkedWith w) (udFrame 1)).fh.waits = w := ⟨rfl, rfl⟩

theorem witness_DownlinkDataFindsNoPlace :
    (receive (linkedWith (filling 1)) (udFrame 1)).2 = true ∧ waitFor (got (linkedWith (filling 1)) (udFrame 1)) (udFrame 1) = none := by
  obtain ⟨a, g⟩ := linkedWith_got (filling 1)
  refine ⟨a, ?_⟩
  have h : (effHdr (udFrame 1).eff).typ = 1 := by decide
  have l : (udFrame 1).eff.length = 72 := by decide
  have w := filling_waits g (.inl rfl)
  have : ¬(waiting (got (linkedWith (filling 1)) (udFrame 1)) 1 + 72 ≤ 1048576) := by omega
  simp [waitFor, h, l, this, filling_place g]

theorem witness_DownlinkDataTakesItsPlace :
    (∀ s ∈ [linked .dense, covered], ∀ f ∈ [udFrame 0, udFrame 1], (effHdr f.eff).typ = 1 ∧ (receive s f).2 = true ∧
      check8 (got s f) (effHdr f.eff) = none ∧ window (got s f) (effHdr f.eff) = none ∧ (effHdr f.eff).sectionCnt = 1 ∧
      (waitFor (got s f) f).isSome = true ∧
      (udSections (prbBytes (rxMant (effHdr f.eff))) 1 (payload f)).map List.length = some 1) ∧
    (covered.fh.sections.find? (fun y => decide (y.dir = .dl ∧ y.half = 0 ∧ y.id = 7) && sameSlot y.slot (tagAt 0 0 7))).isSome = true ∧
    (dlSection.symStart ≤ 7 ∧ 7 < dlSection.symStart + dlSection.symCnt ∧ dlSection.prbStart ≤ 0 ∧
      0 + 1 ≤ dlSection.prbStart + dlSection.prbCnt) ∧
    (let w : PktWait := { spilled 0 with bytes := 1048576, ext := none }
     1048576 < waiting { linked .dense with fh := { (linked .dense).fh with waits := [w] } } 1 + 72) :=
  ⟨by decide, by decide, by decide, by decide⟩

/-- A hub of a chain whose uplink symbol is ready. -/
def hub : State :=
  { linked .chain with
      md := { mode := .chain, full := { cfg := { role := 0 } } },
      fab := { symbols := [{ dir := .ul, half := 0, tag := tagAt 0 0 7, finished := some 0 }] } }

def acc0 (closed : Bool) : AccWait := { half := 0, tag := tagAt 0 0 7, closed := closed, late := false, deadline := 0 }

def ulSection : Section := { dlSection with dir := .ul }

theorem witness_PartialSumsAndUplinkSymbolsLeaveOnce :
    (∀ f ∈ [frame 1 4 1 0 1 (tagAt 0 0 7) true (udata 1), frame 1 4 1 0 0 (tagAt 0 0 7) false [0]], (effHdr f.eff).typ = 4 ∧
      (receive hub f).2 = true ∧ check8 (got hub f) (effHdr f.eff) = none ∧
      accClosed (got hub f) (effHdr f.eff).half (effHdr f.eff).tag = false) ∧
    (let f := frame 1 4 1 0 1 (tagAt 0 0 7) true (udata 1)
     (udSections (prbBytes (rxMant (effHdr f.eff))) 1 (payload f)).map List.length = some 1 ∧ (waitFor (got hub f) f).isSome = true ∧
      accClosed (got { hub with fh := { hub.fh with accs := [acc0 true] } } f) 0 (tagAt 0 0 7) = true) ∧
    (planeStopped (linked .standby) = true ∧ planeStopped hub = false ∧ symbolReady hub 0 (tagAt 0 0 7) = true ∧
      symbolReady hub 0 (tagAt 0 0 8) = false) ∧
    (waitsDown { hub with md := { mode := .dense } } = false ∧ partialsComplete hub 0 (tagAt 0 0 7) = true) ∧
    (let s := { hub with fh := { hub.fh with sections := [ulSection], nextOrder := 1 } }
     waitsDown s = true ∧ partialsComplete s 0 (tagAt 0 0 7) = false ∧ accOf s 0 (tagAt 0 0 7) = none) ∧
    (let s := { hub with fh := { hub.fh with accs := [acc0 false] } }
     waitsDown s = true ∧ accOf s 0 (tagAt 0 0 7) = some (acc0 false) ∧ (acc0 false).closed = false) :=
  ⟨by decide, by decide, by decide, by decide, by decide, by decide⟩

/-- A weight update of one section. -/
def wuFrame (tag : Nat) (op : Byte) : RxFrame :=
  frame 0 7 0 0 1 (tagAt 0 0 0) false (beBytes 4 tag ++ [op, 0, 0x80, 0] ++ List.replicate 256 1)

theorem witness_WeightUpdatesAreHeldForAStroke :
    (∀ f ∈ [wuFrame 5 0, wuFrame 5 1, wuFrame 5 2, wuFrame sectorTag 0], (effHdr f.eff).typ = 7 ∧ (receive (linked .dense) f).2 = true ∧
      forThis (got (linked .dense) f) (effHdr f.eff) = true ∧ modesA (got (linked .dense) f).md.mode = true ∧
      (effHdr f.eff).sectionCnt = 1 ∧ (effHdr f.eff).payloadLen = 264 ∧ (got (linked .dense) f).fh.updatesNow < 512) ∧
    (beNat (slice (slice (payload (wuFrame 5 1)) 0 264) 0 4) = 5 ∧ nth (0 : Byte) (slice (payload (wuFrame 5 1)) 0 264) 4 = 1 ∧
      beNat (slice (slice (payload (wuFrame sectorTag 0)) 0 264) 0 4) = sectorTag ∧
      nth (0 : Byte) (slice (payload (wuFrame 5 2)) 0 264) 4 = 2) ∧
    512 ≤ (got { linked .dense with fh := { (linked .dense).fh with updatesNow := 512 } } (wuFrame 5 0)).fh.updatesNow ∧
    (receive hub { wuFrame 5 0 with eff := (frame 0 7 1 0 1 (tagAt 0 0 0) false [1]).eff }).2 = true ∧
    forThis hub (effHdr (frame 0 7 1 0 1 (tagAt 0 0 0) false [1]).eff) = false :=
  ⟨by decide, by decide, by decide, by decide, by decide⟩

/-- A CHAIN status record, and another packet of type 6. -/
def recFrame (port : Nat) (code : Nat) : RxFrame := frame port 6 1 0 0 (tagAt 0 0 0) false (beBytes 2 code ++ List.replicate 42 0)

theorem witness_CcpPacketsRecordsSilenceAndLinks :
    (∀ f ∈ [frame 0 5 0 0 0 (tagAt 0 0 0) false [], frame 0 5 0 0 0 (tagAt 0 0 0) false [1, 2, 3, 4, 5],
        frame 0 5 0 0 0 (tagAt 0 0 0) false [1, 2, 3, 4, 5, 6]],
      (effHdr f.eff).typ = 5 ∧ (receive hub f).2 = true ∧ (effHdr f.eff).module = chainPos (got hub f) ∧ coxRuns (got hub f) = true ∧
      (got hub f).ccp.inBand.length < 16) ∧
    (let f := frame 0 5 1 0 0 (tagAt 0 0 0) false []
     (receive hub f).2 = true ∧ (effHdr f.eff).module ≠ chainPos (got hub f) ∧
      coxRuns (got { hub with ccp := {} } (frame 0 5 0 0 0 (tagAt 0 0 0) false [])) = false) ∧
    ((receive hub (recFrame 1 0x4008)).2 = true ∧ isChainRecord (payload (recFrame 1 0x4008)) = true ∧
      (receive hub (recFrame 1 0x4009)).2 = true ∧ isChainRecord (payload (recFrame 1 0x4009)) = false ∧
      inChain (got hub (recFrame 1 0x4009)) = true ∧ downPort (got hub (recFrame 1 0x4009)) = 1) ∧
    (let m := { hub with md := { mode := .chain, full := { cfg := { role := 1 } } } }
     isMember (got m (recFrame 0 0x4008)) = true ∧ portUp (got m (recFrame 0 0x4008)) 1 = true ∧ silentFor m 1 30 = true ∧
      inEpisode m 0x15 0 = false) ∧
    (activeMode (linked .dense).md.mode = true ∧ isMember (linked .dense) = false ∧ silentFor (linked .dense) 0 100 = true ∧
      inEpisode (linked .dense) 0x14 0 = false ∧ silentFor (on .dense) 0 100 = false) ∧
    (waitsDown hub = true ∧ silentFor hub (downPort hub) 30 = true ∧ inEpisode hub 0x16 0 = false ∧ waitsDown (on .dense) = false) ∧
    (laneUp (linked .dense) 3 = true ∧ laneUp (on .dense) 3 = false ∧ (on .dense).fh.linkUp.length = 4 ∧ (on .dense).pw.power = .on ∧
      (on .dense).fh.retrain = none) ∧
    (let s := { on .standby with fh := { linkUp := [false, true, true, true], retrain := some h0 } }
     laneUp s 0 = false ∧ s.fh.linkUp.set 0 true = [true, true, true, true]) :=
  ⟨by decide, by decide, by decide, by decide, by decide, by decide, by decide, by decide⟩

theorem witness_MspiTransactions :
    (on .standby).pw.power ≠ .off ∧ (writeOk 6 [1, 2, 3, 4, 5, 6] 0 = false ∧ writeOk 5 [1, 2, 3, 4, 5] (crc32 [0, 5, 1, 2, 3, 4, 5]) = false) ∧
    (enteringDormant (on .standby) = none ∧ coxReady (on .standby) = true ∧ (on .standby).ccp.mspi.length < 16) ∧
    (let s := { on .standby with ccp := { ready := true, mspi := List.replicate 16 (0, []), outMspi := [.keepalive 1] } }
     coxReady s = true ∧ 16 ≤ s.ccp.mspi.length ∧ s.ccp.outMspi = CcpOut.keepalive 1 :: [] ∧ s.pw.power ≠ .shutdown) ∧
    (on .dormant).md.mode = .dormant := by decide

/-! The Eight -/

/-- Seat 2047 of a device in DENSE. -/
def seated (b : Seat) : State := { on .dense with fab := { seats := tset {} [] 2047 { b with running := true } } }

def word (v : Word) : DReg := { val := v }

/-- Seat 2047 in a customer's COMBINE whose first word is the encoding example of 05_seat_programming.md. -/
def kernelled (b : Seat) : State :=
  { on .dense with fab := {
      seats := tset {} [] 2047 { b with running := true, kind := 2 },
      loads := tset {} [] 31 { kinds := [(2, 0, 1)], customer := some image0, prog := [0x1D0CD2C0] } } }

/-- The instruction of that word: MAC A1, D2.L, D1.H ; LD D2, [P1]+M1 ; PUSH. -/
def example0 : MForm := { acc := 1, xr := 2, yr := 1, yh := true, side := .ld 2 1 1, push := true }

/-- A seat takes any instruction of a vendor's kernel, of the customer's the one that its word spells, and of class 2 or 3 work one
that its chunk has room for. -/
theorem witness_SeatTakes :
    (∀ i ∈ [Instr.seatNop (seat 2047) {}, .seatMpy (seat 2047) {}, .seatMac (seat 2047) example0, .seatMsu (seat 2047) {},
        .seatAdd (seat 2047) { dd := 1, da := 0, db := 0 }, .seatExp (seat 2047) 0 0 0 0 false 0 [], .seatLoop (seat 2047) false 0 5 1,
        .seatMvp (seat 2047) true 3 7, .seatNrw (seat 2047) 0 true false 31, .seatEnd (seat 2047)],
      SeatTakes (seated {}) (seat 2047) i 65) ∧
    SeatTakes (kernelled {}) (seat 2047) (.seatMac (seat 2047) example0) 2 ∧
    spelled (kernelled {}) (seat 2047) (.seatEnd (seat 2047)) = false ∧
    SeatTakes (seated { kind := 5, hcnt := 510 }) (seat 2047) (.seatJmp (seat 2047) 0) 2 ∧
    (let b : Seat := { kind := 7, hcnt := 512 }
     512 ≤ (seatOf (seated b) 2047).hcnt.toNat ∧ (seatOf (seated b) 2047).hcnt.toNat < 2 ^ 31 ∧ SeatFree (seated b) 2047 .none false) ∧
    tget 0 (seated {}).fab.seatCorr 31 < 2 ^ 32 := by
  unfold SeatTakes SeatFree; decide

theorem witness_SeatsMultiplyIntoAccumulators : SeatFree (seated {}) 2047 (.ld 7 3 2) true ∧ SeatFree (seated {}) 2047 .none false := by
  unfold SeatFree; decide

theorem witness_SeatsComputeInRegisters : SeatFree (seated { inq := [word 5] }) 2047 (.ldi 1) false := by unfold SeatFree; decide

theorem witness_SeatsNarrowNormalizeAndClear : Canonical (seated {}) ∧ seatRuns (seated {}) 2047 = true :=
  ⟨by unfold Canonical; decide, by decide⟩

theorem witness_SeatsScanMemoryAndLoadRegisters :
    seatRuns (seated {}) 2047 = true ∧
    (∀ v ∈ [(0, 2047 % 64), (1, 2047 / 64), (6, (seatOf (seated {}) 2047).hcnt.toNat)],
      v ∈ [(0, 2047 % 64), (1, 2047 / 64), (2, (seatOf (seated {}) 2047).nb), (3, (seatOf (seated {}) 2047).shf),
        (4, (seatOf (seated {}) 2047).item), (5, (seatOf (seated {}) 2047).kind), (6, (seatOf (seated {}) 2047).hcnt.toNat)]) := by decide

def loop2 : SeatLoop := { count := 2, first := 3, last := 5 }

theorem witness_SeatsLoopAndBranch :
    seatRuns (seated {}) 2047 = true ∧ (seatOf (seated {}) 2047).loops = [] ∧ ((seatOf (seated {}) 2047).reg 0).val = 0 ∧
    ((seatOf (seated { d := List.replicate 8 (word 1) }) 2047).reg 7).val ≠ 0 ∧
    (let b := seatOf (seated { loops := [loop2], pc := 5 }) 2047
     b.loops = loop2 :: [] ∧ b.pc.toNat = loop2.last ∧ 1 < loop2.count) ∧
    (seatOf (seated { loops := [loop2], pc := 4 }) 2047).pc.toNat ≠ loop2.last := by decide

def push0 : RedPush := { re := 1, im := 2, mark := false, index := 0, nb := 1, shf := 0 }

theorem witness_SideActionsMoveWordsOrWait :
    (seatRuns (seated {}) 2047 = true ∧ (seatOf (seated {}) 2047).blocked (.ldi 0) false = some .inQ ∧
      (seatOf (seated { red := some push0 }) 2047).blocked .none true = some .red) ∧
    (let b : Seat := { wait := some (.inQ, .seatNop (seat 2047) { side := .ldi 0 }) }
     (seatOf (seated b) 2047).wait = some (.inQ, .seatNop (seat 2047) { side := .ldi 0 }) ∧ waitOver (seatOf (seated b) 2047) .inQ = false ∧
      waitOver (seatOf (seated { b with inq := [word 1] }) 2047) .inQ = true ∧
      (let s := seated { b with inq := [word 1] }
       let r := putSeat s 2047 ((seatOf s 2047).resumed .inQ)
       seatRuns r 2047 = true ∧ spelled r (seat 2047) (.seatNop (seat 2047) { side := .ldi 0 }) = true ∧ (seatOf r 2047).kind = 0)) ∧
    (let b : Seat := { wait := some (.out, .seatAdd (seat 2047) { dd := 0, da := 1, db := 2, side := .out 3 }) }
     (seatOf (seated b) 2047).wait = some (.out, .seatAdd (seat 2047) { dd := 0, da := 1, db := 2, side := .out 3 }) ∧
      waitOver (seatOf (seated b) 2047) .out = true) ∧
    ((seatOf (seated {}) 2047).wait = none ∧ seatRuns (on .dense) 0 = false) ∧
    (let m : Seat := { inq := [word 1], rin := [word 2], kind := 1, outs := 12, nb := 1 }
     m.inq = word 1 :: [] ∧ m.feed = [] ∧ m.rin = word 2 :: [] ∧ risingFrom 0 m.mem = true ∧ m.kind ≠ 2 ∧
      ({ m with kind := 3 } : Seat).outs < 13 ∧ 13 ≤ ({ m with kind := 3, outs := 13 } : Seat).outs ∧
      ({ m with kind := 2, pushes := 11 } : Seat).pushes < 12 * m.nb ∧
      12 * m.nb ≤ ({ m with kind := 2, pushes := 12 } : Seat).pushes) := by decide

/-- A change to DENSE at the start of slot 0. -/
def changing (ready stopped : Bool) (cmd : Option CmdHdr) (recheck : Option Nat) : State :=
  { linked .standby with
      md := { mode := .standby, prep := some { target := .dense, full := {}, cmd := cmd, ready := ready, stopped := stopped,
                                               recheck := recheck } } }

theorem witness_ModesTakeForceAtStrokes :
    Canonical (linked .standby) ∧
    (let s := changing false true (some h0) none
     (s.md.prep.map fun p => (activeMode p.target, p.ready, p.stopped)) = some (true, false, true) ∧ storedKernel s = none ∧
      kernelKept s = false ∧ s.md.mode ≠ .service ∧ unloaded s ≠ [] ∧ coxRuns s = true ∧ settling s = false) ∧
    ((linked .standby).md.prep = none ∧ strokesRun (on .dormant) = false ∧ strokesRun (linked .dense) = true) ∧
    (let s := { linked .dense with md := { mode := .dense, prep := some { target := .standby, full := {}, cmd := some h0 } } }
     (s.md.prep.map fun p => (activeMode p.target, p.ready)) = some (false, false)) ∧
    (isSplit (linked .split) = true ∧ strokesRun (linked .split) = true) ∧
    ((linked .dense).md.stepStop = none ∧ (linked .dense).tm.step = none) ∧
    (∀ s ∈ [changing true true (some h0) none, changing true true (some h0) (some 9), changing true true none none],
      strokesRun s = true ∧ (s.md.prep.map fun p => (p.ready, onTargetGrid s p)) = some (true, true)) ∧
    (let s := { linked .dense with tm := { (linked .dense).tm with step := some (-5, some tsFree, none) } }
     strokesRun s = true ∧ s.md.stepStop = none ∧ s.tm.step = some (-5, some tsFree, none)) :=
  ⟨by unfold Canonical; decide, by decide, by decide, by decide, by decide, by decide, by decide, by decide⟩

theorem witness_HousekeepingRoundsJudgeTheReadings :
    (∀ m ∈ [Mode.dormant, .recovery, .shutdown, .dense], (on m).tm.uptime % 80 = 0) ∧
    (let s := { on .dense with tm := { uptime := 79 } }
     s.tm.uptime % 80 ≠ 0) ∧
    ((on .dormant).md.mode = .dormant ∧ (on .dormant).pw.tripPending = false) ∧
    ((on .recovery).md.mode = .recovery ∧ (on .recovery).pw.power = .on ∧ (on .shutdown).md.mode = .shutdown) ∧
    ((on .dense).md.mode ≠ .dormant ∧ (on .dense).md.mode ≠ .shutdown ∧ (on .dense).pw.power = .on ∧ coxRuns (on .dense) = true ∧
      (on .dense).md.mode ≠ .recovery ∧ (on .dense).th.warning = false) := by decide

/-- One downlink section that covers symbol 7, its item and its symbol. -/
def item0 (kind : Nat) (running : Bool) : Item :=
  { id := 0, crew := 31, kind := kind, half := 0, dir := .dl, tag := tagAt 0 0 7, index := 0, deadline := 0, running := running,
    seatsLeft := if running then [62, 63] else [] }

def symbol0 (finished : Option Int) : SymbolRun := { dir := .dl, half := 0, tag := tagAt 0 0 7, finished := finished }

def symbolled (finished : Option Int) (items : List Item) : State :=
  { covered with fab := { symbols := [symbol0 finished], items := items, crews := [[31], []] } }

theorem witness_SymbolsStartAndAreCut :
    (∀ s ∈ [covered, symbolled none [item0 1 false]], memWf s.caveMem = true ∧ memWf s.sramMem = true ∧ s.regs = []) ∧
    (Canonical covered ∧ Orderly covered) ∧
    (symbolOk covered .dl 0 (tagAt 0 0 14) = false ∧ symbolOk covered .dl 0 (tagAt 0 0 7) = true ∧ covered.fab.symbols = [] ∧
      covering covered .dl 0 (tagAt 0 0 7) ≠ []) ∧
    (let s := symbolled none []
     crewOfPrb s 0 0 = some 31 ∧ unitWorks s (uCrew 31) = true) ∧
    (let s := symbolled none [item0 1 false]
     s.fab.symbols = [symbol0 none] ∧ (symbol0 none).cut = false ∧ (∃ i ∈ s.fab.items, i.kind ≤ 3 ∧ i.dir = .dl ∧ i.half = 0 ∧
       i.tag = tagAt 0 0 7)) ∧
    (let s := symbolled (some 0) []
     s.fab.symbols = [symbol0 (some 0)] ∧ s.fab.items = [] ∧ slackKey .dl 0 < s.fab.slackMin.length ∧
      s.fab.slackMin[slackKey .dl 0]? = some none) :=
  ⟨by decide, ⟨by unfold Canonical; decide, by unfold Orderly; decide⟩, by decide, by decide, by decide, by decide⟩

theorem witness_SymbolBoundariesDriveTheTxPaths :
    Orderly covered ∧ activeMode (on .standby).md.mode = false ∧
    (activeMode covered.md.mode = true ∧ tagValid (gridMu covered 0) (tagAt 0 0 13) = true ∧
      tagValid (gridMu covered 0) (tagAt 0 2 0) = false) ∧
    (63 ∈ halfPaths covered 0 ∧ absentTx covered 63 = false ∧ tget 0 covered.rf.loopback (63 / 16) ≠ 1) ∧
    tget 0 { covered.rf with loopback := [(3, 1)] }.loopback (63 / 16) = 1 :=
  ⟨by unfold Orderly; decide, by decide, by decide, by decide, by decide⟩

theorem witness_CrewsDispatchTheirBestItem :
    (planeStopped (on .standby) = true ∧ ∃ i ∈ (symbolled none [item0 1 true]).fab.items, i.crew = 31 ∧ i.running = true) ∧
    (let s := symbolled none [item0 4 false]
     planeStopped s = false ∧ unitWorks s (uCrew 31) = true ∧ (∀ j ∈ s.fab.items, ¬(j.crew = 31 ∧ j.running = true)) ∧
      (bestOf itemBefore (s.fab.items.filter fun i => decide (i.crew = 31 ∧ i.kind ≤ 4) && itemReady s i)).isSome = true) := by decide

theorem witness_ItemsEndAndReductionsDeliver :
    (∀ k ∈ [1, 2], let s := { symbolled none [item0 k true] with fab := { (symbolled none [item0 k true]).fab with
         seats := tset {} [] 2047 { running := true } } }
     seatRuns s 2047 = true ∧ (seatOf s 2047).hcnt ≠ 0xFFFFFFFF#32 ∧ (item0 k true).crew = 2047 / 64 ∧
      (item0 k true).seatsLeft.contains (2047 % 64) = true ∧
      (s.fab.items.find? fun j => decide (j.crew = 2047 / 64) && j.running && j.seatsLeft.contains (2047 % 64)) = some (item0 k true) ∧
      (∃ m ∈ (item0 k true).seatsLeft, m ≠ 2047 % 64)) ∧
    (∀ m ∈ ({ item0 1 true with seatsLeft := [63] } : Item).seatsLeft, m = 2047 % 64) ∧
    (let s := { on .dense with fab := { seats := (List.range 64).map fun k => (k, { red := some push0, pushes := 1, nb := 1 }) } }
     ((List.range 64).filterMap fun j => (seatOf s (64 * 0 + j)).red).length = 64 ∧ (seatOf s 0).nb = 1 ∧
      ((seatOf s 0).pushes - 1) % (seatOf s 0).nb = 0 ∧ (seatOf s 0).rin.length < 16 ∧ risingFrom 0 s.fab.seats = true) ∧
    (seatOf (on .dense) 0).nb = 0 := by
  refine ⟨by decide, by decide, ?_, by decide⟩
  decide

/-! Weight store and Cave -/

def read0 : P0Read := { user := 5, half := 0, slot := tagAt 0 0 0, est := none, deadline := 0 }

def est0 (left : Nat) : EstItem :=
  { id := 9, user := 5, half := 0, slot := tagAt 0 0 0, sectionId := 7,
    pilot := { sym := 0, nsym := 1, comb := 0, combOff := 0, cshift := 0, seq := 1 }, prbStart := 0, prbCnt := 1, rx := [],
    symsLeft := left, lookup := some (.miss, 0), heard := 0 }

theorem witness_WeightStoreLooksUpEstimatesAndAges :
    Canonical stored5 ∧ (fget (dorm .dormant) F.caveStatusSelfRefresh = 0 ∧ (on .dense).ws.reads = []) ∧
    (let s := { stored5 with ws := { reads := [read0] } }
     fget s F.caveStatusSelfRefresh = 0 ∧ s.ws.prefetch.length < 1024 ∧ s.cave.writes = [] ∧ s.cave.waiting = [] ∧ s.cavePoison = [] ∧
      (entryOf (memSlice s.caveMem (wayAddr (bucketOf 5) 0) 288)).tag = 5 ∧
      (entryOf (memSlice s.caveMem (wayAddr (bucketOf 5) 0) 288)).holds = true) ∧
    ((est0 0).lookup = some (.miss, 0) ∧ (est0 0).symsLeft = 0) ∧
    (let s := { linked .dense with fab := { est := [est0 1] } }
     ∀ i ∈ s.fab.est, strokeSlot s i.half < slotNear s i.half i.slot + 4) ∧
    (let s := { linked .dense with fab := { est := [est0 1] }, tm := { counter := (tGps + 2000000) * 65536 } }
     ∀ i ∈ s.fab.est, slotNear s i.half i.slot + 4 ≤ strokeSlot s i.half) ∧
    (stored5.ws.ageMin ≠ 0 ∧ modesA stored5.md.mode = true ∧ stored5.ws.transfer = none ∧ coxRuns stored5 = true ∧
      stored5.cavePoison = [] ∧ stored5.cave.writes = [] ∧ stored5.cave.waiting = []) ∧
    ((dorm .dormant).md.mode = .dormant ∧ { stored5.ws with ageMin := 0 }.ageMin = 0) :=
  ⟨by unfold Canonical; decide, by decide, by decide, by decide, by decide, by decide, by decide, by decide⟩

/-- A Cave with panic or not, refreshes owed, targeted refreshes and requests. -/
def caved (c : CaveSt) (l : List (Fld × Nat × Nat)) : State := withF { on .dense with cave := c } l

def trr (u : Bool) : Trr := { rank := 2, bank := 0, row := 0, urgent := u }

def req0 : CaveReq := { id := 2, port := 1, write := true, addr := 0, len := 32, data := List.replicate 32 (1, false) }

theorem witness_TheCaveRefreshesAndServesInOrder :
    (Canonical (caved {} []) ∧ Canonical (caved { panic := true } [(owedFld 2, 0, 8), (F.refCfg, 0, 8)])) ∧
    (fget (caved {} []) F.caveStatusSelfRefresh = 0 ∧ fget (caved {} [(F.caveStatusSelfRefresh, 0, 1)]) F.caveStatusSelfRefresh = 1) ∧
    (postponing (caved {} []) = false ∧ postponing (caved { panic := true } []) = true) ∧
    (let s := caved { panic := true } [(F.refCfg, 0, 8), (owedFld 2, 0, 7)]
     fget s (owedFld 2) < fget s F.refCfg ∧ fget s F.refCfg ≤ 8) ∧
    (let s := caved { panic := true } [(F.refCfg, 0, 8), (owedFld 2, 0, 8)]
     fget s F.refCfg ≤ fget s (owedFld 2) ∧ 2 ∉ s.cave.asleep ∧ risingFrom 0 s.cave.refDue = true) ∧
    (2 ∈ (caved { asleep := [2] } []).cave.asleep ∧ fget (caved {} []) (owedFld 2) < fget (caved {} []) F.refCfg ∧
      goesFirst (caved {} []) 2 = false ∧ goesFirst (caved { trrs := [trr true] } []) 2 = true) ∧
    ((caved { trrs := [trr false] } []).cave.trrs = [] ++ trr false :: [] ∧ (trr false).urgent = false ∧ (trr true).urgent = true ∧
      (trr false).rank = 2) ∧
    (let s := caved { draining := true, writes := [{ bucket := 0, way := 7, data := List.replicate 288 1, id := 0 }] } []
     p0Ready s 0 = false ∧ drainReady s 0 = true ∧ s.cave.panic = false ∧ s.cave.waiting = [] ∧ s.cave.reqs = [] ∧
      (s.cave.writes.map fun w => w.data.length) = [288]) ∧
    (∀ p ∈ [false, true], drainReady (caved { panic := p } []) 0 = false ∧ p0Ready (caved { panic := p } []) 0 = false) ∧
    (refreshWaits (caved {} [(owedFld 2, 0, 1)]) 2 = true ∧ postponing (caved {} [(owedFld 2, 0, 1)]) = false ∧
      refreshWaits (caved {} []) 2 = false) ∧
    (p0Ready { on .dense with ws := { reads := [read0] } } 0 = true ∨ p0Ready { on .dense with ws := { reads := [read0] } } 1 = true) ∧
    (let s := caved { reqs := [req0] } []
     canServe s 0 req0 = true ∧ req0.write = true ∧ req0.addr % 32 = 0 ∧ req0.data.length % 32 = 0 ∧ inQueue s req0 = true ∧
      fget s F.portCfgAgeLimit ≠ 0 ∧ 2 ≤ req0.id ∧ req0.promoted = false ∧ s.cave.promoScrub = false ∧ s.cave.promoMig = false) ∧
    (let s := caved {} [(F.caveStatusMigrating, 0, 1)]
     NoWritesQueued s ∧ copyReady s 0 = true) ∧
    fget (caved {} [(F.portCfgAgeLimit, 0, 0)]) F.portCfgAgeLimit = 0 :=
  ⟨⟨by unfold Canonical; decide, by unfold Canonical; decide⟩, by decide, by decide, by decide, by decide, by decide, by decide, by decide,
    by decide, by decide, by decide, by decide, by unfold NoWritesQueued; decide, by decide⟩

theorem witness_ScrubbersWalkAndMigrationsEnd :
    Canonical (caved {} [(F.caveStatusMigrating, 0, 1)]) ∧
    (fget (caved {} [(F.scrubCfgScrubPeriod, 0, 0)]) F.scrubCfgScrubPeriod = 0 ∧ fget (caved {} []) F.scrubCfgScrubPeriod ≠ 0 ∧
      fget (caved {} []) F.caveStatusSelfRefresh = 0 ∧ fget (caved {} []) F.scrubPos + 1 < 2 ^ 27 ∧ NoWritesQueued (caved {} [])) ∧
    ((caved {} []).mi.sramPos < 3145728 ∧ tget false (caved {} []).sramPoison (caved {} []).mi.sramPos = false) ∧
    (let r := rindRead sramForm [] [] 0 { word := 0, flips := [(0, 1), (1, 1)], waXor := 0 }
     (r.1 = .ue ∨ r.1 = .ueAddr) ∧ r.2.length = 8) ∧
    (fget (caved {} []) F.caveStatusMigrating = 0 ∧ fget (caved {} [(F.caveStatusMigrating, 0, 1)]) F.caveStatusMigrating = 1 ∧
      fget (caved {} [(F.caveStatusMigrating, 0, 1)]) F.miStatusPaused = 0) :=
  ⟨by unfold Canonical; decide, by unfold NoWritesQueued; decide, by decide, by decide, by decide⟩

/-! DMA -/

/-- Channel 13 with a set of 32 bytes from one space to another, in a state. -/
def channel (st src dst : Nat) (x : Chan) : State :=
  { withF (on .dense) [(F.dmaStatusState, 13, st), (F.dmaLen, 13, 32), (F.dmaCtrlEsize, 13, 1), (F.dmaCtrlSrcSpace, 13, src),
      (F.dmaCtrlDstSpace, 13, dst), (F.dmaDst, 13, 0x60000000), (F.dmaStatusShadowValid, 13, 1)] with dma := tset {} [] 13 x }

theorem witness_DmaCommandsActOnTheirChannel :
    (Canonical (channel dmaRunning spSram spCave {}) ∧ Orderly (channel dmaRunning spSram spCave {})) ∧
    (dmaState (channel dmaRunning spSram spCave {}) 13 = dmaRunning ∧ dmaState (channel dmaRunning spSram spCave {}) 0 ≠ dmaRunning ∧
      hostOwns (on .dense) 13 = true ∧ hostOwns (on .dense) 8 = false) ∧
    (dormantComing (on .dense) = false ∧ dormantComing (on .dormant) = true) ∧
    (∀ s ∈ [channel dmaIdle spSram spCave {}, fset (channel dmaIdle spSram spCave {}) F.dmaStatusShadowValid 13 0],
      dmaState s 13 ≠ dmaRunning ∧ dormantComing s = false ∧ s.ws.transfer.isSome = false) ∧
    ((activeSet (channel dmaRunning spSram spCave {}) 13).src.space = spSram ∧
      (activeSet (channel dmaRunning spSram spCave {}) 13).dst.space = spCave ∧
      (activeSet (channel dmaRunning spSram spCave {}) 13).src.fix = false) :=
  ⟨⟨by unfold Canonical; decide, by unfold Orderly; decide⟩, by decide, by decide, by decide, by decide⟩

theorem witness_DmaElementsMoveTheirSet :
    (∀ d ∈ [spCave, spSram, spBulk, spMram], let s := channel dmaRunning spSram d {}
      dmaState s 13 = dmaRunning ∧ (chanOf s 13).last = false ∧ (activeSet s 13).dst.space = d ∧
      (match (elemRead s 13 (activeSet s 13).src 32 0 []).1 with
       | .data x => decide (x.length = 32) && x.all fun y => !y.2
       | _ => false) = true) ∧
    (let s := { channel dmaRunning spSram spMram {} with sramPoison := [(0, true)] }
     (match (elemRead s 13 (activeSet s 13).src 32 0 []).1 with
      | .data x => x.any fun y => y.2
      | _ => false) = true) ∧
    0 ≤ fget (on .dense) F.dmaCfg ∧ fget (on .dense) F.dmaCfg < 256 ∧
    (Canonical (channel dmaRunning spSram spCave {}) ∧ Orderly (channel dmaRunning spSram spCave { last := true }) ∧
      NoWritesQueued (channel dmaRunning spSram spCave {})) ∧
    (let s := channel dmaRunning spBulk spCave {}
     (activeSet s 13).src.space = spBulk ∧ s.ccp.bulkIn.length < (activeSet s 13).esize) ∧
    (let s := channel dmaRunning spSram spCave { last := true }
     (chanOf s 13).last = true ∧ (chanOf s 13).stopping = false ∧ fget s F.dmaStatusShadowValid 13 = 1) ∧
    (chanOf (channel dmaRunning spSram spCave { last := true, stopping := true }) 13).stopping = true ∧
    (0 + 32 ≤ bulkSize ∧ bulkSize < (List.replicate 65536 ((0 : Byte), false)).length + 32) :=
  ⟨by decide, by decide, by decide, by decide, ⟨by unfold Canonical; decide, by unfold Orderly; decide, by unfold NoWritesQueued; decide⟩,
    by decide, by decide, by decide, ⟨by decide, by rw [List.length_replicate] <;> decide⟩⟩

/-- A transfer of one bucket that is left, at the first bucket. -/
def moving (imp : Bool) (left : Nat) : Transfer :=
  { hdr := h0, isImport := imp, bucket := 0, left := left, uptime := 0, first := 0, count := left, bad := 0 }

theorem witness_WeightStoreTransfersMoveBuckets :
    (let s := { on .standby with ws := { transfer := some (moving false 1) } }
     s.ws.transfer = some (moving false 1) ∧ (moving false 1).isImport = false ∧ s.ccp.bulkOut.length + 2304 ≤ bulkSize ∧
      NoWritesQueued s ∧ s.cavePoison = [] ∧ (moving false 1).left ≤ 1 ∧ 1 < (moving false 524288).left ∧
        s.tm.now < s.ws.transferNow + 60 * tickRate) ∧
    ((moving true 1).isImport = true ∧ (on .standby).ccp.bulkIn.length < 2304 ∧ 2304 ≤ (List.replicate 2304 ((0 : Byte), false)).length ∧
      bulkSize < (List.replicate 63233 ((0 : Byte), false)).length + 2304) ∧
    (let s := { on .standby with ws := { transfer := some (moving true 1) }, tm := { now := 60 * tickRate } }
     s.ws.transferNow + 60 * tickRate ≤ s.tm.now) :=
  ⟨by unfold NoWritesQueued; decide, ⟨by decide, by decide, by rw [List.length_replicate] <;> decide,
    by rw [List.length_replicate] <;> decide⟩, by decide⟩

/-! Capture and calibration -/

/-- Ring 13 with a trigger, a length and what it holds, in a state. -/
def ring13 (st trig len : Nat) (x : Ring) (l : List StagedBlock) : State :=
  { withF (on .dense) [(F.capStatusState, 13, st), (F.capCfgTrig, 13, trig), (F.capLen, 13, len), (F.capAreaNblk, 13, 2),
      (F.capTrigLevel, 13, 60)] with cap := { rings := tset {} [] 13 x, staging := l } }

def block13 : StagedBlock :=
  { ring := 13, capSeq := 0, first := true, last := true, gap := false, sampleIdx := 0, tag := tagAt 0 0 0, sampleOff := 0, uptime := 0,
    samples := [5] }

theorem witness_CaptureBlocksAreStagedAndWritten :
    (Canonical (ring13 ringRunning 0 1 {} [block13]) ∧ Orderly (ring13 ringRunning 0 1 {} [block13])) ∧
    (let s := ring13 ringRunning 0 1 {} []
     ringState s 13 = ringRunning ∧ (ringOf s 13).levelWait = false ∧ (ringOf s 13).taken + 1 ≤ fget s F.capLen 13 ∧
      s.cap.staging.length < 8 ∧ fget s F.capLen 13 ≠ endless) ∧
    (let s := ring13 ringRunning 0 endless {} (List.replicate 8 block13)
     fget s F.capLen 13 = endless ∧ 8 ≤ s.cap.staging.length) ∧
    (let s := ring13 ringRunning 0 1 {} [block13]
     s.cap.staging = [] ++ block13 :: [] ∧ block13.ring = 13 ∧
      (fget s F.capWrCnt 13 + 2 ^ 32 - fget s F.capRdCnt 13) % 2 ^ 32 ≠ fget s F.capAreaNblk 13) ∧
    (let s := withF (ring13 ringRunning 0 1 {} [block13]) [(F.capWrCnt, 13, 1), (F.capRdCnt, 13, 2 ^ 32 - 1), (F.capCfgStopFull, 13, 1)]
     (fget s F.capWrCnt 13 + 2 ^ 32 - fget s F.capRdCnt 13) % 2 ^ 32 = fget s F.capAreaNblk 13 ∧ fget s F.capCfgStopFull 13 = 1) ∧
    (∀ k ∈ [0, 1, 2, 3], let s := ring13 ringRunning k 1 { taken := 1 } []
     ringState s 13 = ringRunning ∧ (ringOf s 13).taken = fget s F.capLen 13 ∧ fget s F.capCfgTrig 13 = k) ∧
    ringState (ring13 ringIdle 0 1 {} []) 13 ≠ ringRunning :=
  ⟨⟨by unfold Canonical; decide, by unfold Orderly; decide⟩, by decide, by decide, by decide, by decide, by decide, by decide⟩

theorem witness_CaptureTriggersStartOrAreLost :
    (∀ k ∈ [0, 1, 2], Canonical (ring13 ringArmed k 1 {} []) ∧ Orderly (ring13 ringArmed k 1 {} [])) ∧
    (∀ k ∈ [0, 1, 2], let s := ring13 ringArmed k 1 {} []
     mayFire s 13 k = true ∧ ringState s 13 = ringArmed ∧ 60 ≤ fget s F.capTrigLevel 13 ∧ ringBlocked s 13 = false ∧
      fget s F.capTrig2Period 13 = 0 ∧ (followers s 13).filter (fun q => decide (ringArmed ≤ ringState s q)) = []) ∧
    (∀ k ∈ [1, 2], let s := ring13 ringRunning k 1 {} []
     mayFire s 13 k = true ∧ ringBlocked s 13 = true) ∧
    (let s := withF (ring13 ringArmed 1 1 {} []) [(F.capCfgLinkEn, 0, 1), (F.capCfgLeader, 0, 13), (F.capStatusState, 0, ringRunning),
        (F.capTrig2Period, 13, 5)]
     mayFire s 13 1 = true ∧ ringBlocked s 0 = true ∧ (followers s 13).filter (fun q => decide (ringArmed ≤ ringState s q)) = [0] ∧
      fget s F.capTrig2Period 13 ≠ 0) ∧
    (let s := ring13 ringArmed 2 1 { levelWait := true } []
     mayFire s 13 2 = false ∧ (ringOf s 13).levelWait = true ∧ fget s F.capTrigLevel 13 + 3 ≤ 63 ∧ fget s F.capTrigLevel 13 < 61 ∧
      62 < fget s F.capTrigLevel 13 + 3) := by
  refine ⟨?_, by decide, by decide, by decide, by decide⟩
  unfold Canonical Orderly
  decide

/-- A run on a cluster, before or after its capture. -/
def calRunning (c : Nat) (captured bypass : Bool) : State :=
  { on .dense with cal := { run := some { cluster := c, captured := captured, bypass := bypass } } }

def ident256 (v : Int) : List Cplx := List.replicate 256 { re := v, im := 0 }

theorem witness_RunsCaptureEstimateAndEnd :
    (Canonical (calRunning 447 true false) ∧ Orderly (calRunning 447 true false)) ∧ (on .dense).cal.run = none ∧
    (∀ c ∈ [0, 383, 384, 447], ((calRunning c false false).cal.run.map fun r => (r.cluster, r.captured, r.pmax, r.pmin, r.occ)) =
      some (c, false, 6, 36, 25)) ∧
    ((calRunning 447 true true).cal.run.map fun r => (r.captured, r.bypass, -(10 * (r.nmseMax : Int)))) = some (true, true, -250) ∧
    gainBad (newLut [] (ident256 0) 0) = true ∧ gainBad (newLut [] (ident256 16384) 0) = false ∧
    codesOut 0 [] = true ∧ codesOut 0 (List.replicate (kindCodes 0) 31) = false ∧
    codesStep 0 (List.replicate (kindCodes 0) 0) (List.replicate (kindCodes 0) 31) = true ∧
    codesStep 0 (List.replicate (kindCodes 0) 0) (List.replicate (kindCodes 0) 0) = false :=
  ⟨⟨by unfold Canonical; decide, by unfold Orderly; decide⟩, by decide, by decide, by decide, by decide +kernel, by decide +kernel,
    by decide,
    by decide, by decide, by decide⟩

theorem witness_StoresAlternateTheirCopies :
    (Canonical { on .dense with cal := { stores := [447] } } ∧ Orderly { on .dense with cal := { stores := [447] } }) ∧
    ((on .dense).cal.stores = [] ∧ coxRuns (on .dense) = true ∧ (on .dense).md.mode ≠ .dormant ∧ (on .dense).md.mode ≠ .recovery) ∧
    ({ (on .dense).cal with cmds := [{ hdr := h0, clusters := [64], ended := [] }] }.cmds = [{ hdr := h0, clusters := [64],
                                                                                               ended := [] }]) :=
  ⟨⟨by unfold Canonical; decide, by unfold Orderly; decide⟩, by decide, rfl⟩

/-! Further clauses of the statements -/

theorem witness_AbsentPathsAreRefused_at_receivers :
    Takes (ae32 .standby) h0 0x0060 (.capConfig h0 13 0x100 0 0 0 0) ∧
      Takes (ae32 .standby) h0 0x004B (.orxSwitch h0 3 (some 0xDF) (some 3) (some 10000)) ∧
    (getBits (0x100 : Word) 0 3 = 1 / 16 ∧ getBits (0x100 : Word) 8 6 % 16 = 1 % 16) ∧
    (absentTx (ae32 .standby) 63 = true ∧ (0xDF : Nat) < 256 ∧ 0xDF / 32 % 2 = 0 ∧ 0xDF % 16 = 63 % 16 ∧ 63 / 16 = 3) :=
  ⟨takes_one rfl rfl rfl, takes_one rfl rfl rfl, by decide, by decide⟩

def carrier0 : CarrierReq := { carrier with phaseComp := none }

theorem witness_SettingsTakeEffectAtTheReply_kernel :
    Takes stocked h0 0x0012 (.carrierSet h0 carrier0) ∧ image0.words ≠ [] ∧
    risingFrom 0 stocked.mram.copies = true ∧
    (∀ n, (tget {} stocked.mram.copies n).seq + 2 < 2 ^ 64) :=
  ⟨takes_one rfl rfl rfl, by decide, rfl, fun _ => by simp [stocked, State.reset, tget]⟩

theorem witness_DataPlaneSettingsWaitForAStroke_carrier :
    (∀ q ∈ [({ phaseComp := some 1 } : CarrierReq), { ncoHz := some ⟨-30720000, none⟩, phaseComp := some 0 }],
      Takes serving h0 0x0012 (.carrierSet h0 q)) ∧
    isSplit serving = false ∧ windowsOk (windowsDue serving) { csOpen := some 1000 } = true ∧
    (let s := { serving with ccp := { serving.ccp with
         due := [{ grid := 0, change := .windows { csOpen := some 150 }, slot := 0, hdr := h0, opcode := 0x0033 }] } }
     windowsOk (windowsDue s) { csClose := some 900 } = false ∧ windowsOk (windowsDue s) { csClose := some 100 } = true) :=
  ⟨fun _ _ => takes_one rfl rfl rfl, by decide, by decide, by decide⟩

theorem witness_BulkDataAndRecordsAreRead_poison :
    (∀ k, bufFirstMarked logged bufDpd k = none) ∧ (∀ x ∈ [0, 1055], x % 1056 / 8 * 8 ≤ 1048) :=
  ⟨fun _ => by simp [bufFirstMarked, logged, on, State.reset], by decide⟩

theorem witness_CaptureCommandsMoveRingsAndReadBlocks_receivers :
    (∀ r ∈ [0, 1], sourceAbsent (ringed ringIdle) (fget (ringed ringIdle) F.capCfgSource r) (fget (ringed ringIdle) F.capCfgPath r) = false) ∧
    sourceAbsent (ringed ringIdle) (getBits (0x3F06 : Word) 0 3) (getBits (0x3F06 : Word) 8 6) = false ∧
    (NoWritesQueued (ringed ringIdle) ∧ NoWritesQueued (ringed ringRunning) ∧ risingFrom 0 (ringed ringArmed).cap.orxBusy = true) ∧
    (List.range 16).any (ringActive (ringed ringArmed)) = true ∧
    (∀ w, 0x60000000 / 32 ≤ w → w ≤ (0x60000000 + 4 - 1) / 32 → tget false (ringed ringIdle).cavePoison w = false) :=
  ⟨by decide, by decide, ⟨by unfold NoWritesQueued; decide, by unfold NoWritesQueued; decide, by decide⟩, by decide, fun _ _ _ => rfl⟩

theorem witness_RadioSettingsAndPortsTakeEffect_gaps :
    (∀ g ∈ unitsOf 15 4, (tget [] fitted.rf.gaps g).length < 4) ∧ ((none : Option Nat).getD 0 ≤ 1024) ∧ portConfigFits fitted 6 = true ∧
    ((255 : Nat) / 32 % 2 ≠ 0 ∧ 0 / 32 % 2 = 0 ∧ absentTx fitted (16 * 0 + 0 % 16) = false) ∧ fitted.ccp.longOps.length < 32 :=
  ⟨by decide, by decide, by decide, by decide, by decide⟩

theorem witness_PowerEvents_rails :
    (∀ k ∈ [0, 13], railOn (on .dense) k = true) ∧ (railsOn (on .dormant) = true ∧
      railOn { on .dormant with pw := { power := .dormant } } 3 = false) ∧
    railsOn State.reset = false := by decide

theorem witness_ColdStart_ranks :
    (let s := coldAt false false false false
     retiredRank s = 3 ∧ 0 ∉ [1] ∧ 2 ∉ [1] ∧ 1 ∈ [1] ∧ s.mram.startup ≠ none ∧ s.ccp.ready = false ∧ s.ccp.watchdog = false) ∧
    ((coldAt true true true false).ccp.ready = true ∧ (coldAt true true false false).ccp.ready = false ∧
      (coldAt true true false false).mram.startup = some (defaultStartup 2)) := by decide

theorem witness_DormantEntryAndWake_during_the_entry :
    (let s := { on .standby with pw := { power := .on, entering := some h0 }, tm := { counter := 7 * 65536 * 1000000000 } }
     let s := fset s F.wakeSec 0 7
     s.pw.power ≠ .dormant ∧ enteringDormant s = some h0 ∧ s.pw.wakeHeld = none ∧ fget s F.wakeSec ≠ 0 ∧
      s.tm.counter / 65536 / 1000000000 % 2 ^ 32 = fget s F.wakeSec ∧ (after .wakeSecMatch s).pw.wakeHeld = some .counter) := by decide

theorem witness_PtpStampsPpsTimeoutAndUptime_pulse :
    (let s := fset { slaved srcPtp tsLocked with tm := { (slaved srcPtp tsLocked).tm with counter := 1000000000 * 65536 + 5 * 65536 } } F.ppsCfgOutEn 0 1
     ppsPulses s = true ∧ ppsInstant s = true) ∧
    (let s := fset { slaved srcPtp tsLocked with tm := { (slaved srcPtp tsLocked).tm with counter := 1000000000 * 65536 + 5 * 65536 + 1 } } F.ppsCfgOutEn 0 1
     ppsInstant s = false) := by decide

theorem witness_SynthesizersPllsAndPaTransactions_more :
    (∀ n ∈ [0, 1], ∀ q ∈ tget [] (gapped n n).rf.gaps 3, ∀ r ∈ tget [] (gapped n n).rf.gaps 3, r.id = q.id → r = q) ∧
    (coxRuns (gapped 1 1) = true ∧ activeMode (gapped 1 1).md.mode = true ∧ (gapped 1 1).md.mode ≠ .service) ∧
    (let x : PaXfer := { cs := 0, bytes := [1] }
     let s := { on .dense with rf := { paNow := some x, paRest := [x] } }
     s.rf.paNow = some x ∧ s.rf.paRest = x :: [] ∧ { s.rf with paRest := [] }.timed = []) ∧
    { (on .dense).pw with pllFrom := some 0 }.pllFrom = some 0 := by decide

/-- `hub` with packets that wait. -/
def hubWith (w : List PktWait) : State := { hub with fh := { hub.fh with waits := w } }

def psFrame : RxFrame := frame 1 4 1 0 1 (tagAt 0 0 7) true (udata 1)

/-- Partial sums that wait take no place from received frames. -/
theorem psFrame_fits (x : PktWait) (l : List Nat) (h : x.typ = 4) : frameFault (hubWith (x :: l.map spilled)) psFrame = none := by
  have g := spilled_apart (fun t => decide (t ≠ 4)) l 0
  have w : waiting (hubWith (x :: l.map spilled)) 1 = 0 := by
    unfold waiting
    rw [if_neg (by decide), Nat.add_zero]
    refine Eq.trans ?_ g
    simp [hubWith, h]
  have c : check2 (hubWith (x :: l.map spilled)) psFrame = none := rfl
  have n : psFrame.eff.length = 72 := by decide
  simp [frameFault, c, w, n]
  rfl

theorem hubWith_got (w : List PktWait) (h : frameFault (hubWith w) psFrame = none) :
    (receive (hubWith w) psFrame).2 = true ∧ (got (hubWith w) psFrame).fh.accs = [] ∧ (got (hubWith w) psFrame).fh.waits = w := by
  have a : frameArrives (hubWith w) psFrame = true := rfl
  unfold got receive
  simp only [a, h]
  exact ⟨rfl, rfl, rfl⟩

theorem witness_PartialSumsFindNoPlace :
    (receive (hubWith (filling 4)) psFrame).2 = true ∧ (got (hubWith (filling 4)) psFrame).fh.accs = [] ∧
    waitFor (got (hubWith (filling 4)) psFrame) psFrame = none := by
  obtain ⟨a, b, g⟩ := hubWith_got (filling 4) (psFrame_fits _ _ rfl)
  refine ⟨a, b, ?_⟩
  have h : (effHdr psFrame.eff).typ = 4 := by decide
  have l : psFrame.eff.length = 72 := by decide
  have w := filling_waits g (.inr rfl)
  have : ¬(waiting (got (hubWith (filling 4)) psFrame) 4 + 72 ≤ 1048576) := by omega
  simp [waitFor, h, l, this, filling_place g]

/-- A member of a chain whose egress queue holds a frame of a size. -/
def sending (n : Nat) : State :=
  { hub with
      md := { mode := .chain, full := { cfg := { role := 1 } } },
      fh := { hub.fh with egress := [{ port := 1, lane := 2, bytes := List.replicate n 0, forwarded := true, dst := 0, src := 0,
                                       etherType := 0x88B5, vlan := none, udp := none }] } }

theorem witness_CcpPacketsRecordsSilenceAndLinks_more :
    (let f := recFrame 0 0x4008
     egressFits (got (sending 1) f) (frameOf (got (sending 1) f) 1 f.eff false) = true ∧ isMember (got (sending 1) f) = true ∧
      portUp (got (sending 1) f) 1 = true) ∧
    (let s := { on .standby with fh := { linkUp := [false, true, true, true], portConfig := 1, retrain := some h0 } }
     0 ∈ lanesAwaited s ∧ (∀ l ∈ lanesAwaited s, l ≠ 0 → laneUp s l = true) ∧ s.pw.power = .on) ∧
    (activeMode (linked .dense).md.mode = true ∧ (linked .dense).md.mode ≠ .service ∧ hub.fh.streams = [] ∧
      fhCounter (linked .dense) 0 cTxDrop < 2 ^ 32) ∧
    (on .recovery).md.mode = .recovery := by decide

theorem sending_full (n : Nat) (h : 1048576 < n) (e : Egress) (f : e.forwarded = true) : egressFits (sending n) e = false := by
  simp [egressFits, f, waiting, sending, hub, Egress.size]
  omega

theorem witness_SymbolsStartAndAreCut_crews :
    (let s := symbolled none []
     let v := viewFor (holdChanges s 0 (tagAt 0 0 7)) 0 (tagAt 0 0 7)
     crewOfPrb v 0 0 = some 31 ∧ unitWorks v (uCrew 31) = true ∧ 0 < carrierPrbs s 0) ∧
    (let s := { symbolled none [] with fh := { covered.fh with sections := [{ ulSection with symStart := 7 }] } }
     covering s .ul 0 (tagAt 0 0 7) ≠ [] ∧ symbolOk s .ul 0 (tagAt 0 0 7) = true) ∧
    (∀ n ∈ [0, 1, 2, 3], n < (symbolled none []).fab.slackMin.length) := by decide

theorem witness_SymbolBoundaries_canonical : Canonical covered ∧ (0 = 0 ∨ (0 = 1 ∧ isSplit covered = true)) ∧
  groupsOf covered 0 = [0, 1, 2, 3] :=
  ⟨by unfold Canonical; decide, by decide, by decide⟩

/-- An estimation item whose pilots have come. -/
def estimating (l : List Item) : State := { symbolled none l with fab := { (symbolled none l).fab with est := [
  { id := 9, user := 5, half := 0, slot := tagAt 0 0 0, sectionId := 7,
    pilot := { sym := 0, nsym := 1, comb := 0, combOff := 0, cshift := 0, seq := 1 }, prbStart := 0, prbCnt := 1, rx := [],
    symsLeft := 0, lookup := some (.miss, 0), heard := 0 }] } }

theorem witness_CrewsDispatchTheirBestItem_by_class :
    (∀ k ∈ [4, 6], let s := symbolled none [item0 k false]
      (bestOf itemBefore (s.fab.items.filter fun i => decide (i.crew = 31 ∧ (i.kind ≤ 4 ∨ i.kind = 6)) && itemReady s i)).map Item.kind =
        if k = 4 then some 4 else none) ∧
    (let s := { symbolled none [item0 6 false] with fh := { covered.fh with sections := [] } }
     (bestOf itemBefore (s.fab.items.filter fun i => decide (i.crew = 31 ∧ (i.kind ≤ 4 ∨ i.kind = 6)) && itemReady s i)).isSome = true) ∧
    (planeStopped (estimating []) = false ∧ (nextEstimate (estimating [])).isSome = true ∧ crewReserved (estimating []) = true ∧
      chunkWaits (estimating []) 31 = false ∧ unitWorks (estimating []) (uCrew 0) = true) ∧
    (let s := { linked .dense with cal := { run := some { cluster := 0, captured := true } } }
     chunkWaits s 31 = true ∧ crewReserved s = true ∧ nextEstimate s = none) := by decide

theorem witness_ItemsEndAndReductionsDeliver_kinds :
    (∀ k ∈ [1, 2, 3, 6], itemLeaked (symbolled none [item0 k true]) (item0 k true) = false) ∧
    (SeatTakes (seated {}) (seat 2047) (.seatEnd (seat 2047)) 1 ∧ customerCrew (kernelled {}) 31 = true ∧
      customerCrew (seated {}) 31 = false) ∧
    (let b := seatOf (seated { kind := 3, nb := 1, hcnt := 5, outs := 12 }) 2047
     decide (b.hcnt = 0 ∧ ¬(b.kind = 2 ∧ customerCrew (seated {}) 31 = true)) = false ∧ b.outs < 13) ∧
    (let b := seatOf (kernelled { hcnt := 0 }) 2047
     decide (b.hcnt = 0 ∧ ¬(b.kind = 2 ∧ customerCrew (kernelled {}) 31 = true)) = false) ∧
    (let s := { kernelled {} with fab := { (kernelled {}).fab with seats := tset {} [] 2047 { running := true, kind := 3,
                                                                                              rin := List.replicate 11 {} } } }
     seatRuns s 2047 = true ∧ customerCrew s 31 = true ∧ (seatOf s 2047).rin.length < 12 ∧ (seatOf s 2047).hcnt = 0) ∧
    (let s := { on .dense with fab := { seats := (List.range 64).map fun k => (k, { red := some push0, pushes := 1, nb := 1 }) } }
     ((List.range 64).filterMap fun j => (seatOf s (64 * 0 + j)).red).head? = some push0 ∧ 0 < push0.nb ∧ push0.index % push0.nb < 64) := by
  refine ⟨by decide, ?_, by decide, by decide, by decide, by decide⟩
  unfold SeatTakes; decide

theorem witness_WeightStoreLooksUpEstimatesAndAges_served :
    (let s := { stored5 with ws := { reads := [read0] } }
     servedRead s = some read0 ∧ pfLevel s < 1024 ∧ NoWritesQueued s) ∧
    servedRead stored5 = none ∧
    (let s := { stored5 with ws := { reads := [read0] }, cavePoison := (List.range 8).map fun w => (72 * bucketOf 5 + 9 * w, true) }
     servedRead s = some read0 ∧ (∀ w, w < 8 → tget false s.cavePoison (72 * bucketOf read0.user + 9 * w) = true)) :=
  ⟨by unfold NoWritesQueued; decide, by decide, by decide⟩

theorem prefetch_full (s : State) (n : Nat) (p : Prefetch) (h : s.ws.prefetch = List.replicate n p) (k : 1024 ≤ n) : 1024 ≤ pfLevel s := by
  simp [pfLevel, h]
  omega

theorem witness_ScrubbersWalk_held :
    (let s := { caved { writes := [{ bucket := 0, way := 0, data := List.replicate 288 1, id := 1 }], nextReq := 2 } [] with
         ws := { reads := [{ read0 with user := 0 }] } }
     drainHeld s (32 * fget s F.scrubPos) 32 = true ∧ drainHeld s (2304 * 0) 2304 = true) ∧
    (fget (caved {} [(F.caveStatusPhysL0, 0, 1), (F.miStatusMigSrc, 0, 1)]) F.caveStatusPhysL0 =
      fget (caved {} [(F.caveStatusPhysL0, 0, 1), (F.miStatusMigSrc, 0, 1)]) F.miStatusMigSrc) := by decide

theorem witness_CaptureBlocks_places :
    (let s := ring13 ringRunning 0 1 {} [block13]
     (portReqs s 1 true).length + ceilDiv (64 + 4 * block13.samples.length) 4096 ≤ 64) ∧
    ((ringOf (ring13 ringRunning 0 1 {} []) 13).start = none ∧
      (ringOf (ring13 ringRunning 0 1 { start := some 5 } []) 13).start = some 5) := by decide

theorem witness_RunsCaptureEstimateAndEnd_requested :
    (let s := { on .dense with cal := { run := some { cluster := 384, requested := true, windowOff := true, lut := ident256 16384 } } }
     (s.cal.run.map fun r => (r.captured, r.requested, r.windowOff)) = some (false, true, true) ∧ coxRuns s = true) ∧
    coxRuns { on .dense with ccp := { ready := true, restarting := true } } = false := by decide

theorem witness_StoresAlternateTheirCopies_whole : ∀ c, c < 448 →
  bufMarked { on .dense with cal := { stores := [c] } } bufDpd [c % 64, 0] = false := by
  intro c _
  simp [bufMarked, on, State.reset]

/-- `s` with as many long operations in progress as there may be. -/
def crowded (s : State) : State := { s with ccp := { s.ccp with longOps := List.replicate 32 op40 } }

theorem witness_CommandsAreDroppedRepeatedOrRefused_long :
    (∀ p ∈ [(0x0010, Instr.modeSet h0 dormantReq), (0x0030, .fhPortConfig h0 6 none none), (0x0072, .wsExport h0 0 524288),
      (0x0073, .wsImport h0 524287 1 0), (0x00A2, .memSpare h0 0 (some 0)), (0x00A2, .memSpare h0 1 none), (0x00E2, .fwCommit h0),
      (0x00E3, .fwActivate h0)], Takes (crowded stocked) h0 p.1 p.2) ∧
    (∀ p ∈ [(0x0040, Instr.loTune h0 15 6000000), (0x0042, .synthCal h0 15), (0x0044, .tddPattern h0 1 30 20 (List.replicate 20 0))],
      Takes (crowded serving) h0 p.1 p.2) ∧
    (LongAdmitted (crowded stocked) (.modeSet h0 dormantReq) ∧ LongAdmitted (crowded stocked) (.fhPortConfig h0 6 none none) ∧
      LongAdmitted (crowded stocked) (.wsExport h0 0 524288) ∧ LongAdmitted (crowded stocked) (.wsImport h0 524287 1 0) ∧
      LongAdmitted (crowded stocked) (.memSpare h0 0 (some 0)) ∧ LongAdmitted (crowded stocked) (.memSpare h0 1 none) ∧
      LongAdmitted (crowded stocked) (.fwCommit h0) ∧ LongAdmitted (crowded stocked) (.fwActivate h0)) ∧
    (LongAdmitted (crowded serving) (.loTune h0 15 6000000) ∧ LongAdmitted (crowded serving) (.synthCal h0 15) ∧
      LongAdmitted (crowded serving) (.tddPattern h0 1 30 20 (List.replicate 20 0))) ∧
    (LongAdmitted (crowded (timed srcFree tsFree .dense)) (.calRun h0 [64]) ∧
      LongAdmitted (crowded (timed srcPps tsAcquiring .standby)) (.timeSet h0 (2 ^ 48 - 1) 0) ∧
      LongAdmitted (crowded (timed srcPtp tsStepPending .listen)) (.acceptStep h0)) := by
  refine ⟨takes_all rfl ⟨rfl, rfl⟩ (by decide), takes_all rfl ⟨rfl, rfl⟩ (by decide), ⟨⟨rfl, by decide, _, rfl⟩, ?_, ?_, ?_, ?_, ?_, ?_, ?_⟩,
    ⟨?_, ?_, ?_⟩, ?_, ?_, ?_⟩
  case refine_4 => exact .inr ⟨rfl, 0, by decide, by decide, by decide, by decide, by decide⟩
  all_goals unfold LongAdmitted; decide

/-- A change that waits for the next stroke of a half. -/
def dueAt (m : Mode) (half : Nat) (c : Change) : State :=
  { linked m with ccp := { ready := true, due := [{ grid := half, change := c, slot := 0, hdr := h0, opcode := 0x0020 }] } }

/-- What can wait for a stroke: one change of each kind, at the ends of its range. -/
def changes : List Change :=
  [.unitState .txPath (2 ^ 64 - 1) 0 true 1, .unitState .crew 1 1 false 0, .sectorBeam .ul 1 63 (List.replicate 64 { re := 0, im := 0 }),
    .windows { csOpen := some 1000 }, .windows { csClose := some 0 }, .phaseComp 1, .loOff 15, .loTune 8 6000000, .synthCal 1,
    .rxAtt (2 ^ 63) 30, .powerTable 3 [0x008000] none, .powerStep 1 (some 0) (some 15), .loopback 15 3, .dpdBypass (2 ^ 63) true,
    .dpdSlot 63 7 {}, .wsConfig { regZf := some 1023 }]

theorem witness_DataPlaneSettingsWaitForAStroke_strokes :
    (∀ e ∈ [(Mode.standby, 0), (.dense, 0), (.service, 0), (.split, 0), (.split, 1)], ∀ c ∈ changes,
      let s := dueAt e.1 e.2 c
      Canonical s ∧ StrokeRuns s e.2 ∧ s.cal.run = none ∧ (if isSplit s then e.2 else 0) = e.2 ∧ dueLimit s e.2 = none ∧
        risingFrom 0 s.fab.units = true ∧ risingFrom 0 s.fab.mutes = true ∧ risingFrom 0 s.cal.bank = true ∧ s.cal.banked = [] ∧
        s.cal.cleared = []) ∧
    windowsOk (linked .dense) { csOpen := some 1000 } = true ∧ windowsOk (linked .dense) { csClose := some 0 } = false ∧
    namesAbsent (linked .dense) (2 ^ 64 - 1) = false ∧
    (let s := { dueAt .dense 0 (.unitState .txPath 1 0 true 1) with fab := { units := [(uTx 0, 2)] } }
     unitState s (uTx 0) = 2 ∧ testFails s .txPath 0 1 = true ∧ testFails s .txPath 0 0 = false ∧ unitFaulted s (uTx 0) = true) ∧
    (63 ∈ halfPaths (linked .split) 1 ∧ 31 ∈ halfPaths (linked .split) 0 ∧ absentTx (linked .split) 63 = false) := by
  unfold Canonical StrokeRuns; decide

/-- Updates of the store that apply at the next stroke and at the one after. -/
def storing : State :=
  { linked .dense with
      caveMem := stored5.caveMem,
      fh := { (linked .dense).fh with updates := [upd true, { upd false with wait := 1 }] },
      ws := { invals := [(0, 0, 1), (524287, 7, 0)], marks := [(bucketOf 5, 0, 0), (0, 0, 1)],
              writeBacks := [{ half := 0, slot := tagAt 0 0 0, sectionId := 7, user := 5, lookup := .hit 0, updCnt := 0, coef := [],
                               quality := 0, heard := 0, wait := 0 }] } }

theorem witness_WeightUpdatesAreHeldForAStroke_applied :
    Canonical storing ∧ StrokeRuns storing 0 ∧ storing.cal.run = none ∧ storing.ccp.due = [] := by
  unfold Canonical StrokeRuns; decide

/-- `linked` with a packet that waits for Cox on each path, in band no later than on MSPI. -/
def packeted (b : List Byte) (k : Nat) : State :=
  { linked .dense with ccp := { ready := true, inBand := [(k, b)], mspi := [(1, [0, 1, 0, 9, 0, 0])], outBand := [.keepalive 1] } }

/-- The state that a step answers. -/
def stepped (s : State) : State :=
  match step s with
  | .next t => t
  | _ => State.reset

theorem witness_CcpPacketsRecordsSilenceAndLinks_ticks :
    (let b : List Byte := [0, 1, 0, 7, 0, 0]
     ∀ k ∈ [0, 1, 2], (packeted b k).pending = [] ∧ coxRuns (packeted b k) = true ∧ outReady (packeted b k) = true ∧
      judgePacket (packeted b k) [] { path := .inBand, tag := 7 } b = .inr (.ident { path := .inBand, tag := 7 }) ∧
      ((stepped (packeted b k)).ccp.inBand = [] ↔ k ≤ 1) ∧ ((stepped (packeted b k)).ccp.mspi = [] ↔ k = 2)) ∧
    judgePacket (packeted [0, 0, 0, 7, 0, 0] 0) [] { path := .inBand, tag := 7 } [0, 0, 0, 7, 0, 0] = .inl (stBadOpcode, 0) ∧
    (coxRuns { packeted [] 0 with ccp := { (packeted [] 0).ccp with restarting := true } } = false ∧
      outReady (on .dense) = false ∧ linkIsUp (sending 1) 2 = true ∧ State.reset.pw.power = .off ∧
      (sending 1).fh.egress.filter (fun x => decide (x.lane = 2)) ≠ []) := by decide

theorem witness_ModesTakeForceAtStrokes_without_cox :
    (let s := { changing true true (some h0) none with ccp := { ready := true, restarting := true } }
     strokesRun s = true ∧ coxRuns s = false ∧ s.md.stepStop = none ∧ s.tm.step = none) ∧
    (let s := { linked .dense with ccp := { ready := true, restarting := true },
                                   tm := { (linked .dense).tm with step := some (-5, some tsFree, none) } }
     strokesRun s = true ∧ coxRuns s = false ∧ s.tm.step = some (-5, some tsFree, none)) ∧
    (let s := { changing false true (some h0) none with mram := { State.reset.mram with copies := (putKernel State.reset image0).1.mram.copies } }
     storedKernel s = some { words := image0.words } ∧ KernelImage.length image0 ≤ kernelLimit (loadMode s)) := by decide +kernel

theorem witness_HousekeepingRoundsJudgeTheReadings_settings :
    (∀ m ∈ [Mode.recovery, .shutdown, .dense], let s := { on m with th := { next := some { pinLimit := some 5 } } }
     s.th.next.isSome = true ∧ s.pw.power = .on ∧ s.tm.uptime % 80 = 0) ∧
    (let s := { on .shutdown with pw := { power := .shutdown } }
     s.md.mode = .shutdown ∧ s.pw.power = .shutdown) := by decide

/-- `symbolled` with an uplink section, a pilot that begins with the symbol, and loopback FREQ in group 3. -/
def hearing : State :=
  { linked .dense with
      fh := { (linked .dense).fh with sections := [{ ulSection with symStart := 7 }], nextOrder := 1 },
      rf := { loopback := [(3, 1)] },
      fab := { crews := [[31], []], est := [{ est0 1 with pilot := { (est0 1).pilot with sym := 7 }, lookup := none }] } }

theorem witness_SymbolsStartAndAreCut_uplink :
    Canonical hearing ∧ Orderly hearing ∧ symbolOk hearing .ul 0 (tagAt 0 0 7) = true ∧
    (let v := viewFor (holdChanges hearing 0 (tagAt 0 0 7)) 0 (tagAt 0 0 7)
     rxWorks v 0 = true ∧ rxWorks v 63 = true ∧ prevTag hearing 0 (tagAt 0 0 7) ≠ tagAt 0 0 7) ∧
    (∀ i ∈ hearing.fab.est, pilotHere 0 (tagAt 0 0 7) i = true ∧ i.symsLeft = i.pilot.nsym) ∧
    (63 ∈ halfPaths hearing 0 ∧ tget 0 hearing.rf.loopback (63 / 16) = 1) ∧ (∀ g, tget 0 (linked .dense).rf.loopback g = 0) :=
  ⟨by unfold Canonical; decide, by unfold Orderly; decide, by decide, by decide, by decide, by decide, fun _ => rfl⟩

theorem witness_WeightStoreLooksUpEstimatesAndAges_turn :
    lookupTurn { stored5 with ws := { reads := [read0] } } = true ∧
    lookupTurn { stored5 with ws := { reads := [read0] }, cave := { trrs := [trr true, { trr true with rank := 0 }, { trr true with rank := 1 }] } } = false := by
  decide

/-- A Cave whose scrubber meets an error of some flips in word 0. -/
def flipped (n : Nat) : WordFault := { word := 0, flips := (List.range n).map fun k => (k, 1), waXor := 0 }

/-- A write-back of an uncorrectable word that waits. -/
def ueBack0 (wa : Nat) : UeBack := { wa := wa, rank := 1, bytes := List.replicate 32 1, id := 2 }

/-- A Cave whose only work is what its scrubber has queued. -/
def scrubbed (x : MiSt) : State := { caved {} [(F.scrubCfgScrubPeriod, 0, 0)] with mi := x }

theorem witness_ScrubbersWalkAndMigrationsEnd_words :
    (let s := caved {} []
     scrubTurn s = true ∧ fget s F.scrubPos = 0 ∧ rankOfWord s 0 ≤ 2 ∧ NoWritesQueued s ∧
      (rindRead caveForm s.caveMem s.cavePoison 0 (flipped 1)).1 = .corrected ∧
      (rindRead caveForm s.caveMem s.cavePoison 0 (flipped 2)).1 = .ue ∧
      (rindRead caveForm s.caveMem s.cavePoison 0 { flipped 0 with waXor := 0x4000 }).1 = .ueAddr ∧
      (rindRead sramForm s.sramMem s.sramPoison 0 (flipped 1)).1 = .corrected) ∧
    (scrubTurn (caved { panic := true } []) = false ∧ scrubTurn (caved {} [(F.caveStatusSelfRefresh, 0, 1)]) = false) ∧
    nextItem (scrubbed { rewrites := [(2 ^ 27 - 1, 1)] }) 1 = some (.rewrite (2 ^ 27 - 1, 1)) ∧
    (∀ wa ∈ [0, 0x48000000 / 32 - 1, 0x48000000 / 32, 0x60000000 / 32, 0x60000000 / 32 + 2, 2 ^ 27 - 1],
      nextItem (scrubbed { ueBacks := [ueBack0 wa] }) 1 = some (.ueBack (ueBack0 wa)) ∧ (ueBack0 wa).bytes.length = 32) ∧
    (let s := { scrubbed { ueBacks := [ueBack0 0] } with cave := { writes := [{ bucket := 0, way := 0, data := [], id := 3 }], nextReq := 4 } }
     nextItem s 1 = some (.ueBack (ueBack0 0)) ∧ writeQueued s 0 = true) ∧
    (let s := caved { migEnd := true, migBytes := [(0, List.replicate 32 1)] } [(F.caveStatusMigrating, 0, 1)]
     fget s F.caveStatusMigrating = 1 ∧ fget s F.miStatusPaused = 0 ∧ s.cave.migEnd = true) := by
  unfold NoWritesQueued; decide +kernel

theorem witness_DmaElementsMoveTheirSet_cave :
    (let s := channel dmaRunning spCave spSram { req := none, got := List.replicate 64 (1, false) }
     (activeSet s 13).src.space = spCave ∧ (activeSet s 13).esize ≤ (chanOf s 13).got.length ∧ roomFor s (chanPort 13) 32 = true) ∧
    (chanOf (channel dmaRunning spCave spSram {}) 13).got.length < (activeSet (channel dmaRunning spCave spSram {}) 13).esize ∧
    (let s := { channel dmaRunning spSram spCave {} with cave := { reqs := List.replicate 64 { req0 with port := chanPort 13 } } }
     roomFor s (chanPort 13) 32 = false) ∧
    (∀ k, k < 32 → overlapOpen (activeSet (channel dmaRunning spSram spMram {}) 13) (0x60000000 + k) = false) ∧
    (let s := withF (channel dmaRunning spMram spMram {}) [(F.dmaSrc, 13, 0x60000000 - 16), (F.dmaDst, 13, 0x60000000)]
     overlapOpen (activeSet s 13) 0x60000000 = true ∧ overlapOpen (activeSet s 13) (0x60000000 + 16) = false) ∧
    (let s := channel dmaRunning spSram spReg {}
     (activeSet s 13).dst.space = spReg ∧ regAt ((activeSet s 13).dst.at 32 0) = none) := by decide

/-- Channel 14 that carries a transfer, with what the Cave has delivered. -/
def carrying (x : Transfer) (got : List (Byte × Bool)) : State :=
  { withF (on .standby) [(F.dmaStatusState, 14, dmaRunning)] with ws := { transfer := some x }, dma := tset {} [] 14 { got := got } }

theorem witness_WeightStoreTransfersMoveBuckets_channel :
    (∀ imp ∈ [false, true], ∀ n ∈ [1, 524288], Canonical (carrying (moving imp n) []) ∧ Orderly (carrying (moving imp n) []) ∧
      NoWritesQueued (carrying (moving imp n) []) ∧ dmaState (carrying (moving imp n) []) 14 = dmaRunning ∧
      roomFor (carrying (moving imp n) []) 3 2304 = true ∧ (moving imp n).left ≤ 524288) ∧
    dmaState { on .standby with ws := { transfer := some (moving false 1) } } 14 ≠ dmaRunning ∧
    (∀ y ∈ List.replicate 2304 ((1 : Byte), false), y.2 = false) ∧ 2304 ≤ (List.replicate 2304 ((1 : Byte), false)).length ∧
    (let b := List.replicate 2303 ((1 : Byte), false) ++ [(0, true)]
     b.length = 2304 ∧ b[2303]? = some (0, true) ∧ ∀ j z, j < 2303 → b[j]? = some z → z.2 = false) ∧
    (let s := { carrying (moving true 1) [] with cave := { reqs := List.replicate 64 { req0 with port := 3 } } }
     roomFor s 3 2304 = false) := by
  refine ⟨?_, by decide, ?_, by rw [List.length_replicate] <;> decide, ⟨?_, ?_, ?_⟩, by decide⟩
  · unfold Canonical Orderly NoWritesQueued; decide
  · intro y h; rw [(List.mem_replicate.1 h).2]
  · simp
  · rw [List.getElem?_append_right (by simp)]; simp
  · intro j z h g
    rw [List.getElem?_append_left (by simpa using h), List.getElem?_replicate_of_lt h] at g
    injection g with g
    rw [← g]

theorem witness_LongOperationsAreAcceptedAndStart_transfer :
    risingFrom 0 stocked.dma = true ∧ Canonical stocked ∧ (timed srcFree tsFree .dense).md.prep = none := by
  unfold Canonical; decide

theorem witness_CaptureBlocksAreStagedAndWritten_group :
    (let s := withF (ring13 ringRunning 0 1 {} [block13]) [(F.capCfgLinkEn, 0, 1), (F.capCfgLeader, 0, 13), (F.capStatusState, 0, ringRunning)]
     captureGroup s 13 = [0, 13] ∧ blockRoom s 13 = true ∧ (ringOf s 0).start = none) ∧
    (let s := { withF (on .standby) [(F.capCfgSource, 13, 4), (F.capStatusState, 13, ringRunning)] with cap := { rings := tset {} [] 13 {} } }
     planeStopped s = true ∧ fget s F.capCfgSource 13 = 4 ∧ extremeWords [0x7FFC8000, 0] = 2) ∧
    (let s := { ring13 ringRunning 0 1 {} [block13] with cave := { reqs := List.replicate 62 req0 } }
     blockRoom s 13 = false) ∧
    (let s := { ring13 ringRunning 0 1 {} [block13] with cave := { reqs := List.replicate 61 req0 } }
     blockRoom s 13 = true) := by decide

theorem witness_CaptureCommandsMoveRingsAndReadBlocks_lost :
    (let s := withF (ringed ringRunning) [(F.capCfgSource, 0, 4)]
     Takes s h0 0x0062 (.capTrigger h0 0) ∧ mayFire s 0 3 = true ∧ ringBlocked s 0 = true ∧ ringOrx s 0 = none) ∧
    (let s := { ringed ringArmed with cap := { orxBusy := [(0, [3])] } }
     Takes s h0 0x0062 (.capTrigger h0 0) ∧ mayFire s 0 3 = true ∧ ringOrx s 0 = some 0 ∧ orxInUse s 0 = true ∧ ringBlocked s 0 = true) :=
  ⟨⟨takes_one rfl rfl rfl, by decide⟩, takes_one rfl rfl rfl, by decide⟩

/-- An entry of the log of memory errors. -/
def memLog0 : MemLogEntry := { addr := 0, sram := false, rank := 0, cls := 0, reader := 1, uptime := 0, superseded := false }

theorem witness_StatusReportsClearTheirCounters_poison :
    (let s := { stocked with mi := { log := [memLog0] } }
     Canonical s ∧ s.mi.log ≠ [] ∧ Takes s h0 0x00A3 (.memLog h0 (some 1) (some 63)) ∧ Takes s h0 0x00A3 (.memLog h0 none (some 0))) :=
  ⟨by unfold Canonical; decide, by decide, takes_one rfl rfl rfl, takes_one rfl rfl rfl⟩

theorem witness_RunsCaptureEstimateAndEnd_sats :
    (let s := { on .dense with rf := { dfeSat := [(0, 3)] }, cal := { run := some { cluster := 384, requested := true, sats := some 2 } } }
     (s.cal.run.map fun r => satMoved s r) = some true) ∧
    (let s := { on .dense with rf := { dfeSat := [(0, 3)] }, cal := { run := some { cluster := 384, requested := true, sats := some 3 } } }
     (s.cal.run.map fun r => satMoved s r) = some false) := by decide

theorem witness_WatchdogAndThermalShutdown_held :
    (on .shutdown).md.mode ≠ .service ∧ { (on .shutdown) with pw := { power := .shutdown } }.pw.power = .shutdown := by decide

theorem witness_PtpSlaveFollowsTheSelectedMaster_others :
    ptpStray (slaved srcPtp tsLocked) { msg 6 24 0 with toDevice := false } = false ∧
      fromMaster (slaved srcPtp tsLocked) (msg 5 24 0) = true ∧ (msg 5 24 0).toDevice = true := by decide

theorem witness_PtpStampsPpsTimeoutAndUptime_room :
    (∀ k ∈ [PtpKind.delayReq, .sync, .delayResp], ptpFits (slaved srcPtp tsLocked) k = true) ∧
    (∀ k ∈ [PtpKind.delayReq, .sync, .delayResp], ∀ e : Egress, e.forwarded = false → 1048576 ≤ e.size →
      ptpFits { slaved srcPtp tsLocked with fh := { (slaved srcPtp tsLocked).fh with egress := [e] } } k = false) := by
  refine ⟨by decide, ?_⟩
  intro k _ e f h
  simp [ptpFits, egressUsed, f, slaved]
  omega

theorem witness_PartialSumsAndUplinkSymbolsLeaveOnce_done :
    (let f := frame 1 4 1 0 1 (tagAt 0 0 7) true (udata 1)
     let s := { hub with fh := { hub.fh with accs := [{ acc0 true with deadline := 2 * usFp 1000000000000000 }] } }
     accClosed (got s f) 0 (tagAt 0 0 7) = false ∧ accDone (got s f) 0 (tagAt 0 0 7) = true) := by decide

/-! Ill-formed commands: one for each check of `Instr.wf`, and well-formed neighbours -/

def illHdr : CmdHdr := { path := .mspi, tag := 65536 }

def ill : List Instr :=
  [.brownOut 65536, .railFault 14 0, .dramTrainingDone [3], .housekeepingRound { codes := [], values := [], vin := [], iin := [], speedNow := [],
                                                                                 speedMax := [] },
   .crewLoad 32 [], .crewLoad 0 [64], .stroke 2, .symbolStart .dl 2 (tagAt 0 0 0) [], .symbolStart .dl 0 (tagAt 10 0 0) [],
   .symbolCut .ul 0 (tagAt 0 8 0), .symbolBoundary 0 (tagAt 0 0 14), .itemDispatch 32, .queueWaitEnd 2048, .seatEnd (seat 2048),
   .seatMac (seat 0) { xr := 8 }, .seatNop (seat 0) { side := .ld 8 0 0 }, .seatMpy (seat 0) { side := .st 0 4 0 },
     .seatMsu (seat 0) { fault := { flips := [(10, 1)] } },
   .seatAdd (seat 0) { dd := 8, da := 0, db := 0 }, .seatNrw (seat 0) 0 true false 32, .seatNorm (seat 0) 2 0,
     .seatAclr (seat 0) 3, .seatExp (seat 0) 0 0 0 0 false 64 []]

def ill' : List Instr :=
  [.seatMovi (seat 0) 0 3 0, .seatMovs (seat 0) 0 8, .seatLdp (seat 0) true 4 0, .seatMvp (seat 0) false 0 8,
    .seatLoop (seat 0) false 0 0 256, .seatJmp (seat 0) 256, .seatBz (seat 0) 8 0,
   .cSection { frame 0 3 0 0 1 (tagAt 0 0 0) false [] with lane := 4 }, .macControlFrame 2, .linkUp 4, .refreshDue 3,
   .lookupDone [{ word := 0, flips := [(40, 1)], waXor := 0 }], .dmaGo 16, .dmaSetFieldWrite 0 8 0, .captureEnd 16,
   .captureBlockStaged 0 (tagAt 0 0 14) 0 [], .txPathFault 64 1, .registerWrite 2 0, .rcRead (2 ^ 32), .lockDetected 4, .idleGapStart 0 4,
   .crewFault 32 9, .announce (msg 0 256 0), .comparatorTrip 24, .writePacket 65536 [] 0, .ident illHdr, .eventMask h0 0 (2 ^ 128)]

def ill'' : List Instr :=
  [.sectorBeamSet h0 0 0 0 [], .fhEq h0 0 (some [0, 0, 0, 0, 0, 0]) none, .loTune h0 (2 ^ 64) 0, .loTune h0 0 (2 ^ 32), .calRun h0 [],
   .regWrite h0 [], .dpdStatusCmd h0 (2 ^ 32), .modeSet illHdr { items := { target := 0 } }, .capArm h0 (2 ^ 32), .fwWrite illHdr 0 []]

theorem ill_formed_commands_are_refused : (ill ++ ill' ++ ill'').all (fun i => !Instr.wf i) = true := by decide

theorem their_neighbours_are_well_formed :
    [Instr.brownOut 65535, .railFault 13 0, .dramTrainingDone [2], .crewLoad 31 [63], .stroke 1, .symbolCut .ul 1 (tagAt 9 7 13),
      .seatEnd (seat 2047), .seatMac (seat 2047) { xr := 7, side := .ld 7 3 3, fault := { flips := [(9, 1)] } }, .seatNrw (seat 0) 7 true false 31,
        .seatAclr (seat 0) 2, .seatJmp (seat 0) 255,
      .refreshDue 2, .dmaGo 15, .txPathFault 63 4, .registerWrite 0xFFFFFFFC 0, .comparatorTrip 23, .ident h0, .calRun h0 [447],
      .eventMask h0 1 (2 ^ 128 - 1)].all Instr.wf = true := by decide

/-- The opcode table gives no bits, so no word spells a command (log entry 1). -/
theorem no_word_spells_a_command : decodeTableWord 32 0x12345678 = none ∧ State.reset.withFetchWord 32 0 = State.reset := ⟨rfl, rfl⟩

/-! Worked examples of the spec -/

/-- The example of 06_weight_store.md: the bucket of tag 1; and of 10_cave_controller.md: the header of its way 1. -/
theorem test_bucket_of_tag_1 : bucketOf 1 = 324027 ∧ wayAddr 324027 0 = 0x2C7F9300 ∧ wayAddr 324027 1 = 0x2C7F9420 := by decide

/-- The table "one bucket in three orders" of 10_cave_controller.md: logical rank, bank, row, column. -/
theorem test_address_maps :
    mapAddr 0 0x2C7F9300 = (0, 2, 22783, 24) ∧ mapAddr 1 0x2C7F9300 = (0, 4, 22783, 9) ∧ mapAddr 2 0x2C7F9300 = (0, 9, 11391, 12) ∧
      mapAddr 2 0x2C7F9420 = (1, 9, 11391, 16) := by decide

/-- The example of R101: exponent 4, mantissas 210, −64 and −3, and what the receiver restores. -/
theorem test_prb_block :
    (encodePrb ([3372, -1024, -37] ++ List.replicate 21 0) 9).take 4 = [0x04, 0x69, 0x70, 0x3F] ∧
      (nth 0 (encodePrb ([3372, -1024, -37] ++ List.replicate 21 0) 9) 4).toNat / 32 = 5 ∧
      (decodePrb (encodePrb ([3372, -1024, -37] ++ List.replicate 21 0) 9) 9).take 3 = [3360, -1024, -48] := by decide

/-- The example of 05_seat_programming.md: ASR by 4 turns 0x0D2CFC00 into 0x00D2FFC0 per half. -/
theorem test_seat_asr :
    ((seatOf (after (.seatAsr (seat 2047) { dd := 3, da := 1, db := 2, hw := true })
      (seated { d := [{}, word 0x0D2CFC00, word 4, {}, {}, {}, {}, {}] })) 2047).reg 3).val = 0x00D2FFC0 := by decide

/-- The same example: EXP over the PRB's first word returns 13. -/
theorem test_seat_exp :
    ((seatOf (after (.seatExp (seat 2047) 4 0 0 0 false 1 []) (seated { mem := [(0, word 0x0D2CFC00)] })) 2047).reg 4).val = 13 := by decide

/-- Channels 24 and 25 of a round: the lowest VIN, the mean IIN of its 16 samples (R460). -/
theorem test_round_samples :
    let hk : HkSample := { codes := [], values := [], vin := [9000, 8700, 9100], iin := List.replicate 8 100 ++ List.replicate 8 103,
                           speedNow := [], speedMax := [] }
    nth 0 (roundValues hk) 24 = 8700 ∧ nth 0 (roundValues hk) 25 = 101 := by decide

/-- Loads of a marked word and the reads of an EXP over two marked words count as poisoned reads (R355). -/
theorem test_seat_poison :
    fget (after (.seatMpy (seat 2047) { example0 with push := false, side := .ld 2 0 0 })
      (seated { mem := [(0, { val := 1, mark := true })] })) F.poisonReadCnt = 1 ∧
      fget (after (.seatExp (seat 2047) 4 0 0 0 false 2 []) (seated { mem := [(0, { val := 1, mark := true })] })) F.poisonReadCnt = 2 := by
  decide

/-- A data word of a seat in the 80-bit form: one symbol in error is corrected and counted, an error of the address or in two symbols marks
the value and counts as a poisoned read; a program word with one symbol in error is corrected (R168, R344, R348, R350). -/
theorem test_seat_rind :
    (let run (f : WordFault) := after (.seatMpy (seat 2047) { example0 with push := false, side := .ld 2 0 0, fault := f })
       (seated { mem := [(0, word 0x12345678), (1, word 9)] })
     let seen (t : State) := ((seatOf t 2047).reg 2, tget 0 t.fab.seatCorr 31, fget t F.poisonReadCnt)
     seen (run { flips := [(3, 0x40)] }) = ({ val := 0x12345678 }, 1, 0) ∧
       (seen (run { waXor := 1 })).1.mark = true ∧ (seen (run { waXor := 1 })).2.2 = 1 ∧
       (seen (run { flips := [(2, 1), (9, 1)] })).1.mark = true) ∧
    (let q : SeatFetch := { n := 2047, fault := { flips := [(2, 1)] } }
     fetchWord (kernelled {}) q = (.corrected, 0x1D0CD2C0) ∧
       tget 0 (after (.seatMac q example0) (kernelled {})).fab.seatCorr 31 = 1) := by decide +kernel

/-- The worked kernel's first multiply: MPY A0, D2.H, D1.H takes the high halves; 3,372 × (−2) = −6,744. -/
theorem test_seat_mpy :
    (seatOf (after (.seatMpy (seat 2047) { acc := 0, xr := 2, xh := true, yr := 1, yh := true })
      (seated { d := [{}, word 0xFFFE0007, word 0x0D2CFC00, {}, {}, {}, {}, {}] })) 2047).a0.val.toInt = -6744 := by decide

/-- An accumulator of 40 bits wraps: 2^39 − 1 plus 1 is −2^39 (R173). -/
theorem test_seat_mac_wraps :
    (seatOf (after (.seatMac (seat 2047) { acc := 1, xr := 0, yr := 0 })
      (seated { d := [word 1, {}, {}, {}, {}, {}, {}, {}], a1 := { val := 0x7FFFFFFFFF } })) 2047).a1.val = 0x8000000000 := by decide

/-- NRW with saturation clamps 40,000 to 32,767 and counts one clamp (R174). -/
theorem test_seat_nrw_clamps :
    let t := after (.seatNrw (seat 2047) 5 true false 0) (seated { a0 := { val := 40000 }, a1 := { val := 5 } })
    ((seatOf t 2047).reg 5).val = 0x7FFF0005 ∧ fget t F.fabSatCnt = 1 := by decide

/-- The loop of the worked kernel, "LOOP 12, end 0E" at 06: 12 passes over 07 to 0E. -/
theorem test_seat_loop :
    (seatOf (after (.seatLoop (seat 2047) false 0 0x0E 12) (seated { pc := 6 })) 2047).loops = [{ count := 12, first := 7,
                                                                                                  last := 0x0E }] := by decide

/-- The encoding example of 05_seat_programming.md is a valid word; with SD 1 it would be one too, with OP 0x1B it is none. -/
theorem test_valid_word : wordValid 0x1D0CD2C0 = true ∧ wordValid 0xDD0CD2C0 = false := by decide

/-- The example of 07_rf_paths.md: entry 41 of the default table holds DRV_CODE 20 and DIG_GAIN 31,838. -/
theorem test_power_table : defaultEntry 41 = 0x00147C5E := by decide +kernel

/-- The example of 02_operating_modes.md: at 7.0 V P_AVAIL is 72 W, which WIDE's 78 W and CHAIN's 75 W exceed, but not SPLIT's 72 W. -/
theorem test_power_check :
    let s := { on .dense with th := { values := List.replicate 24 500 ++ [7000] } }
    pAvail s = 72000 ∧ powerOk s .wide = false ∧ powerOk s .chain = false ∧ powerOk s .split = true ∧ powerOk s .dense = true := by decide

/-- The example of 01_architecture.md: 32 uplink beams at 12 bits fit a port of 100 Gb/s, at 16 bits they do not; they fit 200 Gb/s. -/
theorem test_uplink_capacity :
    let c (m : Nat) : ModeCfg := { ulBeams := (32, 32), mantW := (m, m) }
    capacityOk { on .standby with fh := { portConfig := 1 } } .dense (c 12) = true ∧
      capacityOk { on .standby with fh := { portConfig := 1 } } .dense (c 16) = false ∧ capacityOk (on .standby) .dense (c 16) = true := by
  decide +kernel

/-- The example "reading two slack registers in band": 101 ticks, 9.2 %, and 219 ticks, 19.9 %. -/
theorem test_reg_read :
    let s := withF (on .dense) [(F.fabSlackMinDl0Pct, 0, 92), (F.fabSlackMinDl0Ticks, 0, 101), (F.fabSlackMinUl0Pct, 0, 199),
      (F.fabSlackMinUl0Ticks, 0, 219)]
    (after (.regRead { path := .mspi, tag := 0x1234 } 0x400010 2) s).ccp.outMspi =
      [.reply { opcode := 0x00C0, tag := 0x1234, status := 0,
                results := [{ type := 1, value := [0, 0x5C, 0, 0x65, 0, 0xC7, 0, 0xDB] }] }] := by decide

/-- The example of R350: a poisoned word read at its own address is POISONED, at an address that differs in wa[14] it is UE_ADDR. -/
theorem test_poison_and_address :
    (rindRead caveForm [] [(7, true)] 7 { word := 7, flips := [], waXor := 0 }).1 = .poisoned ∧
      (rindRead caveForm [] [] 7 { word := 7, flips := [], waXor := 0x4000 }).1 = .ueAddr := by decide +kernel

/-- The example of 12_dma.md: the final handshake of set A with SHADOW_VALID 1 makes set B active, DMA_SET_CNT 1 and SET_DONE set. -/
theorem test_dma_hand_over :
    let s := withF (channel dmaRunning spCave spCave { last := true }) [(F.dmaSrc, 13, 0x60100000), (F.dmaShSrc, 13, 0x60120000),
      (F.dmaShDst, 13, 0x64000000), (F.dmaShLen, 13, 0x20000), (F.dmaShCtrlEsize, 13, 1)]
    let t := after (.dmaFinalHandshake 13) s
    dmaState t 13 = dmaRunning ∧ fget t F.dmaSetCnt 13 = 1 ∧ fget t F.dmaStatusSetDone 13 = 1 ∧ fget t F.dmaStatusShadowValid 13 = 0 ∧
      fget t F.dmaSrc 13 = 0x60120000 := by decide

/-- R381 and R384: a write to an armed shadow set is ignored and sets SHADOW_BUSY. -/
theorem test_shadow_busy :
    let t := after (.dmaSetFieldWrite 13 6 0x40) (channel dmaIdle spCave spCave {})
    fget t F.dmaStatusShadowBusy 13 = 1 ∧ fget t F.dmaShLen 13 = fget (channel dmaIdle spCave spCave {}) F.dmaShLen 13 := by decide

/-- R65: VIN past its threshold starts the sequence; R17: W1C clears the bits written as 1. -/
theorem test_vin_start : (after .vinStart State.reset).pw.power = .starting ∧ (after .vinStart (on .dense)).pw.power = .on := by decide

theorem test_w1c : fget (after (.w1cWrite (F.fabEventFault.addr 0) 0xFFFFFFFF) marked) F.fabEventFault = 0 := by decide

/-- The encoding example of 05_seat_programming.md (MAC A1, D2.L, D1.H ; LD D2, [P1]+M1 ; PUSH); the all-zero word is END; OP 0x1B is no
instruction (R172). -/
theorem test_seat_word_example :
    instrOfWord 2047 0x1D0CD2C0 = some (.seatMac (seat 2047) example0) ∧ instrOfWord 0 0 = some (.seatEnd (seat 0)) ∧
      instrOfWord 0 0xD8000000 = none := by decide

/-- Before VIO18 no CMOS output is driven (R455); in STANDBY the chip selects are high and NIRQ is released. -/
theorem test_pins_at_reset_and_standby :
    strobePin State.reset 0 = .notDriven ∧ chipSelectPin (on .standby) 0 = .high ∧ sckPin (on .standby) = .low ∧
      nirqPin (on .standby) = .released ∧ lanePin (linked .dense) 3 = .clocking := by decide

end Sys2Proof.Tests
end

section
/-! SUPPORT. What the checks of a command see is the state before it; a command that a check refuses changes nothing (R438). -/

namespace Sys2Proof.Machine

/-- A command whose checks fail is answered with their status and changes nothing (R438). -/
theorem completes_fail {s : State} {h : CmdHdr} {op : Nat} {i : Instr} {body : Nat → State → State × Ans} {st dt : Nat}
    (ht : Takes s h op i) (he : exec i s = .next (ccpRun h op i body s))
    (hb : body s.ccp.nextSlot (opened s h op i) = (opened s h op i, fail st dt)) : Completes s h i s (stReply h op st dt) :=
  completes_report ht he hb

/-! Opening the reply slot leaves what the checks look at. -/

@[simp] theorem absentTx_opened (s : State) (h : CmdHdr) (op : Nat) (i : Instr) : absentTx (opened s h op i) = absentTx s := by
  rw [opened_eq]; rfl

@[simp] theorem namesAbsent_opened (s : State) (h : CmdHdr) (op : Nat) (i : Instr) :
    namesAbsent (opened s h op i) = namesAbsent s := by
  rw [opened_eq]; rfl

@[simp] theorem pairStatus_opened (s : State) (h : CmdHdr) (op : Nat) (i : Instr) :
    pairStatus (opened s h op i) = pairStatus s := by
  rw [opened_eq]; rfl

end Sys2Proof.Machine
end

section
/-! SUPPORT. Where the registers stand, and that no access elsewhere has an effect (R13, R443). -/

namespace Sys2Proof.Machine

/-- Every register of the maps stands at a multiple of 4, and its fields lie in its 32 bits. -/
theorem regsOfBlock_placed (b : Nat) : ∀ r ∈ regsOfBlock b, r.base % 4 = 0 ∧ r.stride % 4 = 0 ∧
    ∀ f ∈ r.flds, f.base = r.base ∧ f.stride = r.stride ∧ f.lo + f.width ≤ 32 := by
  unfold regsOfBlock
  split <;> decide

/-- A register that is found at an address is one of its block's, at its own address. -/
theorem regAt_some {a i : Nat} {r : RegDef} (h : regAt a = some (r, i)) :
    r ∈ regsOfBlock (a / 0x100000) ∧ a = r.base + r.stride * i := by
  obtain ⟨q, hq, hf⟩ := List.exists_of_findSome?_eq_some h
  split at hf
  · split at hf
    · obtain ⟨rfl, rfl⟩ := Prod.mk.inj (Option.some.inj hf)
      exact ⟨hq, by omega⟩
    · cases hf
  · split at hf
    · next hs =>
      obtain ⟨hb, hm, -⟩ := hs
      obtain ⟨rfl, rfl⟩ := Prod.mk.inj (Option.some.inj hf)
      refine ⟨hq, ?_⟩
      rw [Nat.mul_div_cancel' (Nat.dvd_of_mod_eq_zero hm)]
      omega
    · cases hf

/-- Registers stand at multiples of 4. -/
theorem regAt_aligned {a i : Nat} {r : RegDef} (h : regAt a = some (r, i)) : a % 4 = 0 := by
  obtain ⟨hr, rfl⟩ := regAt_some h
  obtain ⟨hb, hs, -⟩ := regsOfBlock_placed _ r hr
  rw [Nat.add_mod, Nat.mul_mod, hb, hs, Nat.zero_mul]

/-- The fields of the register at an address lie in its 32 bits and have its address. -/
theorem regAt_flds {a i : Nat} {r : RegDef} (h : regAt a = some (r, i)) : ∀ f ∈ r.flds, f.lo + f.width ≤ 32 ∧ f.addr i = a := by
  intro f hf
  obtain ⟨hr, ha⟩ := regAt_some h
  obtain ⟨hb, hs, hw⟩ := (regsOfBlock_placed _ r hr).2.2 f hf
  exact ⟨hw, by rw [Fld.addr, hb, hs, ha]⟩

/-- No register stands at an unaligned address. -/
theorem regAt_unaligned {a : Nat} (h : a % 4 ≠ 0) : regAt a = none :=
  Option.eq_none_iff_forall_ne_some.mpr fun _ hr => h (regAt_aligned hr)

/-- A read where no register stands clears nothing. -/
theorem clearRc_none {s : State} {a : Nat} (h : regAt a = none) : clearRc s a = s := by
  rw [clearRc, h]

/-- A W1C write where no register stands clears nothing. -/
theorem w1cFx_none {s : State} {a : Nat} {w : Word} (h : regAt a = none) : w1cFx s a w = s := by
  rw [w1cFx, h]

/-- A write where no register stands changes nothing. -/
theorem regWriteCore_none {s : State} {a : Nat} {w : Word} (h : regAt a = none) : regWriteCore s a w = s := by
  rw [regWriteCore, h]

/-- A write at an unaligned address changes nothing, in the DMA channels' registers or elsewhere. -/
theorem regWriteFx_unaligned {s : State} {a : Nat} {w : Word} (h : a % 4 ≠ 0) : regWriteFx s a w = s := by
  have hc : regWriteCore s a w = s := regWriteCore_none (regAt_unaligned h)
  unfold regWriteFx
  dsimp only
  split
  · split
    · rw [if_neg (by omega)] -- a set field stands at a multiple of 4
    · rw [if_neg (by omega), hc] -- and so does DMA_CMD
  · exact hc

/-- A pair of REG_WRITE at an unaligned address is BAD_ALIGN (R445). -/
theorem pairStatus_unaligned {s : State} {a : Nat} {w : Word} (h : a % 4 ≠ 0) : pairStatus s (a, w) = some stBadAlign :=
  if_pos h

/-- The pair that REG_WRITE reports is the first one that fails: those before it pass (R445). -/
theorem firstRefused_append {s : State} {l m : List (Nat × Word)} {p : Nat × Word} {st : Nat}
    (hl : ∀ q ∈ l, pairStatus s q = none) (hp : pairStatus s p = some st) (k : Nat) :
    firstRefused s (l ++ p :: m) k = some (st, k + l.length) := by
  induction l generalizing k with
  | nil => simp only [List.nil_append, firstRefused, hp, List.length_nil, Nat.add_zero]
  | cons q l ih =>
    obtain ⟨hq, hl⟩ := List.forall_mem_cons.mp hl
    simp only [List.cons_append, firstRefused, hq, ih hl, List.length_cons]
    rw [Nat.add_right_comm, Nat.add_assoc]

/-- REG_READ of an unaligned range is BAD_ALIGN (R444). -/
theorem regRead_unaligned {s : State} {h : CmdHdr} {a n : Nat} (ha : a % 4 ≠ 0) (hn : 1 ≤ n) (hm : n ≤ 64)
    (ht : Takes s h 0x00C0 (.regRead h a n)) : Completes s h (.regRead h a n) s (stReply h 0x00C0 stBadAlign 0) := by
  refine completes_fail ht rfl ?_
  rw [if_neg (by omega), if_pos ha]

/-- REG_WRITE reports its first failing pair (R445). -/
theorem regWrite_refused {s : State} {h : CmdHdr} {l m : List (Nat × Word)} {p : Nat × Word} {st : Nat}
    (hn : l.length + m.length < 64) (hl : ∀ q ∈ l, pairStatus s q = none) (hp : pairStatus s p = some st)
    (ht : Takes s h 0x00C1 (.regWrite h (l ++ p :: m))) :
    Completes s h (.regWrite h (l ++ p :: m)) s (stReply h 0x00C1 st l.length) := by
  have hf : firstRefused (opened s h 0x00C1 (.regWrite h (l ++ p :: m))) (l ++ p :: m) 0 = some (st, l.length) := by
    rw [firstRefused_append (by rwa [pairStatus_opened]) (by rwa [pairStatus_opened]), Nat.zero_add]
  have hc : ¬(l ++ p :: m = [] ∨ 64 < (l ++ p :: m).length) := by
    rintro (hnil | hlen)
    · exact List.append_ne_nil_of_right_ne_nil l (List.cons_ne_nil p m) hnil
    · rw [List.length_append, List.length_cons] at hlen
      omega
  refine completes_fail ht rfl ?_
  rw [if_neg hc, hf]

/-- Settles O7: the registers stand at multiples of 4, so an unaligned access finds none, and the register commands refuse it before
any access is made. -/
theorem registersAreAlignedWords : Obligations.RegistersAreAlignedWords := by
  intro s a
  refine ⟨fun r i h => ⟨regAt_aligned h, regAt_flds h⟩, fun h n ha hn hm => regRead_unaligned ha hn hm,
    fun h w l m ha hn hl => regWrite_refused hn hl (pairStatus_unaligned ha), fun w ha => ?_⟩
  have hr : regAt a = none := regAt_unaligned ha
  exact ⟨congrArg Host.Outcome.next (regWriteFx_unaligned ha), congrArg Host.Outcome.next (w1cFx_none hr),
    congrArg Host.Outcome.next (clearRc_none hr)⟩

end Sys2Proof.Machine
end

section
/-! SUPPORT. The commands that name an absent TX path or its model bank (R5). -/

namespace Sys2Proof.Machine

/-- A model slot of an absent path fails its check, whatever its number. -/
theorem slotCheck_absent {s : State} {p : Nat} (k : Nat) (hp : p < 64) (ha : absentTx s p = true) :
    slotCheck s p k = some stUnitAbsent := by
  rw [slotCheck, if_neg (Nat.not_le.mpr hp), if_pos ha]

/-- An actuator's own source, and the ORX of a path's group with the path on its coupler, name that path (R254, R273). -/
theorem sourceAbsent_of_absent {s : State} {p src path : Nat} (hp : p < 64) (ha : absentTx s p = true)
    (h : (6 ≤ src ∧ path = p) ∨ (src = p / 16 ∧ path % 16 = p % 16)) : sourceAbsent s src path = true := by
  unfold sourceAbsent
  rcases h with ⟨hs, rfl⟩ | ⟨rfl, hm⟩
  · rw [if_neg (by omega), ha, Bool.true_and]
    exact decide_eq_true (Or.inr hs)
  · have hlt : p / 16 < 4 := by omega
    have hpath : 16 * (p / 16) + path % 16 = p := by omega
    rw [if_pos hlt, hpath, ha, Bool.true_and]
    exact decide_eq_true (Or.inl hlt)

/-- An ORX whose lines select the coupler of an absent path is not switched (R254). -/
theorem orxSwitchBody_absent {s : State} {p l : Nat} {aux n : Option Nat} (hp : p < 64) (ha : absentTx s p = true) (hl : l < 256)
    (hs : l / 32 % 2 = 0) (hm : l % 16 = p % 16) (hx : aux.getD 0 ≤ 3) (hn : n.getD 0 ≤ 10000) :
    orxSwitchBody (p / 16) (some l) aux n s = (s, fail stUnitAbsent) := by
  have hpath : 16 * (p / 16) + l % 16 = p := by omega
  have hrange : (decide (4 ≤ p / 16) || decide (255 < (some l).getD 0) || decide (3 < aux.getD 0) ||
      decide (10000 < n.getD 0)) = false := by
    simp only [Option.getD_some, Bool.or_eq_false_iff, decide_eq_false_iff_not]
    omega
  have habsent : (decide (l / 32 % 2 = 0) && absentTx s (16 * (p / 16) + l % 16)) = true := by
    rw [hpath, ha, Bool.and_true]
    exact decide_eq_true hs
  unfold orxSwitchBody
  rw [hrange, if_neg Bool.false_ne_true]
  exact if_pos habsent

/-- Settles O8: each of the ten commands checks its path before it does anything. -/
theorem absentPathsAreRefused : Obligations.AbsentPathsAreRefused := by
  intro s h paths p hn hp ha i op hi ht
  have habs : absentTx (opened s h op i) p = true := by rwa [absentTx_opened]
  have hslot (k : Nat) : slotCheck (opened s h op i) p k = some stUnitAbsent := slotCheck_absent k hp habs
  have hset : namesAbsent (opened s h op i) paths = true := by rwa [namesAbsent_opened]
  rcases hi with ⟨rfl, rfl⟩ | ⟨half, st, f, rfl, rfl⟩ | ⟨st, tr, rfl, rfl⟩ | ⟨f, rfl, rfl⟩ | ⟨e, rfl, rfl⟩ | ⟨k, x, rfl, rfl⟩ |
    ⟨k, r, rfl, rfl⟩ | ⟨k, rfl, rfl⟩ | ⟨r, cfg, area, len, t1, t2, rfl, rfl, hr, hsrc⟩ |
    ⟨l, aux, n, rfl, rfl, hl, hsw, hm, hx, hns⟩
  · exact completes_fail ht rfl (by rw [hslot])
  · exact completes_fail ht rfl (if_pos ⟨rfl, hset⟩)
  · exact completes_fail ht rfl (if_pos hset)
  · exact completes_fail ht rfl (if_pos hset)
  · exact completes_fail ht rfl (if_pos hset)
  · exact completes_fail ht rfl (by rw [hslot])
  · exact completes_fail ht rfl (by rw [hslot])
  · exact completes_fail ht rfl (by rw [hslot])
  · refine completes_fail ht rfl ?_
    have hs := sourceAbsent_of_absent hp habs hsrc
    rw [if_neg (by omega), if_pos hs]
  · exact completes_fail ht rfl (orxSwitchBody_absent hp habs hl hsw hm hx hns)

end Sys2Proof.Machine
end

section
/-! SUPPORT. Numbers as bytes: what a number, a signed number and a list of coefficients read after they are stored (R12, R102, R194). -/

namespace Sys2Proof.Machine

theorem beNat_append_singleton (l : List Byte) (b : Byte) : beNat (l ++ [b]) = beNat l * 256 + b.toNat := by
  simp only [beNat, List.foldl_append, List.foldl_cons, List.foldl_nil]

/-- Each byte read makes the bound on the number read so far 256 times as large. -/
theorem foldl_bytes_lt (l : List Byte) (a : Nat) : l.foldl (fun a b => a * 256 + b.toNat) a < (a + 1) * 256 ^ l.length := by
  induction l generalizing a with
  | nil => exact Nat.lt_of_lt_of_eq (Nat.lt_succ_self a) (Nat.mul_one _).symm
  | cons b l ih =>
    have hb : b.toNat < 256 := b.isLt
    have hstep : a * 256 + b.toNat + 1 ≤ (a + 1) * 256 := by omega
    calc (b :: l).foldl (fun a b => a * 256 + b.toNat) a
        < (a * 256 + b.toNat + 1) * 256 ^ l.length := ih _
      _ ≤ (a + 1) * 256 * 256 ^ l.length := Nat.mul_le_mul_right _ hstep
      _ = (a + 1) * 256 ^ (b :: l).length := by rw [List.length_cons, Nat.pow_succ', Nat.mul_assoc]

/-- Bytes spell a number that their count holds. -/
theorem beNat_lt (l : List Byte) : beNat l < 256 ^ l.length :=
  Nat.lt_of_lt_of_eq (foldl_bytes_lt l 0) (Nat.one_mul _)

@[simp] theorem length_beBytes (n v : Nat) : (beBytes n v).length = n := by
  simp only [beBytes, List.length_map, List.length_range]

/-- The last byte of a number is its lowest. -/
theorem beBytes_succ (n v : Nat) : beBytes (n + 1) v = beBytes n (v / 256) ++ [BitVec.ofNat 8 v] := by
  have hi : ∀ i ∈ List.range n, BitVec.ofNat 8 (v >>> (8 * (n + 1 - 1 - i))) = BitVec.ofNat 8 ((v / 256) >>> (8 * (n - 1 - i))) := by
    intro i hi
    have hlt : i < n := List.mem_range.mp hi
    rw [show 8 * (n + 1 - 1 - i) = 8 + 8 * (n - 1 - i) by omega, Nat.shiftRight_add, Nat.shiftRight_eq_div_pow v]
  simp only [beBytes, List.range_succ, List.map_append, List.map_cons, List.map_nil, List.map_congr_left hi]
  rw [show n + 1 - 1 - n = 0 by omega]
  rfl

/-- `n` bytes hold a number modulo 256ⁿ. -/
theorem beNat_beBytes (n v : Nat) : beNat (beBytes n v) = v % 256 ^ n := by
  induction n generalizing v with
  | zero => exact (Nat.mod_one v).symm
  | succ n ih =>
    rw [beBytes_succ, beNat_append_singleton, ih, BitVec.toNat_ofNat, Nat.pow_succ' (m := 256), Nat.mod_mul]
    omega

@[simp] theorem length_slice (l : List Byte) (o n : Nat) : (slice l o n).length = n := by
  simp only [slice, List.length_map, List.length_range]

/-- A number read from `n` bytes lies below 256ⁿ. -/
theorem beNat_slice_lt (l : List Byte) (o n : Nat) : beNat (slice l o n) < 256 ^ n := by
  have h := beNat_lt (slice l o n)
  rwa [length_slice] at h

/-- A slice that lies behind the first part of a list is a slice of the rest. -/
theorem slice_append_right {a l : List Byte} {o n : Nat} (h : a.length ≤ o) : slice (a ++ l) o n = slice l (o - a.length) n := by
  refine List.map_congr_left fun i _ => ?_
  rw [nth, nth, List.getElem?_append_right (by omega), Nat.sub_add_comm h]

/-- A number stored at the front of a list reads back. -/
theorem beNat_slice_beBytes (n v : Nat) (l : List Byte) : beNat (slice (beBytes n v ++ l) 0 n) = v % 256 ^ n := by
  have hs : slice (beBytes n v ++ l) 0 n = beBytes n v := by
    refine List.ext_getElem (by simp) fun i hi _ => ?_
    have hlt : i < (beBytes n v).length := by simpa using hi
    simp [slice, nth, List.getElem?_append_left hlt, List.getElem?_eq_getElem hlt]
  rw [hs, beNat_beBytes]

/-- A number of 16-bit two's complement. -/
def Fits16 (x : Int) : Prop := -32768 ≤ x ∧ x ≤ 32767

theorem fits16_signed (n : Nat) : Fits16 (signed 16 n) := by
  unfold Fits16 signed
  dsimp only
  split <;> omega

theorem unsign16_lt (x : Int) : unsign 16 x < 256 ^ 2 := by
  unfold unsign
  omega

theorem signed16_unsign {x : Int} (h : Fits16 x) : signed 16 (unsign 16 x) = x := by
  obtain ⟨hlo, hhi⟩ := h
  unfold signed unsign
  dsimp only
  split <;> omega

/-- A signed number stored at the front of a list reads back. -/
theorem signed16_slice_unsign {x : Int} (h : Fits16 x) (l : List Byte) :
    signed 16 (beNat (slice (beBytes 2 (unsign 16 x) ++ l) 0 2)) = x := by
  rw [beNat_slice_beBytes, Nat.mod_eq_of_lt (unsign16_lt x), signed16_unsign h]

/-- Both parts of a coefficient are 16-bit numbers. -/
def CoefFits (c : Cplx) : Prop := Fits16 c.re ∧ Fits16 c.im

theorem coefBytes_cons (c : Cplx) (l : List Cplx) :
    coefBytes (c :: l) = (beBytes 2 (unsign 16 c.re) ++ beBytes 2 (unsign 16 c.im)) ++ coefBytes l := List.flatMap_cons

theorem length_coefBytes (l : List Cplx) : (coefBytes l).length = 4 * l.length := by
  induction l with
  | nil => rfl
  | cons c l ih =>
    rw [coefBytes_cons, List.length_append, List.length_append, length_beBytes, length_beBytes, ih, List.length_cons]
    omega

theorem length_coefOf (b : List Byte) (n : Nat) : (coefOf b n).length = n := by
  simp only [coefOf, List.length_map, List.length_range]

theorem coefFits_of_mem_coefOf {b : List Byte} {n : Nat} {c : Cplx} (h : c ∈ coefOf b n) : CoefFits c := by
  obtain ⟨i, -, rfl⟩ := List.mem_map.mp h
  exact ⟨fits16_signed _, fits16_signed _⟩

/-- Coefficients behind the bytes of one. -/
theorem coefOf_append {a b : List Byte} (n : Nat) (h : a.length = 4) :
    coefOf (a ++ b) (n + 1) = { re := signed 16 (beNat (slice (a ++ b) 0 2)), im := signed 16 (beNat (slice (a ++ b) 2 2)) } ::
      coefOf b n := by
  have hrest (i : Nat) : slice (a ++ b) (4 * (i + 1)) 2 = slice b (4 * i) 2 ∧
      slice (a ++ b) (4 * (i + 1) + 2) 2 = slice b (4 * i + 2) 2 := by
    constructor <;> rw [slice_append_right (by omega)] <;> congr 1 <;> omega
  simp [coefOf, List.range_succ_eq_map, hrest]

/-- Coefficients stored read back. -/
theorem coefOf_coefBytes {l : List Cplx} (h : ∀ c ∈ l, CoefFits c) : coefOf (coefBytes l) l.length = l := by
  induction l with
  | nil => rfl
  | cons c l ih =>
    obtain ⟨⟨hre, him⟩, hl⟩ := List.forall_mem_cons.mp h
    rw [coefBytes_cons, List.length_cons, coefOf_append _ (by simp), ih hl, List.append_assoc, signed16_slice_unsign hre,
      slice_append_right (by simp), length_beBytes, signed16_slice_unsign him]

end Sys2Proof.Machine
end

section
/-! SUPPORT. The 288 bytes of a weight-store entry (R194): an entry whose fields fit them reads back. -/

namespace Sys2Proof.Machine

/-- The fields of an entry fit their places in R194, LAST_HEARD apart. -/
structure Entry.Fits (e : Entry) : Prop where
  tag : e.tag < 2 ^ 32
  state : e.state < 4
  origin : e.origin < 2
  quality : Fits16 e.quality
  updCnt : e.updCnt < 2 ^ 32
  coef_length : e.coef.length = 64
  coef : ∀ c ∈ e.coef, CoefFits c

/-- What bytes spell fits them. -/
theorem entryOf_fits (b : List Byte) : (entryOf b).Fits where
  tag := beNat_slice_lt b 0 4
  state := Nat.div_lt_of_lt_mul (nth (0 : Byte) b 4).isLt
  origin := Nat.mod_lt _ Nat.two_pos
  quality := fits16_signed _
  updCnt := beNat_slice_lt b 8 4
  coef_length := length_coefOf _ _
  coef _ hc := coefFits_of_mem_coefOf hc

theorem entryOf_lastHeard_lt (b : List Byte) : (entryOf b).lastHeard < 2 ^ 48 := beNat_slice_lt b 12 6

/-- The coefficients of an entry fill its last 256 bytes. -/
theorem entryBytes_eq {e : Entry} (h : e.coef.length = 64) :
    entryBytes e = beBytes 4 e.tag ++ ([BitVec.ofNat 8 (e.state * 64 + e.origin * 32), 0] ++ (beBytes 2 (unsign 16 e.quality) ++
      (beBytes 4 e.updCnt ++ (beBytes 6 e.lastHeard ++ (List.replicate 14 0 ++ coefBytes e.coef))))) := by
  have hlen : (coefBytes e.coef).length = 256 := by rw [length_coefBytes, h]
  simp only [entryBytes, hlen, List.take_of_length_le (Nat.le_of_eq hlen), Nat.sub_self, List.replicate_zero, List.append_nil,
    List.append_assoc]

/-- An entry stored reads back, LAST_HEARD in 48 bits. -/
theorem entryOf_entryBytes {e : Entry} (h : e.Fits) : entryOf (entryBytes e) = { e with lastHeard := e.lastHeard % 2 ^ 48 } := by
  obtain ⟨htag, hstate, horigin, hquality, hupd, hlen, hcoef⟩ := h
  have hbyte : (nth (0 : Byte) (entryBytes e) 4).toNat = e.state * 64 + e.origin * 32 := by
    rw [entryBytes_eq hlen, nth, List.getElem?_append_right (Nat.le_of_eq (length_beBytes ..)), length_beBytes]
    exact Nat.mod_eq_of_lt (by omega)
  have hbody : (entryBytes e).drop 32 = coefBytes e.coef := by
    simp [entryBytes_eq hlen, List.drop_append, List.drop_eq_nil_of_le]
  have hread : coefOf (coefBytes e.coef) 64 = e.coef := hlen ▸ coefOf_coefBytes hcoef
  unfold entryOf
  rw [hbyte, hbody, hread, entryBytes_eq hlen]
  -- each number stands behind the fields before it
  simp only [slice_append_right, length_beBytes, List.length_cons, List.length_nil, Nat.reduceLeDiff, Nat.reduceAdd, Nat.reduceSub,
    Nat.le_refl, Nat.sub_self, beNat_slice_beBytes, Nat.mod_eq_of_lt (unsign16_lt _), signed16_unsign hquality]
  congr 1 <;> omega

end Sys2Proof.Machine
end

section
/-! SUPPORT. What queueing an entry write does: the way reads the entry, every other way is as it was, and only the queue, its drain
state and a register change (R200, R328). -/

namespace Sys2Proof.Machine

/-- Judging the drain changes the drain state and the count of forced drains. -/
theorem judgeDrain_only (s : State) :
    judgeDrain s = { s with regs := (judgeDrain s).regs, cave := { s.cave with
      draining := (judgeDrain s).cave.draining, forced := (judgeDrain s).cave.forced } } := by
  unfold judgeDrain
  dsimp only
  split
  · rfl
  · split
    · split <;> rfl
    · split <;> rfl

/-- An entry write is put behind all others, in the queue of 64 or where the changes wait (R328). -/
theorem queueEntry_only (s : State) (b w : Nat) (e : Entry) :
    queueEntry s b w e = { s with regs := (queueEntry s b w e).regs, cave := { s.cave with
      nextReq := s.cave.nextReq + 1,
      writes := (queueEntry s b w e).cave.writes, waiting := (queueEntry s b w e).cave.waiting,
      draining := (queueEntry s b w e).cave.draining, forced := (queueEntry s b w e).cave.forced } } := by
  unfold queueEntry queueEntryBytes
  dsimp only
  split
  · rfl
  · rw [judgeDrain_only]

@[simp] theorem queueEntry_ws (s : State) (b w : Nat) (e : Entry) : (queueEntry s b w e).ws = s.ws := by rw [queueEntry_only]

@[simp] theorem queueEntry_caveMem (s : State) (b w : Nat) (e : Entry) : (queueEntry s b w e).caveMem = s.caveMem := by
  rw [queueEntry_only]

@[simp] theorem memLater_queueEntry (s : State) (b w : Nat) (e : Entry) : memLater (queueEntry s b w e) = memLater s := by
  rw [queueEntry_only]
  rfl

theorem entryWrites_queueEntry (s : State) (b w : Nat) (e : Entry) :
    entryWrites (queueEntry s b w e) =
      entryWrites s ++ [{ bucket := b, way := w, data := entryBytes e, id := s.cave.nextReq }] := by
  unfold queueEntry queueEntryBytes entryWrites
  dsimp only
  split
  · exact (List.append_assoc _ _ _).symm
  · next hfull =>
    have hwait : s.cave.waiting = [] := by
      simp only [Bool.or_eq_true, not_or, Bool.not_eq_true, Bool.not_eq_false', List.isEmpty_iff] at hfull
      exact hfull.2
    rw [judgeDrain_only]
    simp only [hwait, List.append_nil]

/-- The way written reads the entry. -/
theorem entryNow_queueEntry_same {s : State} {b w : Nat} {e : Entry} (h : e.Fits) :
    entryNow (queueEntry s b w e) b w = { e with lastHeard := e.lastHeard % 2 ^ 48 } := by
  simp [entryNow, wayWrite, entryWrites_queueEntry, entryOf_entryBytes h]

/-- Every other way is as it was. -/
theorem entryNow_queueEntry_other {s : State} {b w c v : Nat} {e : Entry} (h : (c, v) ≠ (b, w)) :
    entryNow (queueEntry s b w e) c v = entryNow s c v := by
  have hne : ¬(b = c ∧ w = v) := fun ⟨hb, hw⟩ => h (by rw [hb, hw])
  simp [entryNow, wayWrite, entryWrites_queueEntry, hne]

/-- What a way holds fits its bytes. -/
theorem entryNow_fits (s : State) (b w : Nat) : (entryNow s b w).Fits := by
  unfold entryNow
  split <;> exact entryOf_fits _

theorem entryNow_lastHeard_lt (s : State) (b w : Nat) : (entryNow s b w).lastHeard < 2 ^ 48 := by
  unfold entryNow
  split <;> exact entryOf_lastHeard_lt _

end Sys2Proof.Machine
end

section
/-! SUPPORT. Weight updates (R102, R214, R215): where a tag hashes to, which way an insertion takes, and what each form of an update
does to the entry. -/

namespace Sys2Proof.Machine

/-- A bucket number is one of the 524,288 (R197). -/
theorem bucketOf_lt (tag : Nat) : bucketOf tag < 524288 :=
  Nat.div_lt_of_lt_mul (Nat.mod_lt _ (Nat.two_pow_pos 32))

theorem wayAddr_eq (c w : Nat) : wayAddr c w = c * 2304 + 288 * w := by
  rw [wayAddr, Nat.mul_comm w]

/-- The bytes of two ways overlap only where they are one way (R197). -/
theorem wayAddr_disjoint {c w c' w' : Nat} (hw : w < 8) (hw' : w' < 8) (h : wayAddr c w < wayAddr c' w' + 288)
    (h' : wayAddr c' w' < wayAddr c w + 288) : c = c' ∧ w = w' := by
  unfold wayAddr at h h'
  omega

/-- A key reads the value written, in any table, where the value is not what an unlisted key reads. -/
theorem tget_tset_of_ne {α : Type} [DecidableEq α] {d v : α} (hv : v ≠ d) (t : Tbl α) (k : Nat) :
    tget d (tset d t k v) k = v := by
  induction t with
  | nil => rw [tset, if_neg hv, tget, if_pos rfl]
  | cons e t ih =>
    obtain ⟨j, x⟩ := e
    rw [tset, if_neg hv, if_neg hv]
    split
    · rw [tget, if_pos rfl]
    · split
      · rw [tget, if_pos rfl]
      · next hne => rw [tget, if_neg (Ne.symm hne), ih]

/-- A saturating counter that has advanced is not 0. -/
theorem satN_succ_ne_zero (n : Nat) : satN 32 (n + 1) ≠ 0 := by
  unfold satN
  omega

/-- A weight-store counter advances by one and saturates (R220). -/
theorem wsCount_counter (s : State) (k : Nat) :
    tget 0 (wsCount s k).ws.counters k = satN 32 (tget 0 s.ws.counters k + 1) :=
  tget_tset_of_ne (satN_succ_ne_zero _) _ _

theorem satN_lt (n : Nat) : satN 32 n < 2 ^ 32 := by
  unfold satN
  omega

/-- The lowest EMPTY way with a header that is not poisoned is taken first (R205). -/
theorem insertWay_of_empty {s : State} {b w : Nat} (hw : w < 8) (hp : headerPoisoned s b w = false)
    (he : (entryNow s b w).state = 0) (hlow : ∀ v, v < w → headerPoisoned s b v = true ∨ (entryNow s b v).state ≠ 0) :
    insertWay s b = some (w, 1) := by
  have hfind : ((List.range 8).filter fun v => !headerPoisoned s b v).find?
      (fun v => decide ((entryNow s b v).state = 0)) = some w := by
    rw [List.find?_filter, List.find?_range_eq_some]
    refine ⟨by simp [hp, he], List.mem_range.mpr hw, fun v hv => ?_⟩
    rcases hlow v hv with h | h <;> simp [h]
  unfold insertWay
  dsimp only
  rw [hfind]

/-- An insertion into a bucket with an EMPTY way counts and writes the entry there (R205). -/
theorem insertEntry_of_empty {s : State} {e : Entry} {w : Nat} (h : insertWay s (bucketOf e.tag) = some (w, 1)) :
    insertEntry s e = queueEntry (wsCount s wcInsert) (bucketOf e.tag) w e := by
  have hcount : insertWay (wsCount s wcInsert) (bucketOf e.tag) = some (w, 1) := h
  unfold insertEntry
  dsimp only
  rw [hcount]
  rfl

/-- What a WRITE leaves of an entry (R214). -/
def WsUpdate.entry (u : WsUpdate) (tag updCnt uptime : Nat) : Entry :=
  { tag := tag, state := 1, origin := 1, quality := u.quality, updCnt := updCnt, lastHeard := uptime, coef := u.coef }

/-- The quality and coefficients of an update are 16-bit numbers, 64 coefficients in all (R102). -/
structure WsUpdate.Fits (u : WsUpdate) : Prop where
  quality : Fits16 u.quality
  coef_length : u.coef.length = 64
  coef : ∀ c ∈ u.coef, CoefFits c

theorem WsUpdate.Fits.entry {u : WsUpdate} {tag n t : Nat} (h : u.Fits) (ht : tag < 2 ^ 32) (hn : n < 2 ^ 32) :
    (u.entry tag n t).Fits :=
  ⟨ht, Nat.one_lt_succ_succ 2, Nat.one_lt_two, h.quality, hn, h.coef_length, h.coef⟩

/-- An INVALIDATE of an absent tag changes nothing (R215). -/
theorem applyUpdate_invalidate_absent {s : State} {u : WsUpdate} (hi : u.write = false) (h : wayOf s (bucketOf u.tag) u.tag = none) :
    applyUpdate s u = s := by
  simp [applyUpdate, hi, h]

/-- An INVALIDATE of a present tag writes its entry with STATE INVALID (R215). -/
theorem applyUpdate_invalidate_present {s : State} {u : WsUpdate} {w : Nat} (hi : u.write = false)
    (h : wayOf s (bucketOf u.tag) u.tag = some w) :
    applyUpdate s u = queueEntry s (bucketOf u.tag) w { entryNow s (bucketOf u.tag) w with state := 3 } := by
  simp [applyUpdate, hi, h]

/-- A WRITE of a present tag writes its way, with UPDATE_CNT advanced (R214). -/
theorem applyUpdate_write_present {s : State} {u : WsUpdate} {w : Nat} (hw : u.write = true)
    (h : wayOf s (bucketOf u.tag) u.tag = some w) :
    applyUpdate s u = queueEntry s (bucketOf u.tag) w
      (u.entry (entryNow s (bucketOf u.tag) w).tag (satN 32 ((entryNow s (bucketOf u.tag) w).updCnt + 1)) s.tm.uptime) := by
  simp [applyUpdate, hw, h, WsUpdate.entry]

/-- A WRITE of an absent tag inserts it, with UPDATE_CNT 1 (R214). -/
theorem applyUpdate_write_absent {s : State} {u : WsUpdate} (hw : u.write = true) (h : wayOf s (bucketOf u.tag) u.tag = none) :
    applyUpdate s u = insertEntry s (u.entry u.tag 1 s.tm.uptime) := by
  simp [applyUpdate, hw, h, WsUpdate.entry]

/-- An INVALIDATE keeps every field of the entry but STATE, as the bytes of the entry hold them (log entry 189). -/
theorem entryNow_invalidated (s : State) (b w : Nat) :
    entryNow (queueEntry s b w { entryNow s b w with state := 3 }) b w = { entryNow s b w with state := 3 } := by
  have hf : Entry.Fits { entryNow s b w with state := 3 } := { entryNow_fits s b w with state := Nat.lt_succ_self 3 }
  rw [entryNow_queueEntry_same hf]
  dsimp only
  rw [Nat.mod_eq_of_lt (entryNow_lastHeard_lt s b w)]

/-- Settles O10: every form of an update is the queueing of one entry write, and the way written reads the entry because its fields fit
the 288 bytes of R194; the EMPTY way that the hypotheses name is the first that R205 takes. -/
theorem weightUpdatesSetAndInvalidateEntries : Obligations.WeightUpdatesSetAndInvalidateEntries := by
  rintro s u b rfl
  refine ⟨⟨rfl, bucketOf_lt _⟩, wayAddr_eq, fun _ _ _ _ => wayAddr_disjoint, applyUpdate_invalidate_absent, ?_, ?_, ?_⟩
  · intro w hi hway
    rw [applyUpdate_invalidate_present hi hway]
    exact ⟨entryNow_invalidated _ _ _, fun _ _ => entryNow_queueEntry_other, queueEntry_ws .., queueEntry_caveMem ..⟩
  · intro w hwr hway hlen hlo hhi hcoef
    have hu : u.Fits := ⟨⟨hlo, hhi⟩, hlen, fun c hc => and_assoc.mpr (hcoef c hc)⟩
    rw [applyUpdate_write_present hwr hway]
    exact ⟨entryNow_queueEntry_same (hu.entry (entryNow_fits ..).tag (satN_lt _)), fun _ _ => entryNow_queueEntry_other⟩
  · intro w hwr hway htag hlen hlo hhi hcoef hw hp he hlow
    have hu : u.Fits := ⟨⟨hlo, hhi⟩, hlen, fun c hc => and_assoc.mpr (hcoef c hc)⟩
    have hins : insertWay s (bucketOf (u.entry u.tag 1 s.tm.uptime).tag) = some (w, 1) := insertWay_of_empty hw hp he hlow
    rw [applyUpdate_write_absent hwr hway, insertEntry_of_empty hins, queueEntry_ws]
    exact ⟨entryNow_queueEntry_same (hu.entry htag (by decide)), wsCount_counter s wcInsert⟩

end Sys2Proof.Machine
end

section
/-! SUPPORT. The repeat tracker (R361, R362): which entry a full tracker gives up, and the correction of a word that has no entry. -/

namespace Sys2Proof.Machine

theorem findIdx?_state_none {l : List RepeatEntry} {st : TrackState} (h : ∀ y ∈ l, y.state ≠ st) :
    l.findIdx? (fun y => decide (y.state = st)) = none :=
  List.findIdx?_eq_none_iff.mpr fun y hy => decide_eq_false (h y hy)

/-- The first entry in a state stands behind the entries that are not in it. -/
theorem findIdx?_state_append {a b : List RepeatEntry} {x : RepeatEntry} {st : TrackState} (hx : x.state = st)
    (ha : ∀ y ∈ a, y.state ≠ st) : (a ++ x :: b).findIdx? (fun y => decide (y.state = st)) = some a.length := by
  rw [List.findIdx?_append, findIdx?_state_none ha, List.findIdx?_cons, if_pos (decide_eq_true hx), Option.none_or,
    Option.map_some, Nat.zero_add]

theorem eraseIdx_length_append_cons (a b : List RepeatEntry) (x : RepeatEntry) : (a ++ x :: b).eraseIdx a.length = a ++ b := by
  rw [List.eraseIdx_append_of_length_le (Nat.le_refl _), Nat.sub_self, List.eraseIdx_cons_zero]

/-- A full tracker gives up its oldest SEEN entry (R362). -/
theorem trackInsert_seen {a b : List RepeatEntry} {x : RepeatEntry} (e : RepeatEntry) (hfull : (a ++ x :: b).length = 32)
    (hx : x.state = .seen) (ha : ∀ y ∈ a, y.state ≠ .seen) : trackInsert (a ++ x :: b) e = a ++ b ++ [e] := by
  simp only [trackInsert, hfull, Nat.lt_irrefl, if_false, findIdx?_state_append hx ha, eraseIdx_length_append_cons]

/-- A full tracker without a SEEN entry gives up its oldest REWRITTEN entry (R362). -/
theorem trackInsert_rewritten {a b : List RepeatEntry} {x : RepeatEntry} (e : RepeatEntry) (hfull : (a ++ x :: b).length = 32)
    (hseen : ∀ y ∈ a ++ x :: b, y.state ≠ .seen) (hx : x.state = .rewritten) (ha : ∀ y ∈ a, y.state ≠ .rewritten) :
    trackInsert (a ++ x :: b) e = a ++ b ++ [e] := by
  simp only [trackInsert, hfull, Nat.lt_irrefl, if_false, findIdx?_state_none hseen, findIdx?_state_append hx ha,
    eraseIdx_length_append_cons]

/-- A full tracker with HARD entries alone gives up the oldest of them (R362). -/
theorem trackInsert_hard {l : List RepeatEntry} (e : RepeatEntry) (hfull : l.length = 32) (hseen : ∀ y ∈ l, y.state ≠ .seen)
    (hrew : ∀ y ∈ l, y.state ≠ .rewritten) : trackInsert l e = l.drop 1 ++ [e] := by
  simp only [trackInsert, hfull, Nat.lt_irrefl, if_false, findIdx?_state_none hseen, findIdx?_state_none hrew]

theorem TrackState.hard_of_ne {st : TrackState} (hs : st ≠ .seen) (hr : st ≠ .rewritten) : st = .hard := by
  cases st with
  | seen => exact absurd rfl hs
  | rewritten => exact absurd rfl hr
  | hard => rfl

/-- The correction of a word that has no entry inserts one, and the scrubber's queues its write-back (R357, R361). -/
theorem trackCorrection_untracked {s : State} {reader wa d : Nat}
    (h : ∀ y ∈ s.mi.tracker, ¬(y.addr = 32 * wa ∧ y.rank = d)) :
    trackCorrection s reader wa d = { s with mi := { s.mi with
      tracker := trackInsert s.mi.tracker { addr := 32 * wa, rank := d, state := if reader = byScrubber then .rewritten else .seen },
      rewrites := if reader = byScrubber ∧ (wa, d) ∉ s.mi.rewrites then s.mi.rewrites ++ [(wa, d)] else s.mi.rewrites } } := by
  have hfind : s.mi.tracker.find? (fun y => decide (y.addr = 32 * wa ∧ y.rank = d)) = none :=
    List.find?_eq_none.mpr fun y hy => mt of_decide_eq_true (h y hy)
  by_cases hr : reader = byScrubber
  · by_cases hq : (wa, d) ∈ s.mi.rewrites
    · simp only [trackCorrection, hr, hq, hfind, if_true, List.contains_iff_mem, true_and, not_true, if_false]
    · simp only [trackCorrection, hr, hq, hfind, if_true, List.contains_iff_mem, true_and, not_false_eq_true, if_false]
  · simp only [trackCorrection, hr, hfind, if_false, false_and]

/-- Settles O9: the search for each state finds the entry that the hypotheses name as its oldest, or none; a correction that inserts
changes only the tracker and the queued write-backs, so every HARD_CNT stays. -/
theorem theTrackerReplacesItsOldestEntry : Obligations.TheTrackerReplacesItsOldestEntry := by
  intro l e hfull
  refine ⟨?_, fun hseen => ⟨?_, ?_⟩, ?_⟩
  · rintro a x b rfl hx ha
    exact trackInsert_seen e hfull hx ha
  · rintro a x b rfl hx ha
    exact trackInsert_rewritten e hfull hseen hx ha
  · rintro hrew x b rfl
    exact ⟨TrackState.hard_of_ne (hseen x List.mem_cons_self) (hrew x List.mem_cons_self), trackInsert_hard e hfull hseen hrew⟩
  · rintro s reader wa d x rfl hnew rfl
    exact trackCorrection_untracked hnew

end Sys2Proof.Machine
end
